-- ==== Sys2Proof/Word.lean ====
section
/-! DEFINITION. The words of the block: bytes, 32-bit words, and the numbers that name bays, jobs, slots and tags. -/

namespace Sys2Proof

/-- One byte of a frame, a payload or a sector. -/
abbrev Byte := BitVec 8

/-- A 32-bit word: a clock reading, a run number, a pattern word, a seed. -/
abbrev Word := BitVec 32

/-- A bay, 0 to 15 (spec/00_scope.md, Connections). -/
abbrev BayId := Fin 16

/-- A job table slot, 0 to 23 (R1). -/
abbrev JobId := Fin 24

/-- A stream slot, 0 to 31 (R121). -/
abbrev SlotId := Fin 32

/-- A tag, 0 to 63 (R146). -/
abbrev Tag := Fin 64

/-- A program number, 0 to 7 (R27). -/
abbrev ProgramId := Fin 8

end Sys2Proof
end

