-- ==== Sys2Proof/Syntax.lean ====
section
/-! DEFINITION. The commands of the block: one constructor of `Instr` per row of spec/opcode_table.json, with the
operands the row's rule gives it. The operands of a management command are the fields of its payload, as the numbers
they spell on the wire (R181); the checks that bound them belong to the commands' meanings. -/

namespace Sys2Proof

/-- The five completion statuses of a drive request (R104). -/
inductive CompletionStatus where
  | good
  | mediaError
  | deviceError
  | addressError
  | aborted
  deriving DecidableEq, Repr

/-- What a GOOD completion of IDENTIFY reports of a drive (R104). Whether it describes a usable drive is judged by
R135. -/
structure DriveIdentity where
  serial : List Byte
  capacity : Nat
  sectorSize : Nat
  nativeErase : Bool
  deriving DecidableEq, Repr

/-- One action entry of a LOAD POLICY payload: the action code and the substitute class byte (R181). -/
structure ActionImage where
  action : Nat
  substitute : Nat
  deriving DecidableEq, Repr

/-- The payload of LOAD POLICY: the profile, 24 actions, and the substitute opcodes for IDENTIFY, HEALTH and FLUSH
(R151, R181). -/
structure PolicyImage where
  profile : Nat
  actions : List ActionImage
  identifyOpcode : Byte
  healthOpcode : Byte
  flushOpcode : Byte
  deriving DecidableEq, Repr

/-- One 12-byte pass entry of a LOAD PROGRAM payload, and one pass descriptor of the program table: R28 keeps the
fields a kind does not use in the encoding they were given (R28, R181, R182). -/
structure PassImage where
  kind : Nat
  pattern : Nat
  direction : Nat
  density : Nat
  parameter : Word
  retry : Nat
  reference : Nat
  grain : Nat
  chain : Nat
  deriving DecidableEq, Repr

/-- One extent word: a start LBA and a length in sectors (R52). -/
structure ExtentWord where
  start : Nat
  length : Nat
  deriving DecidableEq, Repr

/-- The payload of LOAD JOB: the slot and the loaded fields (R2, R181). -/
structure JobImage where
  slot : Nat
  bay : Nat
  key : Nat
  program : Nat
  extentFirst : Nat
  extentCount : Nat
  stripeRequest : Nat
  tolerance : Nat
  labelLength : Nat
  label : List Byte
  deriving DecidableEq, Repr

/-- The payload of SET BAY PARAMETERS (R174, R181). The times are in milliseconds but for the native T1, in
minutes. -/
structure ParameterImage where
  bay : Nat
  depth : Nat
  dataT1 : Nat
  nativeT1 : Nat
  t2 : Nat
  debounce : Nat
  deriving DecidableEq, Repr

/-- The commands, operations and events of the block. A row of the management target (IDENTIFY_BRIDGE to
UNKNOWN_COMMAND) stands for the moment at which the management target takes that command from its queue (R171). -/
inductive Instr where
  /-- COLD_RESET (R179). -/
  | coldReset
  /-- UPSTREAM_LINK_RESET (R178). -/
  | upstreamLinkReset
  /-- LINK_UP (R177). -/
  | linkUp
  /-- COMMAND_FRAME (R146): the bytes of the frame, header first. -/
  | commandFrame (bytes : List Byte)
  /-- INVALID_FRAME (R180): the bytes of the frame. -/
  | invalidFrame (bytes : List Byte)
  /-- DATA_FRAME (R155): the bytes of the frame, header first. -/
  | dataFrame (bytes : List Byte)
  /-- IDENTIFY_BRIDGE (R173). -/
  | identifyBridge
  /-- SET_CLOCK (R173). -/
  | setClock (value : Word)
  /-- LOAD_CLASS_MAP (R149). -/
  | loadClassMap (first count : Nat) (classes : List Nat)
  /-- LOAD_POLICY (R151). -/
  | loadPolicy (image : PolicyImage)
  /-- ASSIGN_PROFILE (R150). -/
  | assignProfile (bay profile : Nat)
  /-- LOAD_PROGRAM (R29). -/
  | loadProgram (program count : Nat) (passes : List PassImage)
  /-- LOAD_EXTENTS (R53). -/
  | loadExtents (first count : Nat) (words : List ExtentWord)
  /-- LOAD_JOB (R2). -/
  | loadJob (image : JobImage)
  /-- START (R5). -/
  | start (slot : Nat)
  /-- TRIGGER (R12). -/
  | trigger (slot : Nat)
  /-- CANCEL_TRIGGER (R13). -/
  | cancelTrigger (slot : Nat)
  /-- PAUSE (R15). -/
  | pause (slot : Nat)
  /-- RESUME (R19). -/
  | resume (slot : Nat)
  /-- CANCEL (R20). -/
  | cancel (slot : Nat)
  /-- RELEASE (R24). -/
  | release (slot : Nat)
  /-- READ_JOB_STATUS (R26). -/
  | readJobStatus (slot : Nat)
  /-- READ_BAY_STATUS (R145). -/
  | readBayStatus (bay : Nat)
  /-- READ_COVERAGE (R101). -/
  | readCoverage (bay first count : Nat)
  /-- READ_CERTIFICATE (R169). -/
  | readCertificate (selector : Nat) (run : Word)
  /-- DISCARD_CERTIFICATE (R170). -/
  | discardCertificate (run : Word)
  /-- CLEAR_ATTENTION (R175). -/
  | clearAttention (bay : Nat) (mask : BitVec 16)
  /-- SET_NOTICE_ROUTING (R176). -/
  | setNoticeRouting (channels : List Nat)
  /-- SET_INDICATOR (R144). -/
  | setIndicator (bay pattern : Nat)
  /-- SET_BAY_PARAMETERS (R174). -/
  | setBayParameters (image : ParameterImage)
  /-- RESET_BAY (R139). -/
  | resetBay (bay : Nat)
  /-- RESET_BRIDGE (R179). -/
  | resetBridge
  /-- UNKNOWN_COMMAND (R172): the code and the payload that no other row spells. -/
  | unknownCommand (code : Byte) (payload : List Byte)
  /-- PRESENCE_ASSERTED (R131). -/
  | presenceAsserted (bay : BayId)
  /-- PRESENCE_DROPPED (R132). -/
  | presenceDropped (bay : BayId)
  /-- DEBOUNCE_EXPIRY (R131). -/
  | debounceExpiry (bay : BayId)
  /-- DEVICE_FAULT_INDICATION (R139). -/
  | deviceFaultIndication (bay : BayId)
  /-- RESET_TIMER_EXPIRY (R140). -/
  | resetTimerExpiry (bay : BayId)
  /-- REQUEST_COMPLETION (R108): the bay, the request it answers, its status, and the identity that the GOOD
  completion of an IDENTIFY carries. -/
  | requestCompletion (bay : BayId) (request : Nat) (status : CompletionStatus) (identity : DriveIdentity)
  /-- ABORT_CONFIRMATION (R113): the bay and the request whose abort is confirmed. -/
  | abortConfirmation (bay : BayId) (request : Nat)
  /-- ABORT_REFUSAL (R113). -/
  | abortRefusal (bay : BayId) (request : Nat)
  /-- T1_EXPIRY (R110). -/
  | t1Expiry (bay : BayId) (request : Nat)
  /-- T2_EXPIRY (R114). -/
  | t2Expiry (bay : BayId) (request : Nat)
  /-- DRIVE_DATA_IN (R120): bytes the drive returns for a request. -/
  | driveDataIn (bay : BayId) (request : Nat) (bytes : List Byte)
  /-- DRIVE_DATA_OUT (R120): the drive takes this many bytes for a request. -/
  | driveDataOut (bay : BayId) (request : Nat) (count : Nat)
  /-- EXTENT_SCAN_WORD (R59). -/
  | extentScanWord (bay : BayId)
  /-- ENGINE_GRANT (R124). -/
  | engineGrant
  /-- NATIVE_ERASE_ISSUE (R49). -/
  | nativeEraseIssue (bay : BayId)
  /-- PASSTHROUGH_GRANT (R126). -/
  | passthroughGrant
  /-- HOLD_EXPIRY (R159): the tag of the held read. -/
  | holdExpiry (tag : Tag)
  /-- BUILD_COMPLETE (R167): the job whose record is built. -/
  | buildComplete (slot : JobId)
  /-- INDICATOR_PHASE (R142). -/
  | indicatorPhase (bay : BayId)
  /-- CLOCK_SECOND (R173). -/
  | clockSecond
  deriving DecidableEq, Repr

end Sys2Proof
end

