-- ==== Sys2Proof/WellFormed.lean ====
section
/-! DEFINITION. Well-formed commands: every operand is a value that its field on the wire (R181), or the drive's answer
(R133), can spell. The bounds a command's own rule sets, whose breach is refused, are not asked here. -/

namespace Sys2Proof

/-- A one-byte field. -/
def isByte (n : Nat) : Bool := decide (n < 256)

/-- A two-byte field. -/
def isHalf (n : Nat) : Bool := decide (n < 65536)

/-- A 48-bit sector number or count. -/
def isLba (n : Nat) : Bool := decide (n < 2 ^ 48)

/-- A four-byte count. -/
def isFour (n : Nat) : Bool := decide (n < 2 ^ 32)

/-- The fields of one action entry are bytes. -/
def ActionImage.wellFormed (a : ActionImage) : Bool := isByte a.action && isByte a.substitute

/-- LOAD POLICY carries a profile byte and 24 action entries (R181). -/
def PolicyImage.wellFormed (p : PolicyImage) : Bool :=
  isByte p.profile && decide (p.actions.length = 24) && p.actions.all ActionImage.wellFormed

/-- The fields of one pass entry are bytes (R181, R182). -/
def PassImage.wellFormed (p : PassImage) : Bool :=
  isByte p.kind && isByte p.pattern && isByte p.direction && isByte p.density && isByte p.retry &&
    isByte p.reference && isByte p.grain && isByte p.chain

/-- An extent word has a 48-bit start and a 32-bit length (R52). -/
def ExtentWord.wellFormed (w : ExtentWord) : Bool := isLba w.start && isFour w.length

/-- The fields of LOAD JOB (R181). -/
def JobImage.wellFormed (j : JobImage) : Bool :=
  isByte j.slot && isByte j.bay && isByte j.key && isByte j.program && isHalf j.extentFirst && isHalf j.extentCount &&
    isHalf j.stripeRequest && isHalf j.tolerance && isByte j.labelLength && decide (j.label.length = 16)

/-- The fields of SET BAY PARAMETERS (R181). -/
def ParameterImage.wellFormed (p : ParameterImage) : Bool :=
  isByte p.bay && isByte p.depth && isHalf p.dataT1 && isHalf p.nativeT1 && isHalf p.t2 && isHalf p.debounce

/-- A drive reports a serial of 20 characters, a 48-bit capacity and a sector size of 16 bits (R104, R182). -/
def DriveIdentity.wellFormed (d : DriveIdentity) : Bool :=
  decide (d.serial.length = 20) && isLba d.capacity && isHalf d.sectorSize

/-- Every operand of the command is one its field can spell. -/
def Instr.wellFormed : Instr → Bool
  | .coldReset => true
  | .upstreamLinkReset => true
  | .linkUp => true
  | .commandFrame _ => true
  | .invalidFrame _ => true
  | .dataFrame _ => true
  | .identifyBridge => true
  | .setClock _ => true
  | .loadClassMap first count classes =>
    isByte first && isHalf count && decide (classes.length = count) && classes.all isByte
  | .loadPolicy image => image.wellFormed
  | .assignProfile bay profile => isByte bay && isByte profile
  | .loadProgram program count passes =>
    isByte program && isByte count && decide (passes.length = count) && passes.all PassImage.wellFormed
  | .loadExtents first count words =>
    isHalf first && isHalf count && decide (words.length = count) && words.all ExtentWord.wellFormed
  | .loadJob image => image.wellFormed
  | .start slot => isByte slot
  | .trigger slot => isByte slot
  | .cancelTrigger slot => isByte slot
  | .pause slot => isByte slot
  | .resume slot => isByte slot
  | .cancel slot => isByte slot
  | .release slot => isByte slot
  | .readJobStatus slot => isByte slot
  | .readBayStatus bay => isByte bay
  | .readCoverage bay first count => isByte bay && isHalf first && isByte count
  | .readCertificate selector _ => isByte selector
  | .discardCertificate _ => true
  | .clearAttention bay _ => isByte bay
  | .setNoticeRouting channels => decide (channels.length = 10) && channels.all isByte
  | .setIndicator bay pattern => isByte bay && isByte pattern
  | .setBayParameters image => image.wellFormed
  | .resetBay bay => isByte bay
  | .resetBridge => true
  | .unknownCommand _ payload => isHalf payload.length
  | .presenceAsserted _ => true
  | .presenceDropped _ => true
  | .debounceExpiry _ => true
  | .deviceFaultIndication _ => true
  | .resetTimerExpiry _ => true
  | .requestCompletion _ _ _ identity => identity.wellFormed
  | .abortConfirmation _ _ => true
  | .abortRefusal _ _ => true
  | .t1Expiry _ _ => true
  | .t2Expiry _ _ => true
  | .driveDataIn _ _ _ => true
  | .driveDataOut _ _ _ => true
  | .extentScanWord _ => true
  | .engineGrant => true
  | .nativeEraseIssue _ => true
  | .passthroughGrant => true
  | .holdExpiry _ => true
  | .buildComplete _ => true
  | .indicatorPhase _ => true
  | .clockSecond => true

end Sys2Proof
end

