-- ==== Sys2Proof/Decode.lean ====
section
/-! DEFINITION. From bits to commands: the table's rows (which give no bits), the frames of the upstream link (R180),
and the payloads of management commands with their encoder (R181). Multi-byte fields are least significant byte first
(R180). -/

namespace Sys2Proof

/-- The command that a word spells by the bits of spec/opcode_table.json. No row of the table gives bits, so no word
spells a command (log 25). -/
def decodeTableWord (_nbits _w : Nat) : Option Instr := none

/-! ### Byte order -/

/-- The number that bytes spell, least significant byte first (R180). -/
def leNat : List Byte → Nat
  | [] => 0
  | b :: bs => b.toNat + 256 * leNat bs

/-- The `n` bytes that spell a number, least significant byte first (R180). -/
def leBytes : Nat → Nat → List Byte
  | 0, _ => []
  | n + 1, x => BitVec.ofNat 8 x :: leBytes n (x / 256)

/-- The number in the field of `size` bytes at `offset`. -/
def field (bytes : List Byte) (offset size : Nat) : Nat :=
  leNat ((bytes.drop offset).take size)

/-- One byte of a payload; 0 beyond its end. -/
def byteAt (bytes : List Byte) (offset : Nat) : Byte := bytes.getD offset 0

/-- A 32-bit field. -/
def wordAt (bytes : List Byte) (offset : Nat) : Word := BitVec.ofNat 32 (field bytes offset 4)

/-! ### Frames -/

/-- The 16-byte header of a frame (R180). -/
structure FrameHeader where
  kind : Nat
  target : Nat
  tag : Nat
  key : Nat
  opcode : Byte
  status : Nat
  payloadLength : Nat
  lba : Nat
  count : Nat
  deriving DecidableEq, Repr

/-- The length of a frame header (R180). -/
def headerBytes : Nat := 16

/-- The header at the front of a frame; none where the frame is shorter than a header (R180; log 19). -/
def frameHeader (bytes : List Byte) : Option FrameHeader :=
  if bytes.length < headerBytes then none
  else some {
    kind := field bytes 0 1, target := field bytes 1 1, tag := field bytes 2 1, key := field bytes 3 1,
    opcode := byteAt bytes 4, status := field bytes 5 1, payloadLength := field bytes 6 2, lba := field bytes 8 6,
    count := field bytes 14 2 }

/-- A command frame the upstream port takes: its tag, its target, its header and, for target 31, its payload. -/
structure CommandFrame where
  tag : Tag
  target : Nat
  header : FrameHeader
  payload : List Byte
  deriving DecidableEq, Repr

/-- The target number of the management target (R146). -/
def managementTarget : Nat := 31

/-- The command frame that bytes spell: kind 0x01, a tag up to 63, a target up to 31, and for target 31 at least the
payload its header announces. Every other frame of kind 0x01 is malformed (R180). DEDUCED: bytes beyond the announced
payload, or beyond the header of a frame for targets 0 to 30, are ignored, and a frame shorter than a header is
discarded (log 19). -/
def commandFrameOf (bytes : List Byte) : Option CommandFrame :=
  match frameHeader bytes with
  | none => none
  | some h =>
    if htag : h.tag < 64 then
      if h.kind ≠ 1 ∨ h.target > managementTarget then none
      else if h.target = managementTarget then
        let carried := bytes.drop headerBytes
        if carried.length < h.payloadLength then none
        else some { tag := ⟨h.tag, htag⟩, target := h.target, header := h, payload := carried.take h.payloadLength }
      else some { tag := ⟨h.tag, htag⟩, target := h.target, header := h, payload := [] }
    else none

/-- A data frame from the server: the tag it bears and its payload (R155). -/
structure DataFrame where
  tag : Tag
  payload : List Byte
  deriving DecidableEq, Repr

/-- The data frame that bytes spell: kind 0x02 and a tag up to 63, with as much of the announced payload as the frame
carries (R155, R180; log 19). -/
def dataFrameOf (bytes : List Byte) : Option DataFrame :=
  match frameHeader bytes with
  | none => none
  | some h =>
    if htag : h.tag < 64 then
      if h.kind ≠ 2 then none
      else some { tag := ⟨h.tag, htag⟩, payload := (bytes.drop headerBytes).take h.payloadLength }
    else none

/-! ### The payloads of management commands -/

/-- The action entries at the front of a byte list, two bytes each. -/
def readActions : Nat → List Byte → List ActionImage
  | 0, _ => []
  | n + 1, bs => { action := field bs 0 1, substitute := field bs 1 1 } :: readActions n (bs.drop 2)

/-- The pass entries at the front of a byte list, 12 bytes each: the certificate's layout, with the retry limit, the
reference, the grain and the chain in the four bytes of the end time (R181, R182). -/
def readPasses : Nat → List Byte → List PassImage
  | 0, _ => []
  | n + 1, bs =>
    { kind := field bs 0 1, pattern := field bs 1 1, direction := field bs 2 1, density := field bs 3 1,
      parameter := wordAt bs 4, retry := field bs 8 1, reference := field bs 9 1, grain := field bs 10 1,
      chain := field bs 11 1 } :: readPasses n (bs.drop 12)

/-- The extent words at the front of a byte list, 10 bytes each. -/
def readExtents : Nat → List Byte → List ExtentWord
  | 0, _ => []
  | n + 1, bs => { start := field bs 0 6, length := field bs 6 4 } :: readExtents n (bs.drop 10)

/-- The one-byte fields at the front of a byte list. -/
def readBytes (n : Nat) (bs : List Byte) : List Nat := (bs.take n).map BitVec.toNat

/-- The command that a code and a payload spell (R181). A code the management target does not recognise, a payload of
another length than its code requires, and one shorter than its own counts call for spell UNKNOWN_COMMAND (R172). -/
def managementInstr (code : Byte) (p : List Byte) : Instr :=
  let unknown := Instr.unknownCommand code p
  let fixed (n : Nat) (i : Instr) : Instr := if p.length = n then i else unknown
  match code.toNat with
  | 0x01 => fixed 0 .identifyBridge
  | 0x02 => fixed 4 (.setClock (wordAt p 0))
  | 0x03 =>
    let n := field p 1 2
    if p.length < 3 + n then unknown else .loadClassMap (field p 0 1) n (readBytes n (p.drop 3))
  | 0x04 =>
    fixed 52 (.loadPolicy {
      profile := field p 0 1, actions := readActions 24 (p.drop 1), identifyOpcode := byteAt p 49,
      healthOpcode := byteAt p 50, flushOpcode := byteAt p 51 })
  | 0x05 => fixed 2 (.assignProfile (field p 0 1) (field p 1 1))
  | 0x06 =>
    let n := field p 1 1
    if p.length < 2 + 12 * n then unknown else .loadProgram (field p 0 1) n (readPasses n (p.drop 2))
  | 0x07 =>
    let n := field p 2 2
    if p.length < 4 + 10 * n then unknown else .loadExtents (field p 0 2) n (readExtents n (p.drop 4))
  | 0x08 =>
    fixed 29 (.loadJob {
      slot := field p 0 1, bay := field p 1 1, key := field p 2 1, program := field p 3 1, extentFirst := field p 4 2,
      extentCount := field p 6 2, stripeRequest := field p 8 2, tolerance := field p 10 2, labelLength := field p 12 1,
      label := p.drop 13 })
  | 0x10 => fixed 1 (.start (field p 0 1))
  | 0x11 => fixed 1 (.trigger (field p 0 1))
  | 0x12 => fixed 1 (.cancelTrigger (field p 0 1))
  | 0x13 => fixed 1 (.pause (field p 0 1))
  | 0x14 => fixed 1 (.resume (field p 0 1))
  | 0x15 => fixed 1 (.cancel (field p 0 1))
  | 0x16 => fixed 1 (.release (field p 0 1))
  | 0x20 => fixed 1 (.readJobStatus (field p 0 1))
  | 0x21 => fixed 1 (.readBayStatus (field p 0 1))
  | 0x22 => fixed 4 (.readCoverage (field p 0 1) (field p 1 2) (field p 3 1))
  | 0x28 => fixed 5 (.readCertificate (field p 0 1) (wordAt p 1))
  | 0x29 => fixed 4 (.discardCertificate (wordAt p 0))
  | 0x30 => fixed 3 (.clearAttention (field p 0 1) (BitVec.ofNat 16 (field p 1 2)))
  | 0x31 => fixed 10 (.setNoticeRouting (readBytes 10 p))
  | 0x32 => fixed 2 (.setIndicator (field p 0 1) (field p 1 1))
  | 0x33 =>
    fixed 10 (.setBayParameters {
      bay := field p 0 1, depth := field p 1 1, dataT1 := field p 2 2, nativeT1 := field p 4 2, t2 := field p 6 2,
      debounce := field p 8 2 })
  | 0x34 => fixed 1 (.resetBay (field p 0 1))
  | 0x3F => fixed 0 .resetBridge
  | _ => unknown

/-! ### The encoder of management commands -/

/-- The bytes of an action entry (R181). -/
def actionBytes (a : ActionImage) : List Byte := leBytes 1 a.action ++ leBytes 1 a.substitute

/-- The 12 bytes of a LOAD PROGRAM pass entry (R181, R182). -/
def passBytes (p : PassImage) : List Byte :=
  leBytes 1 p.kind ++ leBytes 1 p.pattern ++ leBytes 1 p.direction ++ leBytes 1 p.density ++
    leBytes 4 p.parameter.toNat ++ leBytes 1 p.retry ++ leBytes 1 p.reference ++ leBytes 1 p.grain ++ leBytes 1 p.chain

/-- The 10 bytes of an extent word (R181). -/
def extentBytes (w : ExtentWord) : List Byte := leBytes 6 w.start ++ leBytes 4 w.length

/-- The code and the payload of a management command (R181); none for a command that is no management command. -/
def encodeManagement : Instr → Option (Byte × List Byte)
  | .identifyBridge => some (0x01, [])
  | .setClock value => some (0x02, leBytes 4 value.toNat)
  | .loadClassMap first count classes =>
    some (0x03, leBytes 1 first ++ leBytes 2 count ++ classes.flatMap (leBytes 1))
  | .loadPolicy p =>
    some (0x04, leBytes 1 p.profile ++ p.actions.flatMap actionBytes ++
      [p.identifyOpcode, p.healthOpcode, p.flushOpcode])
  | .assignProfile bay profile => some (0x05, leBytes 1 bay ++ leBytes 1 profile)
  | .loadProgram program count passes =>
    some (0x06, leBytes 1 program ++ leBytes 1 count ++ passes.flatMap passBytes)
  | .loadExtents first count words => some (0x07, leBytes 2 first ++ leBytes 2 count ++ words.flatMap extentBytes)
  | .loadJob j =>
    some (0x08, leBytes 1 j.slot ++ leBytes 1 j.bay ++ leBytes 1 j.key ++ leBytes 1 j.program ++
      leBytes 2 j.extentFirst ++ leBytes 2 j.extentCount ++ leBytes 2 j.stripeRequest ++ leBytes 2 j.tolerance ++
      leBytes 1 j.labelLength ++ j.label)
  | .start slot => some (0x10, leBytes 1 slot)
  | .trigger slot => some (0x11, leBytes 1 slot)
  | .cancelTrigger slot => some (0x12, leBytes 1 slot)
  | .pause slot => some (0x13, leBytes 1 slot)
  | .resume slot => some (0x14, leBytes 1 slot)
  | .cancel slot => some (0x15, leBytes 1 slot)
  | .release slot => some (0x16, leBytes 1 slot)
  | .readJobStatus slot => some (0x20, leBytes 1 slot)
  | .readBayStatus bay => some (0x21, leBytes 1 bay)
  | .readCoverage bay first count => some (0x22, leBytes 1 bay ++ leBytes 2 first ++ leBytes 1 count)
  | .readCertificate selector run => some (0x28, leBytes 1 selector ++ leBytes 4 run.toNat)
  | .discardCertificate run => some (0x29, leBytes 4 run.toNat)
  | .clearAttention bay mask => some (0x30, leBytes 1 bay ++ leBytes 2 mask.toNat)
  | .setNoticeRouting channels => some (0x31, channels.flatMap (leBytes 1))
  | .setIndicator bay pattern => some (0x32, leBytes 1 bay ++ leBytes 1 pattern)
  | .setBayParameters p =>
    some (0x33, leBytes 1 p.bay ++ leBytes 1 p.depth ++ leBytes 2 p.dataT1 ++ leBytes 2 p.nativeT1 ++ leBytes 2 p.t2 ++
      leBytes 2 p.debounce)
  | .resetBay bay => some (0x34, leBytes 1 bay)
  | .resetBridge => some (0x3F, [])
  | .coldReset => none
  | .upstreamLinkReset => none
  | .linkUp => none
  | .commandFrame _ => none
  | .invalidFrame _ => none
  | .dataFrame _ => none
  | .unknownCommand _ _ => none
  | .presenceAsserted _ => none
  | .presenceDropped _ => none
  | .debounceExpiry _ => none
  | .deviceFaultIndication _ => none
  | .resetTimerExpiry _ => none
  | .requestCompletion _ _ _ _ => none
  | .abortConfirmation _ _ => none
  | .abortRefusal _ _ => none
  | .t1Expiry _ _ => none
  | .t2Expiry _ _ => none
  | .driveDataIn _ _ _ => none
  | .driveDataOut _ _ _ => none
  | .extentScanWord _ => none
  | .engineGrant => none
  | .nativeEraseIssue _ => none
  | .passthroughGrant => none
  | .holdExpiry _ => none
  | .buildComplete _ => none
  | .indicatorPhase _ => none
  | .clockSecond => none

end Sys2Proof
end

