-- ==== Sys2Proof/Config.lean ====
section
/-! DEFINITION. The fixed figures of the WX16 and the free values: what the spec leaves without a value. -/

namespace Sys2Proof.Config

/-- The management queue holds at most 8 commands (R171). -/
def managementQueueCapacity : Nat := 8

/-- The hold queue holds at most 16 held reads (R157). -/
def holdQueueCapacity : Nat := 16

/-- The certificate store holds up to 32 records (R168). -/
def certificateCapacity : Nat := 32

/-- A bay holds at most 4 passthrough records (R102, R126). -/
def passthroughPositions : Nat := 4

/-- The identify procedure issues at most 3 attempts (R134). -/
def identifyAttempts : Nat := 3

/-- T1 of the bay port's own IDENTIFY, in milliseconds (R106). -/
def identifyT1 : Nat := 30000

/-- The reset timer of a selective reset, in milliseconds (R140). -/
def resetTime : Nat := 500

/-- The payload of a passthrough command frame counts units of 512 bytes (R155). -/
def payloadUnit : Nat := 512

/-- The longest payload a data frame carries: its length field has 16 bits (R155, R180). -/
def dataFrameLimit : Nat := 65535

/-- The job table's slots, the programs and the extent words, as IDENTIFY BRIDGE reports them (R173). -/
def jobSlots : Nat := 24

/-- The number of programs (R27, R173). -/
def programCount : Nat := 8

/-- The number of extent words (R52, R173). -/
def extentWords : Nat := 4096

/-- The bay count IDENTIFY BRIDGE reports (R173). -/
def bayCount : Nat := 16

/-- The revision number IDENTIFY BRIDGE reports (R173). -/
def revision : Nat := 3

/-- The family text IDENTIFY BRIDGE reports (R173). -/
def familyText : String := "ULPACE-WX16"

/-- FREE VALUE (log entry 3). The bytes of a reply whose CONTENTS the spec states and whose LAYOUT it does not: the
replies to READ JOB STATUS, READ BAY STATUS and IDENTIFY BRIDGE (R26, R145, R173). -/
opaque reportBytes : {α : Type} → α → List Byte

/-- FREE VALUE (log entry 3). The byte at an offset of a frame or reply the bridge sends, where R180 to R182 state
the field but no value for it (the key field of a response, the run number of a coverage header that has none). -/
opaque unstatedByte : {α : Type} → α → Nat → Byte

end Sys2Proof.Config
end

