-- ==== Sys2Proof/Machine/State.lean ====
section
/-! DEFINITION. The state of the WX16 as plain data, block by block as 00_scope.md names the blocks, and its value
after a cold reset. INVENTORY.md lists every field with its rule. -/

namespace Sys2Proof.Machine

/-! ### The upstream port and the command filter -/

/-- The two states of the upstream link (00_scope.md, Connections; R178). -/
inductive Link where
  | up
  | down
  deriving DecidableEq, Repr

/-- The twelve classes of native opcodes, in the order of their numbers (R149, R181). -/
inductive OpClass where
  | read
  | write
  | identify
  | health
  | flush
  | trim
  | nativeErase
  | security
  | firmware
  | power
  | feature
  | other
  deriving DecidableEq, Repr

/-- The classes a substitute may belong to (R150). -/
inductive SubstituteClass where
  | identify
  | health
  | flush
  deriving DecidableEq, Repr

/-- The four actions of the policy table (R150). -/
inductive Action where
  | pass
  | refuse
  | substitute (cls : SubstituteClass)
  | fence
  deriving DecidableEq, Repr

/-- One policy profile: an action for every class under each condition, and three substitute opcodes (R150). -/
structure Profile where
  idle : Vector Action 12
  active : Vector Action 12
  identifyOpcode : Byte
  healthOpcode : Byte
  flushOpcode : Byte
  deriving DecidableEq, Repr

/-- A passthrough command in the capacity wait or the hold queue, whole as it arrived (R154, R157). `arrival` orders
it among the others; `holdTime` is the moment it first entered the hold queue; `holdPast` says that the 2,000 ms of
R159 have run out since then (log 6). -/
structure PassCommand where
  tag : Tag
  bay : BayId
  key : Nat
  opcode : Byte
  lba : Nat
  count : Nat
  payload : Nat
  arrival : Nat
  holdTime : Option Nat
  holdPast : Bool
  deriving DecidableEq, Repr

/-- A command in the management queue: its tag, its code and its payload (R171). -/
structure ManagementCommand where
  tag : Tag
  code : Byte
  payload : List Byte
  deriving DecidableEq, Repr

/-- The ten attention kinds, in the order of their numbers (R175). -/
inductive AttentionKind where
  | inserted
  | removed
  | ready
  | faulted
  | passDone
  | jobHalted
  | startRefused
  | jobClosed
  | foreignDrive
  | certPending
  deriving DecidableEq, Repr

/-- An attention set: bit n is the kind numbered n, as in a notice's snapshot and CLEAR ATTENTION's mask (R175,
R180). -/
abbrev AttentionSet := BitVec 10

/-! ### The job controller -/

/-- The kinds of a pass (R28), in the order of their codes (R182). -/
inductive PassKind where
  | overwrite
  | verify
  | nativeErase
  deriving DecidableEq, Repr

/-- The patterns (R69). -/
inductive Pattern where
  | zero
  | ones
  | byte (b : Byte)
  | location (seed : Word)
  deriving DecidableEq, Repr

/-- The direction of a pass (R28). -/
inductive Direction where
  | ascending
  | descending
  deriving DecidableEq, Repr

/-- The grain of a pass (R10, R28). -/
inductive Grain where
  | stripe
  | zone
  | pass
  deriving DecidableEq, Repr

/-- The chain of a pass (R14, R28). -/
inductive Chain where
  | auto
  | triggered
  deriving DecidableEq, Repr

/-- The outcome of a run (R22), in the order of its codes (R182). -/
inductive RunOutcome where
  | certified
  | unverified
  | rejected
  | cancelled
  deriving DecidableEq, Repr

/-- The halt reasons (R18). -/
inductive HaltReason where
  | removed
  | driveTimeout
  | driveFault
  | bayReset
  | nativeEraseFailed
  deriving DecidableEq, Repr

/-- The drain target of a DRAINING job, with the closing outcome where it is FINISHING (R1, R17). -/
inductive DrainTarget where
  | paused
  | halted (reason : HaltReason)
  | finishing (outcome : RunOutcome)
  deriving DecidableEq, Repr

/-- The stage a PREPARING job stands in between steps: stage 1, or stage 5 with the position of the next word of its
list and the clamped end of the word before it (R7, R59). The other stages take no time. -/
inductive Preparation where
  | draining
  | scanning (next previousEnd : Nat)
  deriving DecidableEq, Repr

/-- The ten job states, with the wait reason, the drain target and the preparation stage (R1). DESIGN CHOICE: R3 names
only what writes the wait reason, the drain target and the closing outcome; the model holds the first in WAITING alone
and the other two in DRAINING alone, so they read none in every other state (log 33). -/
inductive JobState where
  | free
  | loaded
  | waitingBay
  | waitingTrigger
  | preparing (stage : Preparation)
  | running
  | draining (target : DrainTarget)
  | paused
  | halted
  | finishing
  | closed
  deriving DecidableEq, Repr

/-- The kinds of EXTENT_CHECK (R59). -/
inductive ExtentError where
  | length
  | beyond
  | align
  | order
  deriving DecidableEq, Repr

/-- The last start error (R3, R8). -/
inductive StartError where
  | noNativeErase
  | programConflict
  | extentCheck (word : Nat) (kind : ExtentError)
  deriving DecidableEq, Repr

/-- The drive identity a job records at preparation stage 4 (R7). -/
structure RecordedIdentity where
  serial : List Byte
  capacity : Nat
  sectorSize : Nat
  deriving DecidableEq, Repr

/-- S_eff, z and Zn of a job (R3, R31, R55, R56). -/
structure Geometry where
  sEff : Nat
  z : Nat
  zn : Nat
  deriving DecidableEq, Repr

/-- A job record: the loaded fields of R2 and the runtime fields of R3. `closeOrder` orders the CLOSED jobs of a bay
(R143; log 6). -/
structure Job where
  state : JobState
  bay : BayId
  key : Nat
  program : ProgramId
  extentFirst : Nat
  extentCount : Nat
  stripeRequest : Nat
  tolerance : Nat
  label : List Byte
  haltReason : Option HaltReason
  outcome : Option RunOutcome
  passIndex : Nat
  passComplete : Bool
  latch : Bool
  unitActive : Bool
  run : Option Word
  identity : Option RecordedIdentity
  geometry : Option Geometry
  stripeClamped : Bool
  extentClamped : Bool
  badZones : Nat
  mismatched : Nat
  failedStripes : Nat
  startTime : Option Word
  passEnds : List (Option Word)
  closeTime : Option Word
  startError : Option StartError
  permille : Nat
  closeOrder : Nat
  deriving DecidableEq, Repr

/-- A FREE slot: the runtime fields at R3's load values, the loaded fields at values no reply shows (log 24). -/
def Job.free : Job :=
  { state := .free, bay := 0, key := 0, program := 0, extentFirst := 0, extentCount := 0, stripeRequest := 0,
    tolerance := 0, label := [], haltReason := none, outcome := none, passIndex := 0, passComplete := false,
    latch := false, unitActive := false, run := none, identity := none, geometry := none, stripeClamped := false,
    extentClamped := false, badZones := 0, mismatched := 0, failedStripes := 0, startTime := none,
    passEnds := List.replicate 8 none, closeTime := none, startError := none, permille := 0, closeOrder := 0 }

/-! ### The walk engine -/

/-- A position of a walk: an index into the job's extent list and an LBA (R33). -/
structure Position where
  extent : Nat
  lba : Nat
  deriving DecidableEq, Repr

/-- A stripe: its first LBA and its length in sectors (R32, R42). -/
structure Stripe where
  first : Nat
  length : Nat
  deriving DecidableEq, Repr

/-- A walk context in use (R33). The eligibility marks are listed for the zones in use; a zone not listed is not
marked. -/
structure WalkContext where
  pass : Nat
  kind : PassKind
  direction : Direction
  grain : Grain
  pattern : Pattern
  density : Nat
  reference : Nat
  retryLimit : Nat
  cursor : Position
  unitEnd : Option Position
  resumeCursor : Option Position
  marks : List Bool
  deriving DecidableEq, Repr

/-- The status of an in-flight entry (R42). -/
inductive EntryStatus where
  | issued
  | aborting
  | doneGood
  | doneError
  deriving DecidableEq, Repr

/-- An entry of an in-flight list (R42). `request` is the number of its latest drive request (log 5). -/
structure Entry where
  request : Nat
  stripe : Stripe
  zone : Option Nat
  kind : PassKind
  pass : Nat
  attempt : Nat
  slot : Option SlotId
  status : EntryStatus
  mismatched : Nat
  deriving DecidableEq, Repr

/-! ### Stream slots -/

/-- What a slot does with a stripe's data (R72). -/
inductive SlotMode where
  | none
  | generate
  | compare
  deriving DecidableEq, Repr

/-- The owner a slot records: the bay and the request it carries, and the tag of a passthrough command (R121). -/
inductive SlotOwner where
  | free
  | engine (bay : BayId) (request : Nat)
  | passthrough (bay : BayId) (request : Nat) (tag : Tag)
  deriving DecidableEq, Repr

/-- The direction of a passthrough command's data (R128). -/
inductive DataDirection where
  | towardDrive
  | towardServer
  deriving DecidableEq, Repr

/-- A stream slot: its owner, the generator and comparator context of R72, and the direction and count of R128. `inWord`
holds the bytes of the current word that have moved, `staged` the server's payload bytes that the drive has not yet
taken (log 17). -/
structure Slot where
  owner : SlotOwner
  mode : SlotMode
  pattern : Pattern
  stripe : Stripe
  sectorWords : Nat
  lba : Nat
  word : Nat
  inWord : List Byte
  differing : Bool
  mismatches : Nat
  direction : DataDirection
  moved : Nat
  staged : List Byte
  deriving DecidableEq, Repr

/-- A FREE slot: mode none and a mismatch count of 0 (R72), its other fields emptied (log 24). -/
def Slot.empty : Slot :=
  { owner := .free, mode := .none, pattern := .zero, stripe := { first := 0, length := 0 }, sectorWords := 0, lba := 0,
    word := 0, inWord := [], differing := false, mismatches := 0, direction := .towardServer, moved := 0,
    staged := [] }

/-! ### The coverage store -/

/-- The seven zone states, in the order of their codes (R86). -/
inductive ZoneState where
  | untouched
  | writing
  | written
  | verified
  | mismatched
  | failed
  | excluded
  deriving DecidableEq, Repr

/-- A zone entry (R86). -/
structure ZoneEntry where
  state : ZoneState
  pass : Option Nat
  due : Nat
  done : Nat
  out : Nat
  mismatch : Nat
  fails : Nat
  deriving DecidableEq, Repr

/-- The cleared values of a zone entry (R86). -/
def ZoneEntry.cleared : ZoneEntry :=
  { state := .untouched, pass := none, due := 0, done := 0, out := 0, mismatch := 0, fails := 0 }

/-- A coverage map: its header and its entries (R85). `entries` lists the entries in use, 0 to Zn - 1; every entry
from Zn to 1023 holds its cleared values and is not listed (log 28). -/
structure CoverageMap where
  owner : Option JobId
  run : Option Word
  z : Nat
  zn : Nat
  entries : List ZoneEntry
  deriving DecidableEq, Repr

/-- A map after a cold or warm reset, or after a failed preparation (R85, R88). -/
def CoverageMap.cleared : CoverageMap :=
  { owner := none, run := none, z := 0, zn := 0, entries := [] }

/-! ### Bay ports -/

/-- The six bay states (R130). -/
inductive BayState where
  | empty
  | seating
  | identifying
  | ready
  | faulted
  | resetting
  deriving DecidableEq, Repr

/-- The fault reasons of a FAULTED bay (R130). -/
inductive FaultReason where
  | noResponse
  | format
  deriving DecidableEq, Repr

/-- The causes of a selective reset (R139). -/
inductive ResetCause where
  | deviceFault
  | t2Expiry
  | resetBay
  deriving DecidableEq, Repr

/-- The indicator patterns (R142), in the order of their numbers (R181). -/
inductive IndicatorPattern where
  | off
  | on
  | slow
  | fast
  | wink
  | double
  deriving DecidableEq, Repr

/-- The drive requests that occupy a position of the queue (R103). -/
inductive Request where
  | writeStripe (stripe : Stripe)
  | readStripe (stripe : Stripe)
  | nativeErase (result : Pattern)
  | identify
  | passthrough (opcode : Byte) (lba count payload : Nat)
  deriving DecidableEq, Repr

/-- The origin of a request (R102). -/
inductive Origin where
  | engine
  | passthrough
  deriving DecidableEq, Repr

/-- Where a completion is handed: the in-flight entry, the bay port's own identify procedure, or the upstream port for
a command's tag (R102). A command is kept whole, with whether it was issued as a substitute (R152). -/
inductive RequestLink where
  | entry
  | port
  | command (cmd : PassCommand) (substitute : Bool)
  deriving DecidableEq, Repr

/-- The status of a request record: T1 runs while ISSUED, T2 while ABORTING (R102). -/
inductive RecordStatus where
  | issued
  | aborting
  deriving DecidableEq, Repr

/-- A request record (R102). `id` is the number by which a completion is matched to it (log 5); `timer` is the length
of its running timer in milliseconds (log 4). -/
structure Record where
  id : Nat
  origin : Origin
  request : Request
  cls : Option OpClass
  link : RequestLink
  slot : Option SlotId
  status : RecordStatus
  timer : Nat
  wanted : Bool
  deriving DecidableEq, Repr

/-- A bay port (R130): state, presence input, debounce timer (stopped, or running with a length), drive identity,
attempt count, fault reason, rejected identity, last reset cause, reset timer, request queue, indicator. DEDUCED: the
rejected identity keeps every value IDENTIFY reported, native-erase support among them (R135; log 36). -/
structure BayPort where
  state : BayState
  presence : Bool
  debounce : Option Nat
  identity : Option DriveIdentity
  attempts : Nat
  fault : Option FaultReason
  rejected : Option DriveIdentity
  lastReset : Option ResetCause
  resetTimer : Option Nat
  queue : List Record
  override : Option IndicatorPattern
  shown : IndicatorPattern
  phase : Nat
  deriving DecidableEq, Repr

/-- A bay port after a cold or warm reset, before it samples its presence input (R130). -/
def BayPort.cold : BayPort :=
  { state := .empty, presence := false, debounce := none, identity := none, attempts := 0, fault := none,
    rejected := none, lastReset := none, resetTimer := none, queue := [], override := none, shown := .off, phase := 0 }

/-- The four parameters of a bay (R141). Times in milliseconds, native T1 in minutes. -/
structure BayParameters where
  depth : Nat
  dataT1 : Nat
  nativeT1 : Nat
  t2 : Nat
  deriving DecidableEq, Repr

/-! ### The certificate unit -/

/-- One pass entry of a certificate (R164, R182): the codes and the parameter as recorded, 0 where R164 records 0. -/
structure PassRecord where
  kind : PassKind
  pattern : Nat
  direction : Nat
  density : Nat
  parameter : Word
  endTime : Option Word
  deriving DecidableEq, Repr

/-- A certificate record (R163). `closeTime` is none until the record is placed (R167). -/
structure CertificateRecord where
  run : Word
  slot : JobId
  bay : BayId
  label : List Byte
  outcome : RunOutcome
  serial : List Byte
  capacity : Nat
  sectorSize : Nat
  program : ProgramId
  passes : List PassRecord
  extentCount : Nat
  extentClamped : Bool
  stripeClamped : Bool
  sEff : Nat
  z : Nat
  zn : Nat
  zoneCounts : List Nat
  mismatched : Nat
  failedStripes : Nat
  startTime : Word
  closeTime : Option Word
  digest : Word
  deriving DecidableEq, Repr

/-- A pending record: the job it belongs to, and the record once its build is complete (R166). -/
structure PendingRecord where
  slot : JobId
  record : Option CertificateRecord
  deriving DecidableEq, Repr

/-! ### What the bridge sends -/

/-- The statuses of a passthrough response (R147, R180). -/
inductive ResponseStatus where
  | good
  | mediaError
  | deviceError
  | addressError
  | aborted
  | driveTimeout
  | bayAbsent
  | bayReset
  | key
  | policy
  | address
  | exposed
  | busy
  | holdExpired
  | tagInUse
  | absent
  deriving DecidableEq, Repr

/-- The refusal reasons (R172). -/
inductive Reason where
  | badSlot
  | badProgram
  | range
  | state
  | inUse
  | bayNotReady
  | foreignDrive
  | nothingLatched
  deriving DecidableEq, Repr

/-- The dispositions of a management reply (R172). -/
inductive Disposition where
  | accepted
  | refused (reason : Reason)
  | busy
  | absent
  deriving DecidableEq, Repr

/-- One entry of LOAD POLICY's clamp note: the class, the condition and the action given (R151, R180). -/
structure ClampedAction where
  cls : OpClass
  active : Bool
  action : Action
  deriving DecidableEq, Repr

/-- What IDENTIFY BRIDGE's reply carries: the seven fixed figures of the bridge and its three live values (R173). -/
structure BridgeReport where
  family : String
  revision : Nat
  bays : Nat
  jobSlots : Nat
  programs : Nat
  extentWords : Nat
  certificates : Nat
  clock : Word
  runCounter : Word
  stored : Nat
  deriving DecidableEq, Repr

/-- READ JOB STATUS: the state, and for a slot that is not FREE its record and its bay's in-flight count (R26). -/
structure JobReport where
  state : JobState
  record : Option Job
  inFlight : Option Nat
  deriving DecidableEq, Repr

/-- The queue counts and the stall of one bay (R111). -/
structure QueueReport where
  engineRecords : Nat
  passthroughRecords : Nat
  abortingRecords : Nat
  stalled : Bool
  deriving DecidableEq, Repr

/-- READ BAY STATUS (R145), with the queue counts and stall of R111 and the slot figures of R129. -/
structure BayReport where
  state : BayState
  fault : Option FaultReason
  rejected : Option DriveIdentity
  present : Bool
  debouncing : Bool
  identity : Option DriveIdentity
  attempts : Nat
  lastReset : Option ResetCause
  parameters : BayParameters
  debounceTime : Nat
  shown : IndicatorPattern
  overridden : Bool
  queues : List QueueReport
  freeEngineSlots : Nat
  freePassthroughSlots : Nat
  grantPointer : BayId
  ownedSlots : List (Nat × Nat)
  deriving DecidableEq, Repr

/-- READ COVERAGE: the bay, the map's header and the entries returned (R101, R182). -/
structure CoverageReport where
  bay : BayId
  owner : Option JobId
  run : Option Word
  z : Nat
  zn : Nat
  entries : List ZoneEntry
  deriving DecidableEq, Repr

/-- What a management reply carries. -/
inductive ReplyData where
  | nothing
  | clampedPasses (passes : List Nat)
  | clampedActions (entries : List ClampedAction)
  | bridge (report : BridgeReport)
  | jobStatus (report : JobReport)
  | bayStatus (report : BayReport)
  | coverage (report : CoverageReport)
  | certificate (stored waiting : Nat) (record : CertificateRecord)
  | attention (set : AttentionSet)
  deriving DecidableEq, Repr

/-- A frame the bridge sends on the upstream link, with the fields the spec gives it (R180; log 3, log 30). -/
inductive OutFrame where
  /-- A response frame of the passthrough path. -/
  | response (target : Nat) (tag : Tag) (opcode : Byte) (status : ResponseStatus) (substituted : Bool)
  /-- A response frame of the management target. -/
  | reply (tag : Tag) (code : Byte) (disposition : Disposition) (data : ReplyData)
  /-- A data frame; of length 0 where it asks for payload (R155). -/
  | data (bay : BayId) (tag : Tag) (payload : List Byte)
  /-- A notice frame (R175). -/
  | notice (bay : BayId) (channel : Nat) (snapshot : AttentionSet)
  deriving DecidableEq, Repr

/-- A signal a bay port sends to its drive. -/
inductive DriveSignal where
  /-- A request is issued (R103). -/
  | request (bay : BayId) (id : Nat) (request : Request)
  /-- ABORT, naming the request (R110). -/
  | abort (bay : BayId) (id : Nat)
  /-- The drive's interface is reset (08, 8.5). -/
  | interfaceReset (bay : BayId)
  /-- Data for a request, in the order of R70. -/
  | data (bay : BayId) (id : Nat) (bytes : List Byte)
  deriving DecidableEq, Repr

/-! ### The whole bridge -/

/-- The loaded tables and settings: what a warm reset keeps (R179). `extents` lists the words of extent memory that are
not (0, 0), by rising index; an unlisted word is (0, 0) (R52). -/
structure Tables where
  classMap : Vector OpClass 256
  profiles : Vector Profile 4
  assignment : Vector (Fin 4) 16
  programs : Vector (Option (List PassImage)) 8
  extents : List (Nat × ExtentWord)
  routing : Vector (Fin 8) 10
  parameters : Vector BayParameters 16
  debounceTime : Nat
  deriving DecidableEq, Repr

/-- The state of the bridge. `pending` is the queue of commands waiting to be taken. `taking` is the management command
that may be being taken while an upstream link reset is taken: it still has its whole effect, without a reply (R178;
log 32). -/
structure State where
  pending : List Instr
  link : Link
  tags : Vector Bool 64
  sent : List OutFrame
  toDrive : List DriveSignal
  tables : Tables
  wait : List PassCommand
  hold : List PassCommand
  management : List ManagementCommand
  taking : Option ManagementCommand
  clock : Word
  runCounter : Word
  attention : Vector AttentionSet 16
  jobs : Vector Job 24
  walk : Vector (Option WalkContext) 16
  inFlight : Vector (List Entry) 16
  slots : Vector Slot 32
  grantPointer : BayId
  coverage : Vector CoverageMap 16
  ports : Vector BayPort 16
  store : List CertificateRecord
  building : List PendingRecord
  nextRequest : Nat
  stamp : Nat
  deriving DecidableEq, Repr

/-- The faults of the block: none. The spec names no condition on which the block stops: every command answers a next
state (log 23). Safe: no constructor is raised by anyone. -/
inductive Fault where
  deriving DecidableEq, Repr

/-- The refusals of the block. -/
inductive Refusal where
  /-- A command that has no meaning yet, by its mnemonic. Raised by exec's arms only; no arm raises it. Safe: the
  model says nothing of such a command. -/
  | notModelled (mnemonic : String)
  deriving DecidableEq, Repr

/-- A policy profile after a cold reset (R150). -/
def Profile.cold : Profile :=
  { idle := Vector.replicate 12 .pass, active := Vector.replicate 12 .refuse, identifyOpcode := 0, healthOpcode := 0,
    flushOpcode := 0 }

/-- A bay's parameters after a cold reset (R141). -/
def BayParameters.defaults : BayParameters :=
  { depth := 2, dataT1 := 8000, nativeT1 := 240, t2 := 4000 }

/-- The tables after a cold reset (R149, R150, R27, R52, R176, R141). -/
def Tables.cold : Tables :=
  { classMap := Vector.replicate 256 .other, profiles := Vector.replicate 4 Profile.cold,
    assignment := Vector.replicate 16 0, programs := Vector.replicate 8 none, extents := [],
    routing := Vector.replicate 10 1, parameters := Vector.replicate 16 BayParameters.defaults, debounceTime := 64 }

/-- The bridge right after a cold reset with no drive seated (R179 and the rules INVENTORY.md names). -/
def State.reset : State :=
  { pending := [], link := .down, tags := Vector.replicate 64 false, sent := [], toDrive := [], tables := Tables.cold,
    wait := [], hold := [], management := [], taking := none, clock := 0, runCounter := 0,
    attention := Vector.replicate 16 0,
    jobs := Vector.replicate 24 Job.free, walk := Vector.replicate 16 none, inFlight := Vector.replicate 16 [],
    slots := Vector.replicate 32 Slot.empty, grantPointer := 15, coverage := Vector.replicate 16 CoverageMap.cleared,
    ports := Vector.replicate 16 BayPort.cold, store := [], building := [], nextRequest := 0, stamp := 0 }

end Sys2Proof.Machine
end

