-- ==== Sys2Proof/Machine/Ops.lean ====
section
/-! DEFINITION. The named reads and writes of State, and the operations the meanings share: jobs and bays looked up,
frames sent and tags freed, replies, slots, request records, extent memory. -/

namespace Sys2Proof.Machine

/-! ### Tables of a fixed number of like things -/

/-- The table with the entry at `i` replaced. -/
def put {α : Type} {n : Nat} (v : Vector α n) (i : Fin n) (x : α) : Vector α n := v.set i.val x i.isLt

/-- The bays in ascending order. -/
def allBays : List BayId := [0, 1, 2, 3, 4, 5, 6, 7, 8, 9, 10, 11, 12, 13, 14, 15]

/-- The job slots in ascending order. -/
def allJobs : List JobId :=
  [0, 1, 2, 3, 4, 5, 6, 7, 8, 9, 10, 11, 12, 13, 14, 15, 16, 17, 18, 19, 20, 21, 22, 23]

/-- The passthrough slots, 0 to 7 (R121). -/
def passthroughSlots : List SlotId := [0, 1, 2, 3, 4, 5, 6, 7]

/-- The engine slots, 8 to 31 (R121). -/
def engineSlots : List SlotId :=
  [8, 9, 10, 11, 12, 13, 14, 15, 16, 17, 18, 19, 20, 21, 22, 23, 24, 25, 26, 27, 28, 29, 30, 31]

/-! ### Reads and writes of single entries -/

/-- The job record of a slot. -/
def State.job (s : State) (j : JobId) : Job := s.jobs[j]
/-- Writes a job record. -/
def State.putJob (s : State) (j : JobId) (x : Job) : State := { s with jobs := put s.jobs j x }
/-- The port of a bay. -/
def State.port (s : State) (b : BayId) : BayPort := s.ports[b]
/-- Writes a bay port. -/
def State.putPort (s : State) (b : BayId) (x : BayPort) : State := { s with ports := put s.ports b x }
/-- The coverage map of a bay. -/
def State.map (s : State) (b : BayId) : CoverageMap := s.coverage[b]
/-- Writes a coverage map. -/
def State.putMap (s : State) (b : BayId) (x : CoverageMap) : State := { s with coverage := put s.coverage b x }
/-- The walk context of a bay, if it is in use. -/
def State.context (s : State) (b : BayId) : Option WalkContext := s.walk[b]
/-- Writes a walk context. -/
def State.putContext (s : State) (b : BayId) (x : Option WalkContext) : State := { s with walk := put s.walk b x }
/-- The in-flight list of a bay. -/
def State.list (s : State) (b : BayId) : List Entry := s.inFlight[b]
/-- Writes an in-flight list. -/
def State.putList (s : State) (b : BayId) (x : List Entry) : State := { s with inFlight := put s.inFlight b x }
/-- A stream slot. -/
def State.slot (s : State) (k : SlotId) : Slot := s.slots[k]
/-- Writes a stream slot. -/
def State.putSlot (s : State) (k : SlotId) (x : Slot) : State := { s with slots := put s.slots k x }
/-- The attention set of a bay. -/
def State.attentionOf (s : State) (b : BayId) : AttentionSet := s.attention[b]
/-- Writes an attention set. -/
def State.putAttention (s : State) (b : BayId) (x : AttentionSet) : State := { s with attention := put s.attention b x }
/-- Whether a tag is in use (R146). -/
def State.tagInUse (s : State) (t : Tag) : Bool := s.tags[t]
/-- Writes a tag's entry of the tag table. -/
def State.putTag (s : State) (t : Tag) (x : Bool) : State := { s with tags := put s.tags t x }
/-- Appends a frame to those sent. -/
def State.emit (s : State) (f : OutFrame) : State := { s with sent := s.sent ++ [f] }
/-- Appends a signal to those sent to the drives. -/
def State.signal (s : State) (d : DriveSignal) : State := { s with toDrive := s.toDrive ++ [d] }
/-- Writes the tables. -/
def State.putTables (s : State) (x : Tables) : State := { s with tables := x }
/-- Writes the capacity wait. -/
def State.putWait (s : State) (x : List PassCommand) : State := { s with wait := x }
/-- Writes the hold queue. -/
def State.putHold (s : State) (x : List PassCommand) : State := { s with hold := x }
/-- Writes the management queue. -/
def State.putManagement (s : State) (x : List ManagementCommand) : State := { s with management := x }
/-- Writes the management command that an upstream link reset found being taken. -/
def State.putTaking (s : State) (x : Option ManagementCommand) : State := { s with taking := x }
/-- Writes the clock. -/
def State.putClock (s : State) (x : Word) : State := { s with clock := x }
/-- Writes the run counter. -/
def State.putRunCounter (s : State) (x : Word) : State := { s with runCounter := x }
/-- Writes the grant pointer. -/
def State.putGrantPointer (s : State) (x : BayId) : State := { s with grantPointer := x }
/-- Writes the certificate store. -/
def State.putStore (s : State) (x : List CertificateRecord) : State := { s with store := x }
/-- Writes the pending records. -/
def State.putBuilding (s : State) (x : List PendingRecord) : State := { s with building := x }
/-- Counts one request number as used. -/
def State.bumpRequest (s : State) : State := { s with nextRequest := s.nextRequest + 1 }
/-- Counts one stamp as used. -/
def State.bumpStamp (s : State) : State := { s with stamp := s.stamp + 1 }
/-- Writes the link state. -/
def State.putLink (s : State) (x : Link) : State := { s with link := x }
/-- Writes the queue of commands waiting to be taken. -/
def State.putPending (s : State) (x : List Instr) : State := { s with pending := x }
/-- Frees every tag. -/
def State.freeAllTags (s : State) : State := { s with tags := Vector.replicate 64 false }

/-- Applies a change to a job record. -/
def State.modJob (s : State) (j : JobId) (f : Job → Job) : State := s.putJob j (f (s.job j))
/-- Applies a change to a bay port. -/
def State.modPort (s : State) (b : BayId) (f : BayPort → BayPort) : State := s.putPort b (f (s.port b))
/-- Applies a change to a walk context in use; a context not in use holds nothing to change. -/
def State.modContext (s : State) (b : BayId) (f : WalkContext → WalkContext) : State :=
  s.putContext b ((s.context b).map f)
/-- Applies a change to a stream slot. -/
def State.modSlot (s : State) (k : SlotId) (f : Slot → Slot) : State := s.putSlot k (f (s.slot k))

/-- The parameters of a bay (R141). -/
def State.parameters (s : State) (b : BayId) : BayParameters := s.tables.parameters[b]
/-- The passes of a program; none of an unloaded program (R27). -/
def State.program (s : State) (p : ProgramId) : List PassImage := (s.tables.programs[p]).getD []

/-! ### Jobs and their bays -/

/-- The active group of job states (R1, 00_scope.md). -/
def JobState.active : JobState → Bool
  | .free => false
  | .loaded => false
  | .waitingBay => true
  | .waitingTrigger => true
  | .preparing _ => true
  | .running => true
  | .draining _ => true
  | .paused => true
  | .halted => true
  | .finishing => true
  | .closed => false

/-- The active job of a bay, if it has one (R4, R5). -/
def activeJob (s : State) (b : BayId) : Option JobId :=
  allJobs.find? fun j => (s.job j).state.active && decide ((s.job j).bay = b)

/-- The key of a bay: its active job's, or 0 (R4). -/
def bayKey (s : State) (b : BayId) : Nat :=
  match activeJob s b with
  | some j => (s.job j).key
  | none => 0

/-- The condition of a bay: ACTIVE when it has an active job, else IDLE (R4). -/
def bayActive (s : State) (b : BayId) : Bool := (activeJob s b).isSome

/-- The bay is READY. -/
def bayReady (s : State) (b : BayId) : Bool := decide ((s.port b).state = .ready)

/-- A bay is stalled while its queue holds an ABORTING record (R111). -/
def stalled (s : State) (b : BayId) : Bool := (s.port b).queue.any fun r => decide (r.status = .aborting)

/-! ### Frames, tags and replies -/

/-- Sends a frame; while the link is DOWN none is sent (R178). -/
def send (s : State) (f : OutFrame) : State := if s.link = .up then s.emit f else s

/-- Answers a tag of the passthrough path: the response is sent and the tag is freed (R146, R178). -/
def respond (s : State) (target : Nat) (tag : Tag) (opcode : Byte) (status : ResponseStatus) (substituted : Bool) :
    State :=
  (send s (.response target tag opcode status substituted)).putTag tag false

/-- Answers a passthrough command that was not issued (R147). -/
def answer (s : State) (c : PassCommand) (status : ResponseStatus) : State :=
  respond s c.bay.val c.tag c.opcode status false

/-- Replies to a management command and frees its tag (R146, R171). -/
def reply (s : State) (c : ManagementCommand) (d : Disposition) (data : ReplyData) : State :=
  (send s (.reply c.tag c.code d data)).putTag c.tag false

/-- Replies ACCEPTED with nothing more. -/
def accept (s : State) (c : ManagementCommand) : State := reply s c .accepted .nothing

/-- Replies REFUSED with a reason; the command has no effect (R172). -/
def refuse (s : State) (c : ManagementCommand) (reason : Reason) : State := reply s c (.refused reason) .nothing

/-- The management target takes a command of its queue, oldest first: `effect` is carried out when the command at the
front of the queue is `i`, and the command leaves the queue (R171). A command that was being taken when an upstream link
reset was taken has its effect while the link is DOWN, so its reply is not sent (R178; log 32). Where another command is
at the front, or none, `i` cannot be taken and nothing happens (log 1). -/
def takeManagement (i : Instr) (s : State) (effect : ManagementCommand → State → State) : State :=
  match s.management, s.taking with
  | c :: rest, _ => if managementInstr c.code c.payload = i then effect c (s.putManagement rest) else s
  | [], some c =>
    if s.link = .down ∧ managementInstr c.code c.payload = i then effect c (s.putTaking none) else s
  | [], none => s

/-! ### Slots and request records -/

/-- A slot is FREE (R121). -/
def slotFree (s : State) (k : SlotId) : Bool := decide ((s.slot k).owner = .free)

/-- The lowest-numbered FREE slot among those listed (R124, R126). -/
def firstFree (s : State) (ks : List SlotId) : Option SlotId := ks.find? (slotFree s)

/-- Frees a slot, with its context emptied (R72, R122). -/
def freeSlot (s : State) (k : Option SlotId) : State :=
  match k with
  | some k => s.putSlot k Slot.empty
  | none => s

/-- Frees the slots of a list of records (R118). -/
def freeSlots (s : State) (rs : List Record) : State := rs.foldl (fun s r => freeSlot s r.slot) s

/-- The record of a bay's queue that an arrival answers; none where it matches no record (R102, R109; log 5). -/
def findRecord (s : State) (b : BayId) (id : Nat) : Option Record :=
  (s.port b).queue.find? fun r => decide (r.id = id)

/-- Removes a record: its timer is stopped and its position freed (R108). -/
def dropRecord (s : State) (b : BayId) (id : Nat) : State :=
  s.modPort b fun p => { p with queue := p.queue.filter fun r => decide (r.id ≠ id) }

/-- Replaces a record of a queue. -/
def updateRecord (s : State) (b : BayId) (id : Nat) (f : Record → Record) : State :=
  s.modPort b fun p => { p with queue := p.queue.map fun r => if r.id = id then f r else r }

/-- Issues a request: its record is created ISSUED with its T1 running, and it is sent to the drive (R106). The record
carries the next request number (log 5). -/
def issueRequest (s : State) (b : BayId) (origin : Origin) (request : Request) (cls : Option OpClass)
    (link : RequestLink) (slot : Option SlotId) (t1 : Nat) : State :=
  let id := s.nextRequest
  let record : Record :=
    { id := id, origin := origin, request := request, cls := cls, link := link, slot := slot, status := .issued,
      timer := t1, wanted := true }
  ((s.modPort b fun p => { p with queue := p.queue ++ [record] }).signal (.request b id request)).bumpRequest

/-- The records of an origin in a bay's queue (R102). -/
def recordsOf (s : State) (b : BayId) (o : Origin) : List Record :=
  (s.port b).queue.filter fun r => decide (r.origin = o)

/-! ### Extent memory -/

/-- A word of extent memory that holds its cold reset value (R52). -/
def zeroWord : ExtentWord := { start := 0, length := 0 }

/-- Reads a word of extent memory (R52). -/
def readExtent : List (Nat × ExtentWord) → Nat → ExtentWord
  | [], _ => zeroWord
  | (i, w) :: m, n => if i = n then w else readExtent m n

/-- Writes a word of extent memory and keeps the listing canonical: rising indices, no word (0, 0) listed (R52). -/
def writeExtent : List (Nat × ExtentWord) → Nat → ExtentWord → List (Nat × ExtentWord)
  | [], n, x => if x = zeroWord then [] else [(n, x)]
  | (i, w) :: m, n, x =>
    if n < i then (if x = zeroWord then (i, w) :: m else (n, x) :: (i, w) :: m)
    else if n = i then (if x = zeroWord then m else (n, x) :: m)
    else (i, w) :: writeExtent m n x

/-- Writes consecutive words from an index (R53). -/
def writeExtents : List (Nat × ExtentWord) → Nat → List ExtentWord → List (Nat × ExtentWord)
  | m, _, [] => m
  | m, n, x :: xs => writeExtents (writeExtent m n x) (n + 1) xs

/-- The canonical form of extent memory: indices strictly rising from above a bound and below 4096, no word (0, 0). -/
def extentsCanonical : List (Nat × ExtentWord) → Bool
  | [] => true
  | (i, w) :: m =>
    decide (i < Config.extentWords) && decide (w ≠ zeroWord) && m.all (fun p => decide (i < p.1)) && extentsCanonical m

/-! ### Saturation -/

/-- A sum that saturates (00_scope.md, Saturating counters). -/
def saturating (limit a b : Nat) : Nat := min limit (a + b)

end Sys2Proof.Machine
end

