-- ==== Sys2Proof/Machine/Operands.lean ====
section
/-! DEFINITION. The operands of management commands: numbers on the wire turned into the bays, slots, classes, actions,
passes and patterns they name, or nothing where the encoding allows no such value (R181). -/

namespace Sys2Proof.Machine

/-- The bay a number names, 0 to 15. -/
def bayOf (n : Nat) : Option BayId := if h : n < 16 then some ⟨n, h⟩ else none

/-- The job slot a number names, 0 to 23 (R1). -/
def jobOf (n : Nat) : Option JobId := if h : n < 24 then some ⟨n, h⟩ else none

/-- The program a number names, 0 to 7 (R27). -/
def programOf (n : Nat) : Option ProgramId := if h : n < 8 then some ⟨n, h⟩ else none

/-- The policy profile a number names, 0 to 3 (R150). -/
def profileOf (n : Nat) : Option (Fin 4) := if h : n < 4 then some ⟨n, h⟩ else none

/-- The channel a number names, 0 to 7 (R176). -/
def channelOf (n : Nat) : Option (Fin 8) := if h : n < 8 then some ⟨n, h⟩ else none

/-- The twelve classes in the order of their numbers (R149, R181). -/
def allClasses : List OpClass :=
  [.read, .write, .identify, .health, .flush, .trim, .nativeErase, .security, .firmware, .power, .feature, .other]

/-- The number of a class (R181). -/
def OpClass.number : OpClass → Fin 12
  | .read => 0
  | .write => 1
  | .identify => 2
  | .health => 3
  | .flush => 4
  | .trim => 5
  | .nativeErase => 6
  | .security => 7
  | .firmware => 8
  | .power => 9
  | .feature => 10
  | .other => 11

/-- The class a number names (R181). -/
def classOf (n : Nat) : Option OpClass := allClasses[n]?

/-- The write-class classes (R149). -/
def OpClass.writeClass : OpClass → Bool
  | .write => true
  | .trim => true
  | .nativeErase => true
  | .security => true
  | .firmware => true
  | .read => false
  | .identify => false
  | .health => false
  | .flush => false
  | .power => false
  | .feature => false
  | .other => false

/-- The class a substitute class names (R150). -/
def SubstituteClass.cls : SubstituteClass → OpClass
  | .identify => .identify
  | .health => .health
  | .flush => .flush

/-- The substitute class a class number names: IDENTIFY, HEALTH or FLUSH (R151). -/
def substituteOf (n : Nat) : Option SubstituteClass :=
  match n with
  | 2 => some .identify
  | 3 => some .health
  | 4 => some .flush
  | _ => none

/-- The action an action entry names: PASS 0, REFUSE 1, SUBSTITUTE 2 with its class, FENCE 3 (R181). -/
def actionOf (a : ActionImage) : Option Action :=
  match a.action with
  | 0 => some .pass
  | 1 => some .refuse
  | 2 => (substituteOf a.substitute).map .substitute
  | 3 => some .fence
  | _ => none

/-- The code of an action (R181). -/
def Action.code : Action → Nat
  | .pass => 0
  | .refuse => 1
  | .substitute _ => 2
  | .fence => 3

/-- The kind a pass entry's kind byte names (R182). -/
def passKindOf (n : Nat) : Option PassKind :=
  match n with
  | 0 => some .overwrite
  | 1 => some .verify
  | 2 => some .nativeErase
  | _ => none

/-- The direction a byte names (R182). -/
def directionOf (n : Nat) : Option Direction :=
  match n with
  | 0 => some .ascending
  | 1 => some .descending
  | _ => none

/-- The grain a byte names (R181). -/
def grainOf (n : Nat) : Option Grain :=
  match n with
  | 0 => some .stripe
  | 1 => some .zone
  | 2 => some .pass
  | _ => none

/-- The chain a byte names (R181). -/
def chainOf (n : Nat) : Option Chain :=
  match n with
  | 0 => some .auto
  | 1 => some .triggered
  | _ => none

/-- The low byte of a parameter: b of BYTE(b) (R182). -/
def lowByte (w : Word) : Byte := w.setWidth 8

/-- The pattern a pattern kind byte and a parameter name (R69, R182). -/
def patternOf (n : Nat) (parameter : Word) : Option Pattern :=
  match n with
  | 0 => some .zero
  | 1 => some .ones
  | 2 => some (.byte (lowByte parameter))
  | 3 => some (.location parameter)
  | _ => none

/-- The indicator pattern a byte names; AUTO is 6 (R181). The outer option says whether the byte names anything, the
inner one is none for AUTO. -/
def overrideOf (n : Nat) : Option (Option IndicatorPattern) :=
  match n with
  | 0 => some (some .off)
  | 1 => some (some .on)
  | 2 => some (some .slow)
  | 3 => some (some .fast)
  | 4 => some (some .wink)
  | 5 => some (some .double)
  | 6 => some none
  | _ => none

/-! ### Pass descriptors as the walk reads them -/

/-- The kind of a loaded pass. -/
def kindOfPass (p : PassImage) : PassKind := (passKindOf p.kind).getD .overwrite

/-- The pattern of a loaded pass. -/
def patternOfPass (p : PassImage) : Pattern := (patternOf p.pattern p.parameter).getD .zero

/-- The direction of a loaded pass. -/
def directionOfPass (p : PassImage) : Direction := (directionOf p.direction).getD .ascending

/-- The grain of a loaded pass. -/
def grainOfPass (p : PassImage) : Grain := (grainOf p.grain).getD .pass

/-- The chain of a loaded pass. -/
def chainOfPass (p : PassImage) : Chain := (chainOf p.chain).getD .auto

/-- The index of the latest OVERWRITE or NATIVE_ERASE pass among those listed, which stand from `index` on (R30). -/
def latestWriting (passes : List PassImage) (index : Nat) (found : Option Nat) : Option Nat :=
  match passes with
  | [] => found
  | p :: ps => latestWriting ps (index + 1) (if passKindOf p.kind = some .verify then found else some index)

/-- One descriptor is well formed, with `before` the descriptors before it (R30). A field R28 marks as unused for the
kind is accepted in any encoding (log 11). -/
def passWellFormed (before : List PassImage) (p : PassImage) : Bool :=
  decide (p.retry ≤ 7) && (chainOf p.chain).isSome &&
    match passKindOf p.kind with
    | none => false
    | some .overwrite =>
      (patternOf p.pattern p.parameter).isSome && (directionOf p.direction).isSome && (grainOf p.grain).isSome
    | some .verify =>
      (directionOf p.direction).isSome && (grainOf p.grain).isSome &&
        decide (latestWriting before 0 none = some p.reference)
    | some .nativeErase => decide (p.pattern = 0) || decide (p.pattern = 1)

/-- Every descriptor from one on is well formed, with those before it in order. -/
def passesWellFormed (before : List PassImage) : List PassImage → Bool
  | [] => true
  | p :: ps => passWellFormed before p && passesWellFormed (before ++ [p]) ps

/-- A program is well formed: 1 to 8 passes, each well formed (R30). -/
def programWellFormed (passes : List PassImage) : Bool :=
  decide (1 ≤ passes.length) && decide (passes.length ≤ 8) && passesWellFormed [] passes

/-- The greatest density (R28). -/
def maximumDensity : Nat := 64

/-- A VERIFY density above 64 is clamped at LOAD PROGRAM (R29). -/
def densityClamped (p : PassImage) : Bool :=
  decide (passKindOf p.kind = some .verify) && decide (maximumDensity < p.density)

/-- The descriptor as it is stored, with its density clamped (R29). -/
def storedPass (p : PassImage) : PassImage := if densityClamped p then { p with density := maximumDensity } else p

/-- The indices of the passes whose density is clamped, which the clamp note lists (R29, R180). -/
def clampedPasses (passes : List PassImage) : List Nat :=
  (List.range passes.length).filter fun i =>
    match passes[i]? with
    | some p => densityClamped p
    | none => false

/-! ### Parameters -/

/-- The debounce times (R141). -/
def debounceAllowed (n : Nat) : Bool := n == 0 || n == 16 || n == 64 || n == 256

/-- All five values of SET BAY PARAMETERS lie in their ranges (R141, R174). -/
def parametersInRange (p : ParameterImage) : Bool :=
  decide (1 ≤ p.depth) && decide (p.depth ≤ 4) && decide (500 ≤ p.dataT1) && decide (p.dataT1 ≤ 60000) &&
    decide (1 ≤ p.nativeT1) && decide (p.nativeT1 ≤ 1440) && decide (500 ≤ p.t2) && decide (p.t2 ≤ 60000) &&
    debounceAllowed p.debounce

/-- The bays SET BAY PARAMETERS names: one, or all of them for 0xFF (R174, R181). -/
def namedBays (n : Nat) : Option (List BayId) :=
  if n = 255 then some allBays else (bayOf n).map fun b => [b]

end Sys2Proof.Machine
end

