-- ==== Sys2Proof/Machine/Flags.lean ====
section
/-! DEFINITION. The bays' flags toward the server and the operator: attention sets with their notices (R175), and
indicators (R142, R143). -/

namespace Sys2Proof.Machine

/-! ### Attention -/

/-- The number of an attention kind (R175). -/
def AttentionKind.number : AttentionKind → Fin 10
  | .inserted => 0
  | .removed => 1
  | .ready => 2
  | .faulted => 3
  | .passDone => 4
  | .jobHalted => 5
  | .startRefused => 6
  | .jobClosed => 7
  | .foreignDrive => 8
  | .certPending => 9

/-- The set that holds one kind alone. -/
def kindMask (k : AttentionKind) : AttentionSet := 1#10 <<< k.number.val

/-- A kind is present in a set. -/
def kindPresent (set : AttentionSet) (k : AttentionKind) : Bool := set.getLsbD k.number.val

/-- The channel a kind is routed to (R176). -/
def channel (s : State) (k : AttentionKind) : Nat := (s.tables.routing[k.number]).val

/-- Raises a kind for a bay: an absent kind joins the set, and where it is routed to a channel from 1 to 7 and the link
is UP, one notice with a snapshot of the set is sent (R175). -/
def raise (s : State) (b : BayId) (k : AttentionKind) : State :=
  if kindPresent (s.attentionOf b) k then s
  else
    let set := s.attentionOf b ||| kindMask k
    let s := s.putAttention b set
    if channel s k = 0 then s else send s (.notice b (channel s k) set)

/-- The lowest-numbered present kind that is routed to a channel from 1 to 7 gives the channel of a link-up notice
(R177). -/
def linkUpChannel (s : State) (b : BayId) : Option Nat :=
  ((List.range 10).filterMap fun n =>
    if (s.attentionOf b).getLsbD n then
      let c := (s.tables.routing[n]?.getD 0).val
      if c = 0 then none else some c
    else none).head?

/-! ### Indicators -/

/-- The cycle of a pattern: whether each phase is lit, and its length in milliseconds. OFF and ON have one phase
without an end, of length 0 here (R142). -/
def IndicatorPattern.cycle : IndicatorPattern → List (Bool × Nat)
  | .off => [(false, 0)]
  | .on => [(true, 0)]
  | .slow => [(true, 500), (false, 500)]
  | .fast => [(true, 125), (false, 125)]
  | .wink => [(true, 100), (false, 900)]
  | .double => [(true, 100), (false, 100), (true, 100), (false, 700)]

/-- The indicator output of a bay: lit or dark (R142). -/
def lit (p : BayPort) : Bool := (p.shown.cycle.getD p.phase (false, 0)).1

/-- The CLOSED job of a bay that entered CLOSED most recently among those listed (R143). -/
def latestClosed (s : State) (b : BayId) : List JobId → Option JobId
  | [] => none
  | j :: js =>
    let rest := latestClosed s b js
    if (s.job j).state = .closed ∧ (s.job j).bay = b then
      match rest with
      | some k => if (s.job j).closeOrder < (s.job k).closeOrder then some k else some j
      | none => some j
    else rest

/-- The shown job of a bay: its active job, else the one that closed most recently (R143). -/
def shownJob (s : State) (b : BayId) : Option JobId :=
  match activeJob s b with
  | some j => some j
  | none => latestClosed s b allJobs

/-- The pattern of a READY bay by its shown job (R143). -/
def jobPattern (j : Job) : IndicatorPattern :=
  match j.state with
  | .preparing _ => .slow
  | .running => .slow
  | .draining _ => .slow
  | .finishing => .slow
  | .waitingBay => .wink
  | .waitingTrigger => .wink
  | .paused => .wink
  | .halted => .double
  | .closed =>
    match j.outcome with
    | some .certified => .on
    | some .rejected => .double
    | some .unverified => .wink
    | some .cancelled => .wink
    | none => .wink
  | .free => .on
  | .loaded => .on

/-- The automatic pattern of a bay (R143). -/
def autoPattern (s : State) (b : BayId) : IndicatorPattern :=
  match (s.port b).state with
  | .empty => .off
  | .seating => .fast
  | .identifying => .fast
  | .resetting => .fast
  | .faulted => .double
  | .ready =>
    match shownJob s b with
    | some j => jobPattern (s.job j)
    | none => .on

/-- The pattern a bay's indicator shows: its override, or the automatic pattern (R143, R144). -/
def wantedPattern (s : State) (b : BayId) : IndicatorPattern := ((s.port b).override).getD (autoPattern s b)

/-- Recomputes a bay's indicator: a changed pattern begins at the start of its cycle, an unchanged one runs on
(R142; log 22). -/
def refreshIndicator (s : State) (b : BayId) : State :=
  let p := wantedPattern s b
  if (s.port b).shown = p then s else s.modPort b fun x => { x with shown := p, phase := 0 }

end Sys2Proof.Machine
end

