-- ==== Sys2Proof/Machine/Geometry.lean ====
section
/-! DEFINITION. Stripe length, zone geometry, extents, stripes, walk positions and samples (02, 03, 04 of spec/). -/

namespace Sys2Proof.Machine

/-! ### S_eff, z and Zn -/

/-- Step 1 of R31: the greatest power of two at or below the request, and at least 8. -/
def roundedStripe (request : Nat) : Nat := max 8 (2 ^ Nat.log2 request)

/-- The stripe limit: the smaller of 512 and 262,144 divided by the sector size in bytes (R31). -/
def stripeLimit (sectorSize : Nat) : Nat := min 512 (262144 / sectorSize)

/-- S_eff (R31). -/
def effectiveStripe (request sectorSize : Nat) : Nat := min (roundedStripe request) (stripeLimit sectorSize)

/-- The zone shift: the smallest z of at least 11 for which 1024 zones of 2^z sectors reach the capacity; at most 38
for a 48-bit capacity (R55). -/
def zoneShift (capacity : Nat) : Nat :=
  ((List.range' 11 28).find? fun z => decide (capacity ≤ 1024 * 2 ^ z)).getD 38

/-- Quotient rounded up. -/
def ceilDiv (a b : Nat) : Nat := (a + b - 1) / b

/-- The zone count (R56). -/
def zoneCount (capacity z : Nat) : Nat := ceilDiv capacity (2 ^ z)

/-- S_eff, z and Zn of a job for a drive (preparation stage 3, R7). -/
def geometryOf (request capacity sectorSize : Nat) : Geometry :=
  let z := zoneShift capacity
  { sEff := effectiveStripe request sectorSize, z := z, zn := zoneCount capacity z }

/-- The zone of an LBA (R56). -/
def zoneOf (z lba : Nat) : Nat := lba / 2 ^ z

/-! ### Extents -/

/-- An extent: the half-open interval from its start to its end, clamped (R32). -/
structure Extent where
  start : Nat
  stop : Nat
  deriving DecidableEq, Repr

/-- The extent a word names on a drive, its end clamped to the capacity (R52, R60). -/
def clampedExtent (w : ExtentWord) (capacity : Nat) : Extent :=
  { start := w.start, stop := min (w.start + w.length) capacity }

/-- The extents of a list of extent memory words: `count` words from `first` on (R33). -/
def wordsExtents (m : List (Nat × ExtentWord)) (capacity : Nat) : Nat → Nat → List Extent
  | 0, _ => []
  | n + 1, first => clampedExtent (readExtent m first) capacity :: wordsExtents m capacity n (first + 1)

/-- The extent list of a job: its words, or the whole drive for an extent count of 0 (R32, R33, R58). -/
def extentList (m : List (Nat × ExtentWord)) (first count capacity : Nat) : List Extent :=
  if count = 0 then [{ start := 0, stop := capacity }] else wordsExtents m capacity count first

/-- The number of stripes that an interval [a, e) is cut into at the multiples of S (R32). -/
def stripesBetween (a e S : Nat) : Nat := if a < e then ceilDiv e S - a / S else 0

/-- The number of stripes of one extent that begin at or above `lo` and below `hi`, both multiples of S or the
extent's own bounds (R63). -/
def stripesWithin (x : Extent) (lo hi S : Nat) : Nat := stripesBetween (max x.start lo) (min x.stop hi) S

/-- The number of stripes of a list between two such bounds. -/
def countStripes (xs : List Extent) (lo hi S : Nat) : Nat :=
  xs.foldl (fun n x => n + stripesWithin x lo hi S) 0

/-- All the stripes of a list (R68). -/
def totalStripes (xs : List Extent) (S : Nat) : Nat :=
  xs.foldl (fun n x => n + stripesBetween x.start x.stop S) 0

/-! ### Positions and steps of a walk -/

/-- The position of an ascending walk at the first LBA of the list at or above `lba`: extents that end at or below it
are behind; past the last extent it is the end of the pass (R33, R35; log 15). -/
def ascendingAt : List Extent → Nat → Nat → Nat → Position
  | [], index, lastStop, _ => { extent := index, lba := lastStop }
  | x :: xs, index, _, lba =>
    if lba < x.stop then { extent := index, lba := max x.start lba } else ascendingAt xs (index + 1) x.stop lba

/-- The position of a descending walk at the last LBA of the list at or below `lba` (exclusive): extents that start at
or above it are behind; before the first extent it is the end of the pass (R33, R35; log 15). The extents of the list
are scanned in list order and the last one that starts below `lba` is kept. -/
def descendingAt : List Extent → Nat → Position → Nat → Position
  | [], _, found, _ => found
  | x :: xs, index, found, lba =>
    if x.start < lba then descendingAt xs (index + 1) { extent := index, lba := min x.stop lba } lba else found

/-- The start of the first extent. -/
def firstStart (xs : List Extent) : Nat :=
  match xs with
  | [] => 0
  | x :: _ => x.start

/-- The position of a walk at an LBA in a direction. -/
def positionAt (d : Direction) (xs : List Extent) (lba : Nat) : Position :=
  match d with
  | .ascending => ascendingAt xs 0 0 lba
  | .descending => descendingAt xs 0 { extent := 0, lba := firstStart xs } lba

/-- The first position of a pass in its direction (R34). -/
def startPosition (d : Direction) (xs : List Extent) (capacity : Nat) : Position :=
  match d with
  | .ascending => positionAt .ascending xs 0
  | .descending => positionAt .descending xs capacity

/-- The end of a pass in its direction (R35). -/
def endPosition (d : Direction) (xs : List Extent) (capacity : Nat) : Position :=
  match d with
  | .ascending => positionAt .ascending xs capacity
  | .descending => positionAt .descending xs 0

/-- One step of an ascending walk: the stripe beginning at the cursor, and the cursor beyond it (R35). None at the end
of the pass. -/
def stepAscending (xs : List Extent) (S : Nat) (p : Position) : Option (Stripe × Position) :=
  match xs[p.extent]? with
  | none => none
  | some x =>
    let stop := min ((p.lba / S + 1) * S) x.stop
    let after :=
      if stop < x.stop then { extent := p.extent, lba := stop }
      else
        match xs[p.extent + 1]? with
        | some y => { extent := p.extent + 1, lba := y.start }
        | none => { extent := p.extent + 1, lba := x.stop }
    some ({ first := p.lba, length := stop - p.lba }, after)

/-- One step of a descending walk: the stripe ending at the cursor, and the cursor at its beginning (R35). None at the
end of the pass. -/
def stepDescending (xs : List Extent) (S : Nat) (p : Position) : Option (Stripe × Position) :=
  match xs[p.extent]? with
  | none => none
  | some x =>
    if p.lba ≤ x.start then none
    else
      let first := max x.start ((p.lba - 1) / S * S)
      let after :=
        if x.start < first then { extent := p.extent, lba := first }
        else
          match p.extent with
          | 0 => { extent := 0, lba := x.start }
          | n + 1 =>
            match xs[n]? with
            | some y => { extent := n, lba := y.stop }
            | none => { extent := p.extent, lba := first }
      some ({ first := first, length := p.lba - first }, after)

/-- One step of a walk in its direction (R35). -/
def stepWalk (d : Direction) (xs : List Extent) (S : Nat) (p : Position) : Option (Stripe × Position) :=
  match d with
  | .ascending => stepAscending xs S p
  | .descending => stepDescending xs S p

/-- A stripe lies before a unit end in the direction of the pass (R38). -/
def beforeUnitEnd (d : Direction) (x : Stripe) (unitEnd : Position) : Bool :=
  match d with
  | .ascending => decide (x.first < unitEnd.lba)
  | .descending => decide (unitEnd.lba < x.first + x.length)

/-- The position from which the walk would issue a stripe again: its first LBA ascending, its end descending, with
the extent it lies in (R47). -/
def positionOf (d : Direction) (xs : List Extent) (x : Stripe) : Position :=
  match d with
  | .ascending => positionAt .ascending xs x.first
  | .descending => positionAt .descending xs (x.first + x.length)

/-! ### Samples -/

/-- Ordinal m is a sample of a zone with n in-extent stripes at density k (R79). -/
def isSample (n k m : Nat) : Bool :=
  if k = 0 ∨ n ≤ k then decide (m < n) else (List.range k).any fun j => decide ((2 * j + 1) * n / (2 * k) = m)

/-- The verify due of a marked zone (R80). -/
def verifyDue (n k : Nat) : Nat := if k = 0 ∨ n ≤ k then n else k

/-- The ordinal of a stripe in its zone: the number of in-extent stripes of the zone below it (R78, R81). -/
def ordinalOf (xs : List Extent) (z S first : Nat) : Nat := countStripes xs (zoneOf z first * 2 ^ z) first S

end Sys2Proof.Machine
end

