-- ==== Sys2Proof/Machine/Patterns.lean ====
section
/-! DEFINITION. Pattern words, the generator and comparator of a stream slot (04 of spec/), and the CRC-32 of the
certificate digest (10 of spec/). -/

namespace Sys2Proof.Machine

/-- The value of word w of sector L (R69). -/
def patternWord (p : Pattern) (lba w : Nat) : Word :=
  match p with
  | .zero => 0
  | .ones => 0xFFFFFFFF
  | .byte b => BitVec.ofNat 32 (b.toNat * 0x01010101)
  | .location seed => BitVec.ofNat 32 (seed.toNat + 40503 * (lba % 2 ^ 32) + 257 * w)

/-- The four bytes of a word as they lie in a sector (R70). -/
def wordBytes (w : Word) : List Byte := leBytes 4 w.toNat

/-- The end of a slot's stripe. -/
def Slot.stripeEnd (x : Slot) : Nat := x.stripe.first + x.stripe.length

/-- The word a slot generates or expects at its L and w (R74, R75). -/
def slotWord (x : Slot) : Word := patternWord x.pattern x.lba x.word

/-- After a word: the next word of the sector, or after the last word the next sector, the mismatch count raised by 1
where the sector is differing (R74, R75). -/
def advanceWord (x : Slot) : Slot :=
  let x := { x with inWord := [] }
  if x.word + 1 < x.sectorWords then { x with word := x.word + 1 }
  else
    { x with lba := x.lba + 1, word := 0, mismatches := if x.differing then x.mismatches + 1 else x.mismatches,
             differing := false }

/-- One byte returned by the drive goes into a COMPARE slot: a word whose bytes are all there is compared (R75). Bytes
beyond the stripe's length are not compared (R76). -/
def compareByte (x : Slot) (b : Byte) : Slot :=
  if x.lba < x.stripeEnd then
    let bytes := x.inWord ++ [b]
    if bytes.length < 4 then { x with inWord := bytes }
    else advanceWord { x with differing := x.differing || decide (BitVec.ofNat 32 (leNat bytes) ≠ slotWord x) }
  else x

/-- The drive's data goes into a COMPARE slot in the order of R70. -/
def compareBytes (x : Slot) (bs : List Byte) : Slot := bs.foldl compareByte x

/-- The drive takes `n` bytes of a GENERATE slot: the bytes, and the slot after them (R74). Past the last word of the
last sector the slot produces nothing. -/
def generateBytes : Nat → Slot → List Byte × Slot
  | 0, x => ([], x)
  | n + 1, x =>
    if x.lba < x.stripeEnd then
      let b := (wordBytes (slotWord x)).getD x.inWord.length 0
      let y := if x.inWord.length + 1 < 4 then { x with inWord := x.inWord ++ [b] } else advanceWord x
      let r := generateBytes n y
      (b :: r.1, r.2)
    else ([], x)

/-- The mismatched sectors of a read that completes GOOD: those found to differ, and every sector not wholly
received (R76). -/
def finalMismatches (x : Slot) : Nat := x.mismatches + (x.stripeEnd - x.lba)

/-- The context of an engine slot as it is loaded at a grant (R73). -/
def loadedSlot (bay : BayId) (request : Nat) (mode : SlotMode) (pattern : Pattern) (stripe : Stripe)
    (sectorSize : Nat) : Slot :=
  { Slot.empty with
    owner := .engine bay request, mode := mode, pattern := pattern, stripe := stripe, sectorWords := sectorSize / 4,
    lba := stripe.first }

/-! ### CRC-32 -/

/-- One shift of the CRC register (R165). -/
def crcShift (r : Word) : Word := if r.getLsbD 0 then (r >>> 1) ^^^ 0xEDB88320 else r >>> 1

/-- `n` shifts of the CRC register. -/
def crcShifts : Nat → Word → Word
  | 0, r => r
  | n + 1, r => crcShifts n (crcShift r)

/-- One byte goes into the CRC register (R165). -/
def crcByte (r : Word) (b : Byte) : Word := crcShifts 8 (r ^^^ b.setWidth 32)

/-- The CRC-32 of a byte sequence (R165). -/
def crc32 (bs : List Byte) : Word := ~~~ (bs.foldl crcByte 0xFFFFFFFF)

/-- The code of a zone state (R86). -/
def ZoneState.code : ZoneState → Nat
  | .untouched => 0
  | .writing => 1
  | .written => 2
  | .verified => 3
  | .mismatched => 4
  | .failed => 5
  | .excluded => 6

/-- The pass field as a byte, 0xFF for none (R165, R182). -/
def passByte (p : Option Nat) : Nat := p.getD 255

/-- The five bytes a zone contributes to the digest (R165). -/
def zoneDigestBytes (index : Nat) (e : ZoneEntry) : List Byte :=
  leBytes 2 index ++ leBytes 1 e.state.code ++ leBytes 1 (passByte e.pass) ++ leBytes 1 e.mismatch

/-- The bytes of zones from an index on. -/
def mapDigestBytes : Nat → List ZoneEntry → List Byte
  | _, [] => []
  | i, e :: es => zoneDigestBytes i e ++ mapDigestBytes (i + 1) es

/-- The digest of a map's zones in use (R165). -/
def mapDigest (es : List ZoneEntry) : Word := crc32 (mapDigestBytes 0 es)

end Sys2Proof.Machine
end

