-- ==== Sys2Proof/Machine/Filter.lean ====
section
/-! DEFINITION. The command filter: the stages of a passthrough command, the exposure fence, the capacity wait, the hold
queue and its re-evaluation, and the passthrough grant's check and issue (09 and 07 of spec/). -/

namespace Sys2Proof.Machine

/-! ### Class and action -/

/-- The class of a native opcode (R149). -/
def opcodeClass (s : State) (opcode : Byte) : OpClass := s.tables.classMap[opcode.toFin]

/-- The profile assigned to a bay (R150). -/
def bayProfile (s : State) (b : BayId) : Profile := s.tables.profiles[s.tables.assignment[b]]

/-- The action for a class under the bay's profile and condition (R150). -/
def actionFor (s : State) (b : BayId) (cls : OpClass) : Action :=
  if bayActive s b then (bayProfile s b).active[cls.number] else (bayProfile s b).idle[cls.number]

/-- The profile's substitute opcode for a class (R150, R152). -/
def Profile.substituteOpcode (p : Profile) : SubstituteClass → Byte
  | .identify => p.identifyOpcode
  | .health => p.healthOpcode
  | .flush => p.flushOpcode

/-! ### The exposure fence -/

/-- What a coverage map answers the filter about a zone: its state and out count (R100). A map whose owner is not the
bay's active job proves nothing, and every zone is answered as UNTOUCHED. -/
def zoneAnswer (s : State) (b : BayId) (zone : Nat) : ZoneState × Nat :=
  let m := s.map b
  match m.owner with
  | none => (.untouched, 0)
  | some j =>
    if activeJob s b = some j ∧ zone < m.zn then
      let e := m.entries.getD zone ZoneEntry.cleared
      (e.state, e.out)
    else (.untouched, 0)

/-- What the fence finds (R156). -/
inductive FenceResult where
  | exposed
  | held
  | passes
  deriving DecidableEq, Repr

/-- The zones a read touches: from the zone of its LBA to the zone of its last sector; none for a count of 0 (R156). -/
def zonesTouched (z lba count : Nat) : List Nat :=
  if count = 0 then []
  else
    let low := zoneOf z lba
    List.range' low (zoneOf z (lba + count - 1) - low + 1)

/-- A zone that refuses a fenced read (R156, test 1). -/
def ZoneState.exposing : ZoneState → Bool
  | .untouched => true
  | .failed => true
  | .mismatched => true
  | .writing => false
  | .written => false
  | .verified => false
  | .excluded => false

/-- The fence's judgement of a read (R156). -/
def fence (s : State) (b : BayId) (lba count : Nat) : FenceResult :=
  let answers := (zonesTouched (s.map b).z lba count).map (zoneAnswer s b)
  if answers.any fun a => a.1.exposing then .exposed
  else if answers.any fun a => decide (a.1 = .writing) || decide (0 < a.2) then .held
  else .passes

/-! ### Judgement -/

/-- What a judgement makes of a command: an answer, a place in the capacity wait (at a grant check: the issue), or the
hold queue. -/
inductive Verdict where
  | answered (status : ResponseStatus)
  | wait
  | hold
  deriving DecidableEq, Repr

/-- The capacity of the bay's drive identity. -/
def bayCapacity (s : State) (b : BayId) : Nat :=
  match (s.port b).identity with
  | some d => d.capacity
  | none => 0

/-- The classes whose range is checked (R153). -/
def OpClass.addressed : OpClass → Bool
  | .read => true
  | .write => true
  | .trim => true
  | .identify => false
  | .health => false
  | .flush => false
  | .nativeErase => false
  | .security => false
  | .firmware => false
  | .power => false
  | .feature => false
  | .other => false

/-- The address stage (R153). -/
def addressStage (s : State) (c : PassCommand) : Verdict :=
  if (opcodeClass s c.opcode).addressed = true ∧ bayCapacity s c.bay < c.lba + c.count then .answered .address
  else .wait

/-- The class, action and address stages, with the fence (R147, R149, R150, R153, R156). They are taken at arrival, at
every re-evaluation and at every grant check (log 12). -/
def judge (s : State) (c : PassCommand) : Verdict :=
  match actionFor s c.bay (opcodeClass s c.opcode) with
  | .refuse => .answered .policy
  | .substitute _ => .wait
  | .pass => addressStage s c
  | .fence =>
    match fence s c.bay c.lba c.count with
    | .exposed => .answered .exposed
    | .held => .hold
    | .passes => addressStage s c

/-- The judgement at arrival: the target and key stages come first (R147, R148). -/
def judgeArrival (s : State) (c : PassCommand) : Verdict :=
  if bayReady s c.bay = false then .answered .bayAbsent
  else if c.key ≠ bayKey s c.bay then .answered .key
  else judge s c

/-- The status for a bay that is not READY: BAY_RESET when it is RESETTING, else BAY_ABSENT (R158, R160). -/
def leavingStatus (s : State) (b : BayId) : ResponseStatus :=
  if (s.port b).state = .resetting then .bayReset else .bayAbsent

/-- The judgement of a held read at a re-evaluation event: a held read of an IDLE bay passes the key stage whatever key
it carries (R148, R158). -/
def judgeHeld (s : State) (c : PassCommand) : Verdict :=
  if bayReady s c.bay = false then .answered (leavingStatus s c.bay)
  else if bayActive s c.bay = true ∧ c.key ≠ bayKey s c.bay then .answered .key
  else judge s c

/-! ### The capacity wait and the hold queue -/

/-- Inserts a command by its arrival (R154, R157). -/
def insertByArrival (c : PassCommand) : List PassCommand → List PassCommand
  | [] => [c]
  | d :: ds => if c.arrival < d.arrival then c :: d :: ds else d :: insertByArrival c ds

/-- Removes the command that holds a tag. -/
def withoutTag (t : Tag) (cs : List PassCommand) : List PassCommand := cs.filter fun c => decide (c.tag ≠ t)

/-- A command joins the capacity wait, by its arrival (R154). -/
def joinWait (s : State) (c : PassCommand) : State := s.putWait (insertByArrival c s.wait)

/-- A read is placed in the hold queue, or answered: HOLD_EXPIRED at once where its hold time is already past, BUSY
where the queue is full (R157; log 10). It keeps the hold time it was first given. -/
def joinHold (s : State) (c : PassCommand) : State :=
  if c.holdPast then answer s c .holdExpired
  else if s.hold.length < Config.holdQueueCapacity then
    let c := { c with holdTime := some (c.holdTime.getD s.stamp) }
    (s.putHold (insertByArrival c s.hold)).bumpStamp
  else answer s c .busy

/-- Carries a verdict out for a command that stands in neither queue. -/
def carryOut (s : State) (c : PassCommand) (v : Verdict) : State :=
  match v with
  | .answered status => answer s c status
  | .wait => joinWait s c
  | .hold => joinHold s c

/-- One held read is judged again: a read still held stays in its place with its hold time unchanged (R158). -/
def rejudge (s : State) (c : PassCommand) : State :=
  match judgeHeld s c with
  | .hold => s
  | .answered status => answer (s.putHold (withoutTag c.tag s.hold)) c status
  | .wait => joinWait (s.putHold (withoutTag c.tag s.hold)) c

/-- A re-evaluation event for a bay: every held read of it is judged again, oldest first, each judgement taken before
the next (R158). -/
def reevaluate (s : State) (b : BayId) : State :=
  (s.hold.filter fun c => decide (c.bay = b)).foldl rejudge s

/-- When a bay leaves READY, its held reads and then its commands in the capacity wait are answered at once (R160;
log 9). -/
def answerLeaving (s : State) (b : BayId) : State :=
  let status := leavingStatus s b
  let mine : PassCommand → Bool := fun c => decide (c.bay = b)
  let held := s.hold.filter mine
  let waiting := s.wait.filter mine
  let s := (s.putHold (s.hold.filter fun c => !mine c)).putWait (s.wait.filter fun c => !mine c)
  (held ++ waiting).foldl (fun s c => answer s c status) s

/-! ### The passthrough grant -/

/-- A waiting command is ready: its bay is READY, not stalled, and holds fewer than 4 passthrough records (R126). -/
def waitingReady (s : State) (c : PassCommand) : Bool :=
  bayReady s c.bay && !stalled s c.bay &&
    decide ((recordsOf s c.bay .passthrough).length < Config.passthroughPositions)

/-- The opcode a command is issued with, its class, and whether it is a substitute (R152, R154). A substitute is issued
with LBA 0, count 0 and no payload. -/
def issuedAs (s : State) (c : PassCommand) : Request × OpClass × Bool :=
  match actionFor s c.bay (opcodeClass s c.opcode) with
  | .substitute cls => (.passthrough ((bayProfile s c.bay).substituteOpcode cls) 0 0 0, cls.cls, true)
  | .pass => (.passthrough c.opcode c.lba c.count c.payload, opcodeClass s c.opcode, false)
  | .fence => (.passthrough c.opcode c.lba c.count c.payload, opcodeClass s c.opcode, false)
  | .refuse => (.passthrough c.opcode c.lba c.count c.payload, opcodeClass s c.opcode, false)

/-- The payload length a request announces, in units of 512 bytes (R155). -/
def Request.payloadUnits : Request → Nat
  | .passthrough _ _ _ payload => payload
  | .writeStripe _ => 0
  | .readStripe _ => 0
  | .nativeErase _ => 0
  | .identify => 0

/-- A passthrough command is issued in a slot: the slot is taken, the record created with the bay's data T1, and where
the command has a payload the server is asked for it with a data frame of length 0 (R106, R126, R128, R155). DESIGN
CHOICE: a command that moves no data, for which R128 gives no direction, is recorded as toward the server, like every
command without a payload (log 34). -/
def issueCommand (s : State) (c : PassCommand) (k : SlotId) : State :=
  let (request, cls, substitute) := issuedAs s c
  let owner := SlotOwner.passthrough c.bay s.nextRequest c.tag
  let direction := if request.payloadUnits = 0 then DataDirection.towardServer else .towardDrive
  let s := s.putSlot k { Slot.empty with owner := owner, direction := direction }
  let s := issueRequest s c.bay .passthrough request (some cls) (.command c substitute) (some k)
    (s.parameters c.bay).dataT1
  if request.payloadUnits = 0 then s else send s (.data c.bay c.tag [])

/-- The grant of a FREE passthrough slot to the first ready command of a list whose grant check issues it; a command
the check refuses is answered, or returns to the hold queue, and the next is tried (R126, R154). -/
def grantPassthrough (k : SlotId) : List PassCommand → State → State
  | [], s => s
  | c :: cs, s =>
    if waitingReady s c then
      let out := s.putWait (withoutTag c.tag s.wait)
      match judge s c with
      | .wait => issueCommand out c k
      | .answered status => grantPassthrough k cs (answer out c status)
      | .hold => grantPassthrough k cs (joinHold out c)
    else grantPassthrough k cs s

end Sys2Proof.Machine
end

