-- ==== Sys2Proof/Machine/Coverage.lean ====
section
/-! DEFINITION. The coverage store: reads and writes of zones, and what a change sends to the job controller and the
command filter (05 of spec/). -/

namespace Sys2Proof.Machine

/-- A zone's entry; a zone that is not in use holds its cleared values (R85). -/
def State.zone (s : State) (b : BayId) (i : Nat) : ZoneEntry := (s.map b).entries.getD i ZoneEntry.cleared

/-- Replaces the entries of a map. -/
def putEntries (s : State) (b : BayId) (es : List ZoneEntry) : State := s.putMap b { s.map b with entries := es }

/-- The bad states of a zone (R86). -/
def ZoneState.bad : ZoneState → Bool
  | .failed => true
  | .mismatched => true
  | .untouched => false
  | .writing => false
  | .written => false
  | .verified => false
  | .excluded => false

/-- The number of in-use zones that are FAILED or MISMATCHED (R98). -/
def badZones (m : CoverageMap) : Nat := (m.entries.filter fun e => e.state.bad).length

/-- The report of zone state changes to the job controller: the owning job's bad zone count is made equal to the
number of bad zones (R98). -/
def reportBadZones (s : State) (b : BayId) : State :=
  match (s.map b).owner with
  | some j => s.modJob j fun x => { x with badZones := badZones (s.map b) }
  | none => s

/-- Changes one zone and reports the change: a state change to the job controller and the command filter, and an out
count that falls to 0 to the command filter, as one re-evaluation event for the bay (R98, R99). -/
def changeZone (s : State) (b : BayId) (i : Nat) (f : ZoneEntry → ZoneEntry) : State :=
  let before := s.zone b i
  let after := f before
  let s := putEntries s b ((s.map b).entries.set i after)
  let s := if before.state = after.state then s else reportBadZones s b
  if before.state = after.state ∧ (before.out = 0 ∨ after.out ≠ 0) then s else reevaluate s b

/-- Changes every zone in use and reports it as one event (R99). -/
def changeAllZones (s : State) (b : BayId) (f : ZoneEntry → ZoneEntry) : State :=
  reevaluate (reportBadZones (putEntries s b ((s.map b).entries.map f)) b) b

/-- The map is left cleared with owner none, run number none, z 0 and Zn 0, and the filter is told (R88, R99). -/
def clearMap (s : State) (b : BayId) : State := reevaluate (s.putMap b CoverageMap.cleared) b

/-! ### Zone state changes -/

/-- A new entry is issued into a zone: out rises by 1, and under an OVERWRITE the zone turns WRITING unless it is
FAILED (R91). -/
def issuedZone (kind : PassKind) (e : ZoneEntry) : ZoneEntry :=
  let e := { e with out := e.out + 1 }
  match kind with
  | .overwrite => if e.state = .failed then e else { e with state := .writing }
  | .verify => e
  | .nativeErase => e

/-- An OVERWRITE entry retires in a zone (R92). -/
def overwriteRetired (pass : Nat) (good : Bool) (e : ZoneEntry) : ZoneEntry :=
  let e := { e with out := e.out - 1, done := e.done + 1 }
  if good then
    if e.state = .writing ∧ e.done = e.due then { e with state := .written, pass := some pass } else e
  else { e with state := .failed, fails := saturating 255 e.fails 1 }

/-- A VERIFY sample retires in a zone with this verify due (R93). -/
def verifyRetired (due : Nat) (good : Bool) (mismatched : Nat) (e : ZoneEntry) : ZoneEntry :=
  let e := { e with out := e.out - 1, done := e.done + 1 }
  if good then
    let e := { e with mismatch := saturating 255 e.mismatch mismatched }
    if e.state = .written ∨ e.state = .verified ∨ e.state = .mismatched then
      if 0 < mismatched then { e with state := .mismatched }
      else if e.state = .written ∧ e.done = due then { e with state := .verified }
      else e
    else e
  else { e with state := .failed, fails := saturating 255 e.fails 1 }

/-- A native erase is issued: every zone that is neither EXCLUDED nor FAILED turns WRITING (R94). -/
def nativeIssued (e : ZoneEntry) : ZoneEntry :=
  if e.state = .excluded ∨ e.state = .failed then e else { e with state := .writing }

/-- A GOOD native erase retires: every zone that is neither EXCLUDED nor FAILED becomes WRITTEN with the pass's index
and done equal to due (R50, R94). -/
def nativeRetired (pass : Nat) (e : ZoneEntry) : ZoneEntry :=
  if e.state = .excluded ∨ e.state = .failed then e else { e with state := .written, pass := some pass, done := e.due }

/-- An entry is abandoned in a zone: out falls by 1 and nothing else changes (R46, R97). -/
def abandonedZone (e : ZoneEntry) : ZoneEntry := { e with out := e.out - 1 }

/-! ### Due work and progress -/

/-- The due work of a zone for a pass: its due, or for a VERIFY its verify due where it is marked and 0 where it is
not (R36, R37, R80, R86). -/
def dueWork (w : WalkContext) (i : Nat) (e : ZoneEntry) : Nat :=
  match w.kind with
  | .overwrite => e.due
  | .nativeErase => e.due
  | .verify => if w.marks.getD i false then verifyDue e.due w.density else 0

/-- The sums of done and of due work over zones from an index on (R25). -/
def workSums (w : WalkContext) : Nat → List ZoneEntry → Nat × Nat
  | _, [] => (0, 0)
  | i, e :: es =>
    let r := workSums w (i + 1) es
    (e.done + r.1, dueWork w i e + r.2)

/-- The progress permille of a pass over a map (R25). -/
def progress (w : WalkContext) (m : CoverageMap) : Nat :=
  let r := workSums w 0 m.entries
  1000 * r.1 / r.2

end Sys2Proof.Machine
end

