-- ==== Sys2Proof/Machine/Walk.lean ====
section
/-! DEFINITION. The walk engine: contexts, the next stripe of a unit and of a pass, the start of a pass and of a unit,
eligibility, and the resume cursor (02 of spec/). -/

namespace Sys2Proof.Machine

/-! ### What a walk reads of its job -/

/-- The capacity of the drive a job recorded. -/
def jobCapacity (x : Job) : Nat :=
  match x.identity with
  | some d => d.capacity
  | none => 0

/-- The sector size of the drive a job recorded. -/
def jobSectorSize (x : Job) : Nat :=
  match x.identity with
  | some d => d.sectorSize
  | none => 0

/-- S_eff of a job. -/
def jobStripe (x : Job) : Nat :=
  match x.geometry with
  | some g => g.sEff
  | none => 0

/-- The extent list of a job, its ends clamped to the recorded capacity (R33). -/
def jobExtents (s : State) (x : Job) : List Extent :=
  extentList s.tables.extents x.extentFirst x.extentCount (jobCapacity x)

/-! ### Stripes issued and skipped -/

/-- A pass issues a stripe: an OVERWRITE every stripe, a VERIFY the samples of marked zones, a NATIVE_ERASE none
(R36, R37, R49). -/
def issues (w : WalkContext) (m : CoverageMap) (xs : List Extent) (S : Nat) (x : Stripe) : Bool :=
  match w.kind with
  | .overwrite => true
  | .nativeErase => false
  | .verify =>
    let i := zoneOf m.z x.first
    w.marks.getD i false &&
      isSample (m.entries.getD i ZoneEntry.cleared).due w.density (ordinalOf xs m.z S x.first)

/-- The next stripe a pass would issue from a position, and the position beyond it, stepping over the stripes it skips;
none where the position reaches the end of the pass (R35). The first argument bounds the steps. -/
def findIssued (w : WalkContext) (m : CoverageMap) (xs : List Extent) (S : Nat) :
    Nat → Position → Option (Stripe × Position)
  | 0, _ => none
  | n + 1, p =>
    match stepWalk w.direction xs S p with
    | none => none
    | some (x, q) => if issues w m xs S x then some (x, q) else findIssued w m xs S n q

/-- The next stripe the current pass of a job would issue (R35). A walk steps over at most all the stripes of the
list. -/
def nextStripe (s : State) (x : Job) (w : WalkContext) : Option (Stripe × Position) :=
  let xs := jobExtents s x
  findIssued w (s.map x.bay) xs (jobStripe x) (totalStripes xs (jobStripe x) + 1) w.cursor

/-- The end of a pass (R35). -/
def passEnd (s : State) (x : Job) (w : WalkContext) : Position :=
  endPosition w.direction (jobExtents s x) (jobCapacity x)

/-- The pass has work left to issue (R35); a NATIVE_ERASE pass has while its cursor is not at the end (R49). -/
def passHasWork (s : State) (x : Job) (w : WalkContext) : Bool :=
  match w.kind with
  | .nativeErase => decide (w.cursor ≠ passEnd s x w)
  | .overwrite => (nextStripe s x w).isSome
  | .verify => (nextStripe s x w).isSome

/-- The next stripe of the unit in progress (R38). -/
def unitStripe (s : State) (x : Job) (w : WalkContext) : Option (Stripe × Position) :=
  match w.unitEnd, nextStripe s x w with
  | some u, some (t, q) => if beforeUnitEnd w.direction t u then some (t, q) else none
  | some _, none => none
  | none, _ => none

/-- The unit in progress has work left to issue (R38, R49). -/
def unitHasWork (s : State) (x : Job) (w : WalkContext) : Bool :=
  match w.kind with
  | .nativeErase => decide (w.unitEnd = some (passEnd s x w) ∧ w.cursor ≠ passEnd s x w)
  | .overwrite => (unitStripe s x w).isSome
  | .verify => (unitStripe s x w).isSome

/-! ### The start of a pass and of a unit -/

/-- The eligibility marks of a pass: for a VERIFY, every zone that is WRITTEN or VERIFIED with the reference in its pass
field; for any other pass none (R34). -/
def passMarks (kind : PassKind) (reference : Nat) (es : List ZoneEntry) : List Bool :=
  match kind with
  | .verify =>
    es.map fun e => decide ((e.state = .written ∨ e.state = .verified) ∧ e.pass = some reference)
  | .overwrite => []
  | .nativeErase => []

/-- The pattern of a pass: its own, or for a VERIFY that of the pass its reference names (R71). -/
def walkPattern (passes : List PassImage) (p : PassImage) : Pattern :=
  match kindOfPass p with
  | .verify =>
    match passes[p.reference]? with
    | some q => patternOfPass q
    | none => .zero
  | .overwrite => patternOfPass p
  | .nativeErase => patternOfPass p

/-- The direction of a walk; a NATIVE_ERASE pass has none and is walked as one ascending step (R49). -/
def walkDirection (p : PassImage) : Direction :=
  match kindOfPass p with
  | .nativeErase => .ascending
  | .overwrite => directionOfPass p
  | .verify => directionOfPass p

/-- The walk context at the start of a pass (R34, R71). -/
def passContext (s : State) (x : Job) (passes : List PassImage) (index : Nat) (p : PassImage) : WalkContext :=
  { pass := index, kind := kindOfPass p, direction := walkDirection p, grain := grainOfPass p,
    pattern := walkPattern passes p, density := p.density, reference := p.reference, retryLimit := p.retry,
    cursor := startPosition (walkDirection p) (jobExtents s x) (jobCapacity x), unitEnd := none, resumeCursor := none,
    marks := passMarks (kindOfPass p) p.reference (s.map x.bay).entries }

/-- A pass begins: the index is set, the pass-complete flag cleared, every done count and the permille set to 0, and the
walk placed at its first position (R14, R34, R90). -/
def startPass (s : State) (j : JobId) (index : Nat) : State :=
  let x := s.job j
  let passes := s.program x.program
  match passes[index]? with
  | none => s
  | some p =>
    let s := putEntries s x.bay ((s.map x.bay).entries.map fun e => { e with done := 0 })
    let s := s.putJob j { x with passIndex := index, passComplete := false, permille := 0 }
    s.putContext x.bay (some (passContext s x passes index p))

/-- The unit end a grain gives for the next stripe (R38). -/
def unitEndFor (s : State) (x : Job) (w : WalkContext) (t : Stripe) (after : Position) : Position :=
  let m := s.map x.bay
  match w.grain with
  | .stripe => after
  | .pass => passEnd s x w
  | .zone =>
    match w.direction with
    | .ascending => positionAt .ascending (jobExtents s x) ((zoneOf m.z t.first + 1) * 2 ^ m.z)
    | .descending => positionAt .descending (jobExtents s x) (zoneOf m.z t.first * 2 ^ m.z)

/-- A unit begins: the unit-in-progress flag is set and the unit end is fixed by the grain (R10, R38, R49). -/
def beginUnit (s : State) (j : JobId) : State :=
  let x := s.job j
  let s := s.putJob j { x with unitActive := true }
  match s.context x.bay with
  | none => s
  | some w =>
    match w.kind with
    | .nativeErase => s.putContext x.bay (some { w with unitEnd := some (passEnd s x w) })
    | .overwrite =>
      s.putContext x.bay (some { w with unitEnd := (nextStripe s x w).map fun r => unitEndFor s x w r.1 r.2 })
    | .verify =>
      s.putContext x.bay (some { w with unitEnd := (nextStripe s x w).map fun r => unitEndFor s x w r.1 r.2 })

/-! ### Entries and eligibility -/

/-- A DONE_ERROR entry whose attempts are within the retry limit awaits reissue (R42). -/
def awaitsReissue (w : WalkContext) (e : Entry) : Bool :=
  decide (e.status = .doneError) && decide (e.attempt ≤ w.retryLimit)

/-- A DONE_ERROR entry whose attempts are spent is failed (R42). -/
def entryFailed (w : WalkContext) (e : Entry) : Bool :=
  decide (e.status = .doneError) && decide (w.retryLimit < e.attempt)

/-- The oldest entry that awaits reissue by a slot grant; a native erase needs no grant (R40, R51; log 16). -/
def oldestReissue (w : WalkContext) (es : List Entry) : Option Entry :=
  es.find? fun e => awaitsReissue w e && decide (e.kind ≠ .nativeErase)

/-- RUNNING or DRAINING. -/
def JobState.runningOrDraining : JobState → Bool
  | .running => true
  | .draining _ => true
  | .free => false
  | .loaded => false
  | .waitingBay => false
  | .waitingTrigger => false
  | .preparing _ => false
  | .paused => false
  | .halted => false
  | .finishing => false
  | .closed => false

/-- What an eligible bay issues at a grant: its oldest entry awaiting reissue, or its next stripe (R39, R40). -/
inductive GrantWork where
  | reissue (entry : Entry)
  | stripe (stripe : Stripe) (after : Position)
  deriving DecidableEq, Repr

/-- The work a bay has for an engine slot; none where it is not eligible (R39). -/
def grantWork (s : State) (b : BayId) : Option (JobId × WalkContext × GrantWork) :=
  if bayReady s b = false ∨ stalled s b = true then none
  else
    match activeJob s b, s.context b with
    | some j, some w =>
      let x := s.job j
      match (if x.state.runningOrDraining then oldestReissue w (s.list b) else none) with
      | some e => some (j, w, .reissue e)
      | none =>
        if x.state = .running ∧ x.unitActive = true ∧ w.kind ≠ .nativeErase ∧
            (s.list b).length < (s.parameters b).depth then
          match unitStripe s x w with
          | some (t, q) => some (j, w, .stripe t q)
          | none => none
        else none
    | some _, none => none
    | none, _ => none

/-- A bay is eligible for an engine slot (R39). -/
def eligible (s : State) (b : BayId) : Bool := (grantWork s b).isSome

/-! ### The resume cursor -/

/-- The position at which the walk would restart now: the head entry's, or the cursor where the list is empty (R47). -/
def restartPosition (s : State) (x : Job) (w : WalkContext) : Position :=
  match s.list x.bay with
  | e :: _ => positionOf w.direction (jobExtents s x) e.stripe
  | [] => w.cursor

/-- The walk engine records the resume cursor of a job that stops with its walk context in use (R47). -/
def recordResume (s : State) (j : JobId) : State :=
  let x := s.job j
  s.modContext x.bay fun w => { w with resumeCursor := some (restartPosition s x w) }

/-- At RESUME to RUNNING the cursor is placed at the resume cursor, which is cleared (R48). -/
def takeResume (s : State) (b : BayId) : State :=
  s.modContext b fun w => { w with cursor := w.resumeCursor.getD w.cursor, resumeCursor := none }

end Sys2Proof.Machine
end

