-- ==== Sys2Proof/Machine/Control.lean ====
section
/-! DEFINITION. The job controller: changes of job state, draining and its end, halts, units, passes, retirement,
tolerance and outcome (01 and 02 of spec/). -/

namespace Sys2Proof.Machine

/-! ### A change of a job's record -/

/-- The bay whose job a record is, where `old` is the record before: a FREE slot belongs to no bay yet. -/
def changedBay (old new : Job) : BayId := if old.state = .free then new.bay else old.bay

/-- A map whose owner leaves the active group has no owner (R88). -/
def disown (s : State) (b : BayId) (j : JobId) : State :=
  if (s.map b).owner = some j then s.putMap b { s.map b with owner := none } else s

/-- Writes a job record. A change of its state, a change of wait reason or drain target among them, is reported to the
command filter as a re-evaluation event and to the indicator (R4; log 13). -/
def changeJob (s : State) (j : JobId) (new : Job) : State :=
  let old := s.job j
  let b := changedBay old new
  let s := s.putJob j new
  let s := if old.state.active && !new.state.active then disown s b j else s
  if old.state = new.state then s else refreshIndicator (reevaluate s b) b

/-- Changes a job's state alone. -/
def setState (s : State) (j : JobId) (st : JobState) : State := changeJob s j { s.job j with state := st }

/-! ### Finishing, draining and halting -/

/-- A job enters FINISHING with its outcome: the latch and the unit flag are cleared, the walk context is emptied, and
the certificate unit begins its pending record (R23, R33, R166). -/
def enterFinishing (s : State) (j : JobId) (o : RunOutcome) : State :=
  let x := s.job j
  let s := s.putContext x.bay none
  let s := s.putBuilding (s.building ++ [{ slot := j, record := none }])
  changeJob s j { x with state := .finishing, outcome := some o, latch := false, unitActive := false }

/-- A job enters HALTED with a reason, and JOB_HALTED is raised (R18). -/
def enterHalted (s : State) (j : JobId) (r : HaltReason) : State :=
  let x := s.job j
  raise (changeJob s j { x with state := .halted, haltReason := some r }) x.bay .jobHalted

/-- A DRAINING job enters its drain target. The resume cursor of a drain that ends in PAUSED is recorded here; that of
HALTED was recorded when the list was abandoned (R16, R47). -/
def enterTarget (s : State) (j : JobId) (t : DrainTarget) : State :=
  match t with
  | .paused => setState (recordResume s j) j .paused
  | .halted r => enterHalted s j r
  | .finishing o => enterFinishing s j o

/-- When the list of a DRAINING job is empty, it enters its target (R16). -/
def settleDrain (s : State) (j : JobId) : State :=
  match (s.job j).state with
  | .draining t => if (s.list (s.job j).bay).isEmpty then enterTarget s j t else s
  | _ => s

/-- A job enters DRAINING; with its list already empty it enters its target at once (R16). -/
def enterDraining (s : State) (j : JobId) (t : DrainTarget) : State := settleDrain (setState s j (.draining t)) j

/-- The job controller takes a bay event that abandoned the bay's list: a RUNNING or WAITING(TRIGGER) job halts, a
DRAINING one is retargeted or enters its target (R17, R18, R51). A job in any other state is not changed here. -/
def haltOrRetarget (s : State) (j : JobId) (r : HaltReason) : State :=
  match (s.job j).state with
  | .running => enterHalted s j r
  | .waitingTrigger => enterHalted s j r
  | .draining .paused => enterDraining s j (.halted r)
  | .draining (.halted _) => settleDrain s j
  | .draining (.finishing _) => settleDrain s j
  | .free => s
  | .loaded => s
  | .waitingBay => s
  | .preparing _ => s
  | .paused => s
  | .halted => s
  | .finishing => s
  | .closed => s

/-! ### Abandonment of the in-flight list -/

/-- A job that a bay event stops with its walk context in use (R47; log 26). -/
def JobState.stops : JobState → Bool
  | .running => true
  | .waitingTrigger => true
  | .draining _ => true
  | .free => false
  | .loaded => false
  | .waitingBay => false
  | .preparing _ => false
  | .paused => false
  | .halted => false
  | .finishing => false
  | .closed => false

/-- One abandoned entry: its slot is freed and its zone's out count falls by 1 (R46). -/
def dropEntry (b : BayId) (s : State) (e : Entry) : State :=
  let s := freeSlot s e.slot
  match e.zone with
  | some i => changeZone s b i abandonedZone
  | none => s

/-- The bay's in-flight list is abandoned: the resume cursor is recorded, every entry is dropped without retiring, and
the out counts fall (R46, R47). -/
def abandonList (s : State) (b : BayId) : State :=
  let entries := s.list b
  let s :=
    match activeJob s b with
    | some j => if (s.job j).state.stops then recordResume s j else s
    | none => s
  entries.foldl (dropEntry b) (s.putList b [])

/-! ### Outcome and pass end -/

/-- The outcome of a run whose last pass ends (R22). -/
def decideOutcome (es : List ZoneEntry) : RunOutcome :=
  if es.all fun e => decide (e.state = .excluded) || decide (e.state = .verified) then .certified
  else if es.any fun e => e.state.bad then .rejected
  else .unverified

/-- A pass ends: its end time is recorded, the pass-complete flag set, the permille reads 1000, and PASS_DONE is raised
(R14). -/
def recordPassEnd (s : State) (j : JobId) : State :=
  let x := s.job j
  raise (s.putJob j { x with passEnds := x.passEnds.set x.passIndex (some s.clock), passComplete := true,
                             permille := 1000 }) x.bay .passDone

/-- The current pass is the last of its program. -/
def lastPass (s : State) (x : Job) : Bool := decide ((s.program x.program).length ≤ x.passIndex + 1)

/-- The chain of the current pass (R14). -/
def currentChain (s : State) (x : Job) : Chain :=
  match (s.program x.program)[x.passIndex]? with
  | some p => chainOfPass p
  | none => .triggered

/-- What follows the end of a pass of a RUNNING job (R14). -/
inductive PassSuccessor where
  | finish
  | begin
  | beginOnLatch
  | wait
  deriving DecidableEq, Repr

/-- What follows the end of the current pass (R14). -/
def passSuccessor (s : State) (x : Job) : PassSuccessor :=
  if lastPass s x then .finish
  else
    match currentChain s x with
    | .auto => .begin
    | .triggered => if x.latch then .beginOnLatch else .wait

/-- The job's latch is cleared. -/
def clearLatch (s : State) (j : JobId) : State := s.modJob j fun x => { x with latch := false }

/-- The pass has work in the job's walk context. -/
def jobPassHasWork (s : State) (j : JobId) : Bool :=
  match s.context (s.job j).bay with
  | some w => passHasWork s (s.job j) w
  | none => false

/-- A pass begins with its first unit; a pass in which no work is due ends as soon as it begins, and what follows it is
taken in its turn (R14, R45). The first argument bounds the passes that end so; a program has at most 8. -/
def beginPass : Nat → State → JobId → Nat → State
  | 0, s, _, _ => s
  | n + 1, s, j, index =>
    let s := startPass s j index
    if jobPassHasWork s j then beginUnit s j
    else
      let s := recordPassEnd s j
      match passSuccessor s (s.job j) with
      | .finish => enterFinishing s j (decideOutcome (s.map (s.job j).bay).entries)
      | .begin => beginPass n s j (index + 1)
      | .beginOnLatch => beginPass n (clearLatch s j) j (index + 1)
      | .wait => setState s j .waitingTrigger

/-- The bound of `beginPass`: a program has at most 8 passes (R27). -/
def passBound : Nat := 8

/-- After the end of a pass of a RUNNING job (R14). -/
def followPass (s : State) (j : JobId) : State :=
  match passSuccessor s (s.job j) with
  | .finish => enterFinishing s j (decideOutcome (s.map (s.job j).bay).entries)
  | .begin => beginPass passBound s j ((s.job j).passIndex + 1)
  | .beginOnLatch => beginPass passBound (clearLatch s j) j ((s.job j).passIndex + 1)
  | .wait => setState s j .waitingTrigger

/-- A trigger begins the next unit, or the next pass where the current pass is complete (R12, R19). -/
def useTrigger (s : State) (j : JobId) : State :=
  if (s.job j).passComplete then beginPass passBound s j ((s.job j).passIndex + 1) else beginUnit s j

/-! ### Units, tolerance and retirement -/

/-- A pass that ends in DRAINING: the next pass does not begin, and the end of the last pass makes the drain target
FINISHING with the outcome decided now, unless it already was FINISHING (R16). -/
def passEndWhileDraining (s : State) (j : JobId) (t : DrainTarget) : State :=
  let s := recordPassEnd s j
  if lastPass s (s.job j) then
    match t with
    | .finishing _ => s
    | .paused => setState s j (.draining (.finishing (decideOutcome (s.map (s.job j).bay).entries)))
    | .halted _ => setState s j (.draining (.finishing (decideOutcome (s.map (s.job j).bay).entries)))
  else s

/-- A unit completes (R11, R16). -/
def completeUnit (s : State) (j : JobId) : State :=
  let s := s.modJob j fun x => { x with unitActive := false }
  let s := s.modContext (s.job j).bay fun w => { w with unitEnd := none }
  match (s.job j).state with
  | .running =>
    if jobPassHasWork s j then
      if (s.job j).latch then beginUnit (clearLatch s j) j else setState s j .waitingTrigger
    else followPass (recordPassEnd s j) j
  | .draining t => if jobPassHasWork s j then s else passEndWhileDraining s j t
  | _ => s

/-- After a retirement the unit is judged: it is complete when it has no work left to issue and the list is empty
(R45). -/
def judgeUnit (s : State) (j : JobId) : State :=
  let x := s.job j
  match s.context x.bay with
  | some w => if x.unitActive && !unitHasWork s x w && (s.list x.bay).isEmpty then completeUnit s j else s
  | none => s

/-- The tolerance comparison that follows a retirement (R17, R21). -/
def compareTolerance (s : State) (j : JobId) : State :=
  let x := s.job j
  if x.tolerance < x.badZones then
    match x.state with
    | .running => enterDraining s j (.finishing .rejected)
    | .waitingTrigger => enterFinishing s j .rejected
    | .draining .paused => setState s j (.draining (.finishing .rejected))
    | _ => s
  else s

/-- What the job controller takes after each retirement: unit and pass completion, the tolerance, the drain's end
(R16, R21, R45). -/
def afterRetirement (s : State) (j : JobId) : State := settleDrain (compareTolerance (judgeUnit s j) j) j

/-- The greatest value of a job's two totals (R3). -/
def totalLimit : Nat := 2 ^ 32 - 1

/-- A retirement adds to the job's totals (R44). -/
def addTotals (good : Bool) (e : Entry) (x : Job) : Job :=
  if good then { x with mismatched := saturating totalLimit x.mismatched e.mismatched }
  else { x with failedStripes := saturating totalLimit x.failedStripes 1 }

/-- The retirement in the coverage store (R50, R92, R93). -/
def retireZone (s : State) (b : BayId) (w : WalkContext) (e : Entry) (good : Bool) : State :=
  match e.kind, e.zone with
  | .nativeErase, _ => changeAllZones s b (nativeRetired w.pass)
  | .overwrite, some i => changeZone s b i (overwriteRetired w.pass good)
  | .verify, some i =>
    changeZone s b i (verifyRetired (dueWork w i (s.zone b i)) good e.mismatched)
  | .overwrite, none => s
  | .verify, none => s

/-- The progress permille is recomputed (R25). -/
def refreshProgress (s : State) (j : JobId) (w : WalkContext) : State :=
  s.modJob j fun x => { x with permille := progress w (s.map x.bay) }

/-- The head of a bay's in-flight list retires (R44). -/
def retireHead (s : State) (b : BayId) (j : JobId) (w : WalkContext) (e : Entry) (rest : List Entry) : State :=
  let good := decide (e.status = .doneGood)
  let s := (s.putList b rest).modJob j (addTotals good e)
  afterRetirement (refreshProgress (retireZone s b w e good) j w) j

/-- The head retires when it is DONE_GOOD or failed, and so on down the list (R44). The first argument bounds the
retirements by the list's length. -/
def retireAll : Nat → State → BayId → State
  | 0, s, _ => s
  | n + 1, s, b =>
    match s.list b, activeJob s b, s.context b with
    | e :: rest, some j, some w =>
      if decide (e.status = .doneGood) || entryFailed w e then retireAll n (retireHead s b j w e rest) b else s
    | _ :: _, some _, none => s
    | _ :: _, none, _ => s
    | [], _, _ => s

end Sys2Proof.Machine
end

