-- ==== Sys2Proof/Machine/Preparation.lean ====
section
/-! DEFINITION. Preparation: the six stages of R7, the scan of the extent list, its errors, and what a bay event makes
of a job (01 and 03 of spec/). -/

namespace Sys2Proof.Machine

/-! ### Stages 1 to 4 -/

/-- A write-class passthrough request is outstanding at a bay, judged by the class it was issued under, whether or not
its result is wanted (R7 stage 1, R102). -/
def writesOutstanding (s : State) (b : BayId) : Bool :=
  (s.port b).queue.any fun r =>
    match r.cls with
    | some c => decide (r.origin = .passthrough) && c.writeClass
    | none => false

/-- Stage 2: the first error of the passes against the job's extent count and the drive (R7). -/
def programError (extentCount : Nat) (nativeErase : Bool) : List PassImage → Option StartError
  | [] => none
  | p :: ps =>
    if kindOfPass p = .nativeErase then
      if extentCount ≠ 0 then some .programConflict
      else if nativeErase = false then some .noNativeErase
      else programError extentCount nativeErase ps
    else programError extentCount nativeErase ps

/-- The runtime fields written by stages 3 to 5 return to their load values (R8, R9). -/
def undoStages (x : Job) : Job :=
  { x with identity := none, geometry := none, stripeClamped := false, extentClamped := false }

/-- An error ends preparation: the job returns to LOADED with the error as its last start error, and START_REFUSED is
raised (R8). -/
def failPreparation (s : State) (j : JobId) (e : StartError) : State :=
  let x := s.job j
  raise (changeJob s j { undoStages x with state := .loaded, startError := some e }) x.bay .startRefused

/-- The map at the start of stage 5: z and Zn of the job, every entry cleared, the job its owner (R58, R88). -/
def preparedMap (j : JobId) (g : Geometry) : CoverageMap :=
  { owner := some j, run := none, z := g.z, zn := g.zn, entries := List.replicate g.zn ZoneEntry.cleared }

/-- Stages 3 and 4, and the start of stage 5 (R7, R31, R55, R56, R58). -/
def beginScan (s : State) (j : JobId) (d : DriveIdentity) : State :=
  let x := s.job j
  let g := geometryOf x.stripeRequest d.capacity d.sectorSize
  let x := { x with
    geometry := some g, stripeClamped := decide (g.sEff ≠ x.stripeRequest)
    identity := some { serial := d.serial, capacity := d.capacity, sectorSize := d.sectorSize }
    extentClamped := false, badZones := 0, mismatched := 0, failedStripes := 0, state := .preparing (.scanning 0 0) }
  reevaluate ((s.putMap x.bay (preparedMap j g)).putJob j x) x.bay

/-- Stage 1 ends when no write-class passthrough request is outstanding; stages 2 to 4 and the start of stage 5 follow
at once (R7). -/
def advancePreparation (s : State) (j : JobId) : State :=
  let x := s.job j
  match x.state, (s.port x.bay).identity with
  | .preparing .draining, some d =>
    if writesOutstanding s x.bay then s
    else
      match programError x.extentCount d.nativeErase (s.program x.program) with
      | some e => failPreparation s j e
      | none => beginScan s j d
  | _, _ => s

/-- A job enters PREPARING (R5, R6, R7). -/
def enterPreparing (s : State) (j : JobId) : State := advancePreparation (setState s j (.preparing .draining)) j

/-- Stage 1 is looked at again for the bay's job, after a record left its queue (R7). -/
def recheckPreparation (s : State) (b : BayId) : State :=
  match activeJob s b with
  | some j => advancePreparation s j
  | none => s

/-! ### Stage 5 -/

/-- What the checks of R59 make of a word: an error, or the extent with its end clamped and whether it was. -/
inductive ScanResult where
  | error (kind : ExtentError)
  | counted (extent : Extent) (clamped : Bool)
  deriving DecidableEq, Repr

/-- The five checks of a word, in their order (R59). -/
def checkWord (first : Bool) (w : ExtentWord) (capacity S previousEnd : Nat) : ScanResult :=
  if w.length = 0 then .error .length
  else if capacity ≤ w.start then .error .beyond
  else if first = false ∧ w.start % S ≠ 0 then .error .align
  else if first = false ∧ w.start < previousEnd then .error .order
  else .counted (clampedExtent w capacity) (decide (capacity < w.start + w.length))

/-- An extent's stripes are counted into the due counts of the zones from an index on (R63). -/
def countInto (x : Extent) (z S : Nat) : Nat → List ZoneEntry → List ZoneEntry
  | _, [] => []
  | i, e :: es =>
    { e with due := e.due + stripesWithin x (i * 2 ^ z) ((i + 1) * 2 ^ z) S } :: countInto x z S (i + 1) es

/-- The end of the scan: a zone with due 0 becomes EXCLUDED (R64). -/
def scannedZone (e : ZoneEntry) : ZoneEntry := if e.due = 0 then { e with state := .excluded } else e

/-- Stage 6: the run counter rises by 1 and numbers the run, the start time is recorded, the job enters RUNNING and
pass 0 begins with its first unit (R7, R88, R173). -/
def beginRun (s : State) (j : JobId) : State :=
  let x := s.job j
  let run := s.runCounter + 1
  let s := s.putRunCounter run
  let s := s.putMap x.bay { s.map x.bay with run := some run }
  let s := changeJob s j { x with state := .running, run := some run, startTime := some s.clock }
  beginPass passBound s j 0

/-- The last word has passed: the zones without stripes become EXCLUDED, the filter is told once, and stage 6 begins
the run (R64). -/
def completeScan (s : State) (j : JobId) : State :=
  let b := (s.job j).bay
  beginRun (reevaluate (putEntries s b ((s.map b).entries.map scannedZone)) b) j

/-- An extent that passed its checks is counted, and its end is the previous end of the next word (R59, R63). -/
def countExtent (s : State) (j : JobId) (g : Geometry) (x : Extent) (clamped : Bool) (next : Nat) : State :=
  let y := s.job j
  let s := putEntries s y.bay (countInto x g.z g.sEff 0 (s.map y.bay).entries)
  s.putJob j { y with extentClamped := y.extentClamped || clamped, state := .preparing (.scanning next x.stop) }

/-- One step of the scan: one word, or the implicit extent of a whole-drive job (R58, R59, R64, R65; log 14). -/
def scanStep (s : State) (j : JobId) (next previousEnd : Nat) (g : Geometry) : State :=
  let x := s.job j
  let C := jobCapacity x
  if x.extentCount = 0 then completeScan (countExtent s j g { start := 0, stop := C } false 0) j
  else
    let word := x.extentFirst + next
    match checkWord (decide (next = 0)) (readExtent s.tables.extents word) C g.sEff previousEnd with
    | .error kind => failPreparation (clearMap s x.bay) j (.extentCheck word kind)
    | .counted e clamped =>
      let s := countExtent s j g e clamped (next + 1)
      if next + 1 < x.extentCount then s else completeScan s j

/-! ### A bay event during preparation -/

/-- The bay leaves READY in preparation: the job returns to WAITING(BAY), and a map whose scan had begun is left
cleared (R9, R66). -/
def returnToWaiting (s : State) (j : JobId) (p : Preparation) : State :=
  let x := s.job j
  let s :=
    match p with
    | .scanning _ _ => clearMap s x.bay
    | .draining => s
  changeJob s j { undoStages x with state := .waitingBay }

/-- The job controller takes a removal or a selective reset for the bay's job (R9, R17, R18, R132, R140). -/
def jobLosesBay (s : State) (b : BayId) (r : HaltReason) : State :=
  match activeJob s b with
  | some j =>
    match (s.job j).state with
    | .preparing p => returnToWaiting s j p
    | _ => haltOrRetarget s j r
  | none => s

end Sys2Proof.Machine
end

