-- ==== Sys2Proof/Machine/Requests.lean ====
section
/-! DEFINITION. Drive requests and bay ports: completions, aborts, abandonment, identification, selective reset,
removal and insertion, and the issue of engine requests (06, 07 and 08 of spec/). -/

namespace Sys2Proof.Machine

/-! ### Engine requests -/

/-- Replaces the entry whose latest request is `id`. -/
def updateEntry (s : State) (b : BayId) (id : Nat) (f : Entry → Entry) : State :=
  s.putList b ((s.list b).map fun e => if e.request = id then f e else e)

/-- The mismatched sectors a completion leaves in its entry: the slot's count for a verify read that completes GOOD,
else 0 (R42, R43, R76, R77). -/
def recordedMismatches (s : State) (k : Option SlotId) (good : Bool) : Nat :=
  match k with
  | some k => if good ∧ (s.slot k).mode = .compare then finalMismatches (s.slot k) else 0
  | none => 0

/-- The native-erase entry of a bay is failed: its list is abandoned and the job halts or is retargeted (R51). -/
def nativeEraseFailed (s : State) (b : BayId) : State :=
  let s := abandonList s b
  match activeJob s b with
  | some j => haltOrRetarget s j .nativeEraseFailed
  | none => s

/-- The native-erase entry at the head of the list is failed (R51). -/
def nativeHeadFailed (s : State) (b : BayId) : Bool :=
  match s.list b, s.context b with
  | e :: _, some w => decide (e.kind = .nativeErase) && entryFailed w e
  | _, _ => false

/-- An engine entry's completion is taken: the record leaves the queue, the slot is freed, the entry becomes DONE_GOOD
or DONE_ERROR, and what can retire retires (R43, R44, R50, R51, R108). -/
def completeEntry (s : State) (b : BayId) (r : Record) (good : Bool) : State :=
  let mismatched := recordedMismatches s r.slot good
  let s := freeSlot (dropRecord s b r.id) r.slot
  let s := updateEntry s b r.id fun e =>
    { e with slot := none, status := if good then .doneGood else .doneError, mismatched := mismatched }
  if nativeHeadFailed s b then nativeEraseFailed s b else retireAll (s.list b).length s b

/-! ### The bay port's IDENTIFY -/

/-- IDENTIFY is issued and the attempt count rises by 1 (R134). -/
def issueIdentify (s : State) (b : BayId) : State :=
  issueRequest (s.modPort b fun p => { p with attempts := p.attempts + 1 }) b .engine .identify none .port none
    Config.identifyT1

/-- Sets a bay's state and recomputes its indicator (R130, R143). -/
def setBayState (s : State) (b : BayId) (st : BayState) : State :=
  refreshIndicator (s.modPort b fun p => { p with state := st }) b

/-- The bay enters FAULTED with a reason and raises FAULTED (R135, R136, R138, R140). A rejected identity is kept with
every value IDENTIFY reported (log 36). -/
def enterFaulted (s : State) (b : BayId) (reason : FaultReason) (rejected : Option DriveIdentity) : State :=
  let s := s.modPort b fun p => { p with fault := some reason, rejected := rejected }
  raise (setBayState s b .faulted) b .faulted

/-- Two identities are equal in serial, capacity and sector size (R133). -/
def sameDrive (d : DriveIdentity) (r : RecordedIdentity) : Bool :=
  decide (d.serial = r.serial) && decide (d.capacity = r.capacity) && decide (d.sectorSize = r.sectorSize)

/-- The bay enters READY: READY is raised, a job in WAITING(BAY) enters PREPARING, and a HALTED job with another
recorded identity raises FOREIGN_DRIVE (R135, R137). -/
def enterReady (s : State) (b : BayId) (d : DriveIdentity) : State :=
  let s := s.modPort b fun p => { p with identity := some d, attempts := 0 }
  let s := raise (setBayState s b .ready) b .ready
  match activeJob s b with
  | none => s
  | some j =>
    match (s.job j).state, (s.job j).identity with
    | .waitingBay, _ => enterPreparing s j
    | .halted, some r => if sameDrive d r then s else raise s b .foreignDrive
    | _, _ => s

/-- A failed attempt: the next one is issued at once while the count is below 3, else the bay enters FAULTED (R136). -/
def failIdentify (s : State) (b : BayId) : State :=
  if (s.port b).attempts < Config.identifyAttempts then issueIdentify s b else enterFaulted s b .noResponse none

/-- A GOOD completion of IDENTIFY is judged (R135). -/
def judgeIdentify (s : State) (b : BayId) (d : DriveIdentity) : State :=
  if (d.sectorSize = 512 ∨ d.sectorSize = 4096) ∧ 1 ≤ d.capacity then enterReady s b d
  else enterFaulted s b .format (some d)

/-! ### Completions -/

/-- The response status for a drive's completion of a passthrough command (R116). -/
def completionResponse (status : CompletionStatus) (record : RecordStatus) : ResponseStatus :=
  match status, record with
  | .good, _ => .good
  | .mediaError, _ => .mediaError
  | .deviceError, _ => .deviceError
  | .addressError, _ => .addressError
  | .aborted, .issued => .aborted
  | .aborted, .aborting => .driveTimeout

/-- A passthrough record ends: it leaves the queue, its slot is freed, the command is answered where its result is
wanted, and stage 1 of a preparation is looked at again (R7, R108, R116, R119). -/
def completeCommand (s : State) (b : BayId) (r : Record) (c : PassCommand) (substitute : Bool)
    (status : ResponseStatus) : State :=
  let s := freeSlot (dropRecord s b r.id) r.slot
  let s := if r.wanted then respond s b.val c.tag c.opcode status substitute else s
  recheckPreparation s b

/-- The drive's completion of a record's request is taken and handed to the record's link (R108, R112). -/
def takeCompletion (s : State) (b : BayId) (r : Record) (status : CompletionStatus) (d : DriveIdentity) : State :=
  match r.link with
  | .entry => completeEntry s b r (decide (status = .good))
  | .port =>
    let s := dropRecord s b r.id
    if status = .good then judgeIdentify s b d else failIdentify s b
  | .command c substitute => completeCommand s b r c substitute (completionResponse status r.status)

/-- The abort confirmation of an ABORTING record completes it as ABORTED (R113). -/
def takeConfirmation (s : State) (b : BayId) (r : Record) : State :=
  match r.link with
  | .entry => completeEntry s b r false
  | .port => failIdentify (dropRecord s b r.id) b
  | .command c substitute => completeCommand s b r c substitute .driveTimeout

/-- T1 of an ISSUED record expires: ABORT is sent, the record becomes ABORTING and its T2 starts with the bay's T2; an
engine record's entry becomes ABORTING as well (R110). -/
def expireT1 (s : State) (b : BayId) (r : Record) : State :=
  let t2 := (s.parameters b).t2
  let s := updateRecord s b r.id fun r => { r with status := .aborting, timer := t2 }
  let s := s.signal (.abort b r.id)
  match r.link with
  | .entry => updateEntry s b r.id fun e => { e with status := .aborting }
  | .port => s
  | .command _ _ => s

/-! ### Abandonment, removal and selective reset -/

/-- A passthrough command of an abandoned record is answered where its result is wanted (R116, R118). -/
def answerAbandoned (b : BayId) (status : ResponseStatus) (s : State) (r : Record) : State :=
  match r.link with
  | .command c substitute => if r.wanted then respond s b.val c.tag c.opcode status substitute else s
  | .entry => s
  | .port => s

/-- Every record of the bay's queue is abandoned: timers stopped, positions and slots freed, the in-flight list
abandoned, passthrough commands answered (R118). DESIGN CHOICE: the in-flight list comes first, so where an entry's zone
falls to an out count of 0 the bay's held reads are answered before the abandoned commands, and those are answered in
the order of their issue (log 9). -/
def abandonQueue (s : State) (b : BayId) (status : ResponseStatus) : State :=
  let records := (s.port b).queue
  let s := freeSlots (s.modPort b fun p => { p with queue := [] }) records
  let s := abandonList s b
  records.foldl (answerAbandoned b status) s

/-- The halt reason a selective reset's cause gives (R140). -/
def ResetCause.haltReason : ResetCause → HaltReason
  | .deviceFault => .driveFault
  | .t2Expiry => .driveTimeout
  | .resetBay => .bayReset

/-- A selective reset is taken: the cause is recorded, the bay enters RESETTING, its queue is abandoned, its held and
waiting commands answered, the identity cleared, the job told, and the reset timer started with 500 ms
(R139, R140, R160). A fault reason and a rejected identity end with FAULTED (log 20). -/
def selectiveReset (s : State) (b : BayId) (cause : ResetCause) : State :=
  let s := s.modPort b fun p =>
    { p with lastReset := some cause, fault := none, rejected := none, resetTimer := some Config.resetTime }
  let s := (setBayState s b .resetting).signal (.interfaceReset b)
  let s := abandonQueue s b .bayReset
  let s := answerLeaving s b
  let s := s.modPort b fun p => { p with identity := none }
  jobLosesBay s b cause.haltReason

/-- The drive is removed (R132, R160). -/
def removeDrive (s : State) (b : BayId) : State :=
  let s := s.modPort b fun p => { p with debounce := none, resetTimer := none }
  let s := raise (setBayState s b .empty) b .removed
  let s := abandonQueue s b .bayAbsent
  let s := answerLeaving s b
  let s := s.modPort b fun p => { p with identity := none, attempts := 0, fault := none, rejected := none }
  jobLosesBay s b .removed

/-! ### Insertion -/

/-- An insertion is complete: the bay enters IDENTIFYING, INSERTED is raised and the identify procedure begins with
its count at 0 (R131, R134). -/
def completeInsertion (s : State) (b : BayId) : State :=
  let s := s.modPort b fun p => { p with debounce := none, attempts := 0 }
  issueIdentify (raise (setBayState s b .identifying) b .inserted) b

/-- An EMPTY bay whose presence is asserted enters SEATING with its debounce timer started; with a debounce time of 0
the insertion is complete at once (R131). -/
def seat (s : State) (b : BayId) : State :=
  let t := s.tables.debounceTime
  if t = 0 then completeInsertion s b
  else setBayState (s.modPort b fun p => { p with debounce := some t }) b .seating

/-! ### The issue of stripes and native erases -/

/-- The request of a stripe: WRITE_STRIPE for an OVERWRITE, READ_STRIPE for a VERIFY (R40). -/
def stripeRequest (w : WalkContext) (t : Stripe) : Request :=
  match w.kind with
  | .overwrite => .writeStripe t
  | .verify => .readStripe t
  | .nativeErase => .writeStripe t

/-- The mode of a slot for a pass: GENERATE for an OVERWRITE, COMPARE for a VERIFY (R73). -/
def slotMode (w : WalkContext) : SlotMode :=
  match w.kind with
  | .overwrite => .generate
  | .verify => .compare
  | .nativeErase => .none

/-- A stripe request is issued in a granted slot: the slot is loaded and T1 started with the bay's data T1 (R73,
R106). -/
def issueStripe (s : State) (b : BayId) (j : JobId) (w : WalkContext) (k : SlotId) (t : Stripe) : State :=
  let slot := loadedSlot b s.nextRequest (slotMode w) w.pattern t (jobSectorSize (s.job j))
  issueRequest (s.putSlot k slot) b .engine (stripeRequest w t) none .entry (some k) (s.parameters b).dataT1

/-- The cursor after an issue: beyond the stripe, or at the unit end once the unit has no more to issue (R38, R40). -/
def moveCursor (s : State) (j : JobId) (w : WalkContext) (after : Position) : State :=
  let x := s.job j
  let w := { w with cursor := after }
  let s := s.putContext x.bay (some w)
  if unitHasWork s x w then s else s.putContext x.bay (some { w with cursor := w.unitEnd.getD after })

/-- A new stripe is issued: an entry at the tail with attempt 1, the cursor beyond it, and the issue reported to the
coverage store (R40, R91). -/
def issueNewStripe (s : State) (b : BayId) (j : JobId) (w : WalkContext) (k : SlotId) (t : Stripe)
    (after : Position) : State :=
  let zone := zoneOf (s.map b).z t.first
  let entry : Entry :=
    { request := s.nextRequest, stripe := t, zone := some zone, kind := w.kind, pass := w.pass, attempt := 1,
      slot := some k, status := .issued, mismatched := 0 }
  let s := issueStripe s b j w k t
  let s := moveCursor (s.putList b (s.list b ++ [entry])) j w after
  changeZone s b zone (issuedZone w.kind)

/-- An entry is reissued: it keeps its place, its attempt count rises by 1 and it takes the new slot; neither out nor
the zone's state changes (R40). -/
def reissueStripe (s : State) (b : BayId) (j : JobId) (w : WalkContext) (k : SlotId) (e : Entry) : State :=
  let id := s.nextRequest
  let s := issueStripe s b j w k e.stripe
  updateEntry s b e.request fun e =>
    { e with request := id, attempt := e.attempt + 1, slot := some k, status := .issued, mismatched := 0 }

/-- The bays in the order of the rotation: the first after the pointer first, the pointer's own bay last (R124). -/
def rotation (p : BayId) : List BayId := allBays.map fun i => p + 1 + i

/-- One engine grant: the lowest-numbered FREE engine slot goes to the first eligible bay of the rotation, which issues
at once, and the grant pointer becomes that bay (R40, R124). -/
def grantEngine (s : State) : State :=
  match firstFree s engineSlots, (rotation s.grantPointer).find? (eligible s) with
  | some k, some b =>
    let s := s.putGrantPointer b
    match grantWork s b with
    | some (j, w, .reissue e) => reissueStripe s b j w k e
    | some (j, w, .stripe t after) => issueNewStripe s b j w k t after
    | none => s
  | _, _ => s

/-- NATIVE_ERASE is sent under the bay's native T1, which is counted in minutes (R49, R106). -/
def sendNativeErase (s : State) (b : BayId) (w : WalkContext) : State :=
  issueRequest s b .engine (.nativeErase w.pattern) none .entry none ((s.parameters b).nativeT1 * 60000)

/-- The native-erase request of a unit is issued: one entry for the whole drive, and every zone that is neither EXCLUDED
nor FAILED turns WRITING (R49, R94). -/
def issueNativeErase (s : State) (b : BayId) (j : JobId) (w : WalkContext) : State :=
  let x := s.job j
  let entry : Entry :=
    { request := s.nextRequest, stripe := { first := 0, length := jobCapacity x }, zone := none, kind := .nativeErase,
      pass := w.pass, attempt := 1, slot := none, status := .issued, mismatched := 0 }
  let s := sendNativeErase s b w
  let s := (s.putList b [entry]).putContext b (some { w with cursor := passEnd s x w })
  changeAllZones s b nativeIssued

/-- The native-erase entry is reissued with its attempt count raised by 1 and a fresh T1 (R51, R94). DESIGN CHOICE: R99
names the issue of a native erase alone; the reissue, which finds its zones WRITING, is reported to the command filter as
a re-evaluation event as the issue is (log 39). -/
def reissueNativeErase (s : State) (b : BayId) (w : WalkContext) (e : Entry) : State :=
  let id := s.nextRequest
  let s := sendNativeErase s b w
  let s := updateEntry s b e.request fun e => { e with request := id, attempt := e.attempt + 1, status := .issued }
  changeAllZones s b nativeIssued

/-- The native-erase request of a bay is issued or reissued where it is due: the bay READY and not stalled, and the
entry awaiting reissue with the job RUNNING or DRAINING, or the unit's one request still to issue with the job RUNNING
(R49, R51, R105). -/
def nativeEraseStep (s : State) (b : BayId) : State :=
  if bayReady s b = false ∨ stalled s b = true then s
  else
    match activeJob s b, s.context b with
    | some j, some w =>
      let x := s.job j
      if w.kind = .nativeErase then
        match s.list b with
        | [] =>
          if x.state = .running ∧ x.unitActive = true ∧ unitHasWork s x w = true then issueNativeErase s b j w else s
        | e :: _ => if awaitsReissue w e && x.state.runningOrDraining then reissueNativeErase s b w e else s
      else s
    | _, _ => s

end Sys2Proof.Machine
end

