-- ==== Sys2Proof/Machine/Certificates.lean ====
section
/-! DEFINITION. The certificate unit: building, placing, the store (10 of spec/). -/

namespace Sys2Proof.Machine

/-! ### Building a record -/

/-- The parameter a pass entry records: b for BYTE, the seed for LOCATION, 0 for ZERO and ONES (R164, R182;
log 21). -/
def recordedParameter : Pattern → Word
  | .zero => 0
  | .ones => 0
  | .byte b => b.setWidth 32
  | .location seed => seed

/-- The code of a pattern kind (R182). -/
def Pattern.code : Pattern → Nat
  | .zero => 0
  | .ones => 1
  | .byte _ => 2
  | .location _ => 3

/-- The code of a direction (R182). -/
def Direction.code : Direction → Nat
  | .ascending => 0
  | .descending => 1

/-- The pass entry a certificate records: a field unused for the pass's kind is 0 (R28, R164). -/
def passRecord (p : PassImage) (endTime : Option Word) : PassRecord :=
  match kindOfPass p with
  | .overwrite =>
    { kind := .overwrite, pattern := (patternOfPass p).code, direction := (directionOfPass p).code, density := 0,
      parameter := recordedParameter (patternOfPass p), endTime := endTime }
  | .verify =>
    { kind := .verify, pattern := 0, direction := (directionOfPass p).code, density := p.density, parameter := 0,
      endTime := endTime }
  | .nativeErase =>
    { kind := .nativeErase, pattern := (patternOfPass p).code, direction := 0, density := 0,
      parameter := recordedParameter (patternOfPass p), endTime := endTime }

/-- The pass entries of a program with their end times, from a pass on (R164). -/
def passRecords (ends : List (Option Word)) : Nat → List PassImage → List PassRecord
  | _, [] => []
  | i, p :: ps => passRecord p (ends.getD i none) :: passRecords ends (i + 1) ps

/-- The seven zone states in the order of their codes (R86). -/
def allZoneStates : List ZoneState :=
  [.untouched, .writing, .written, .verified, .mismatched, .failed, .excluded]

/-- The seven zone counts, in state code order (R163). -/
def zoneCounts (es : List ZoneEntry) : List Nat :=
  allZoneStates.map fun st => (es.filter fun e => decide (e.state = st)).length

/-- The record of a closing job, from its record, its program and its bay's map (R163). -/
def buildRecord (s : State) (j : JobId) : CertificateRecord :=
  let x := s.job j
  let m := s.map x.bay
  let d := x.identity.getD { serial := [], capacity := 0, sectorSize := 0 }
  let g := x.geometry.getD { sEff := 0, z := 0, zn := 0 }
  { run := x.run.getD 0, slot := j, bay := x.bay, label := x.label, outcome := x.outcome.getD .cancelled,
    serial := d.serial, capacity := d.capacity, sectorSize := d.sectorSize, program := x.program,
    passes := passRecords x.passEnds 0 (s.program x.program), extentCount := x.extentCount,
    extentClamped := x.extentClamped, stripeClamped := x.stripeClamped, sEff := g.sEff, z := g.z, zn := g.zn,
    zoneCounts := zoneCounts m.entries, mismatched := x.mismatched, failedStripes := x.failedStripes,
    startTime := x.startTime.getD 0, closeTime := none, digest := mapDigest m.entries }

/-! ### The store -/

/-- The store bears a record with this run number. -/
def storeBears (store : List CertificateRecord) (run : Word) : Bool := store.any fun r => decide (r.run = run)

/-- A record is inserted at the position its run number gives (R168). -/
def insertRecord (r : CertificateRecord) : List CertificateRecord → List CertificateRecord
  | [] => [r]
  | q :: qs => if r.run.toNat < q.run.toNat then r :: q :: qs else q :: insertRecord r qs

/-- The store has room for a record with this run number (R167). -/
def storeHasRoom (store : List CertificateRecord) (run : Word) : Bool :=
  decide (store.length < Config.certificateCapacity) && !storeBears store run

/-- A record is placed: the close time is read, the record inserted, the pending record released, the job CLOSED and
JOB_CLOSED raised (R167). The job is numbered among the closed ones (R143; log 6). DESIGN CHOICE: the held reads that
the entry to CLOSED judges again are answered before JOB_CLOSED is announced (log 9). -/
def placeRecord (s : State) (r : CertificateRecord) : State :=
  let j := r.slot
  let x := s.job j
  let s := s.putStore (insertRecord { r with closeTime := some s.clock } s.store)
  let s := s.putBuilding (s.building.filter fun p => decide (p.slot ≠ j))
  let s := changeJob s j { x with state := .closed, closeTime := some s.clock, permille := 1000, closeOrder := s.stamp }
  raise s.bumpStamp x.bay .jobClosed

/-- The complete pending records waiting for a place (R169, R170). -/
def waitingRecords (s : State) : List CertificateRecord := s.building.filterMap fun p => p.record

/-- The record with the lowest run number of a list. DESIGN CHOICE: of two that bear the same one, the first in the
list, which is the one whose job entered FINISHING first (log 38). -/
def lowestRun : List CertificateRecord → Option CertificateRecord
  | [] => none
  | r :: rs =>
    match lowestRun rs with
    | some q => if q.run.toNat < r.run.toNat then some q else some r
    | none => some r

/-- The place a DISCARD frees goes to the waiting record with the lowest run number among those whose run number no
record in the store bears (R170). -/
def fillPlace (s : State) : State :=
  match lowestRun ((waitingRecords s).filter fun r => storeHasRoom s.store r.run) with
  | some r => placeRecord s r
  | none => s

/-- A build completes: the record is placed where the store has room for it, else it stays pending with CERT_PENDING
raised (R167). -/
def completeBuild (s : State) (j : JobId) : State :=
  let r := buildRecord s j
  if storeHasRoom s.store r.run then placeRecord s r
  else
    let s := s.putBuilding (s.building.map fun p => if p.slot = j then { p with record := some r } else p)
    raise s r.bay .certPending

/-- The job's record is being built. -/
def isBuilding (s : State) (j : JobId) : Bool :=
  s.building.any fun p => decide (p.slot = j) && p.record.isNone

end Sys2Proof.Machine
end

