-- ==== Sys2Proof/Machine/Resets.lean ====
section
/-! DEFINITION. Cold reset, warm reset, upstream link reset and link-up (11, 11.4 of spec/). -/

namespace Sys2Proof.Machine

/-- Every bay port takes its values after a cold or warm reset; the presence inputs are pins and keep their levels
(R130). -/
def resetPorts (s : State) : State :=
  allBays.foldl (fun s b => s.modPort b fun p => { BayPort.cold with presence := p.presence }) s

/-- Each bay samples its presence input afresh (R130). DESIGN CHOICE: in ascending bay order, which orders the INSERTED
notices and the IDENTIFYs of a warm reset with a debounce time of 0 (log 9). -/
def samplePresence (s : State) : State :=
  allBays.foldl (fun s b => if (s.port b).presence then seat s b else s) s

/-- The operating state of every block after a warm reset (R179): what a warm reset does not keep. -/
def clearOperation (s : State) : State :=
  let s := (((s.freeAllTags.putWait []).putHold []).putManagement []).putTaking none
  let s := { s with attention := Vector.replicate 16 0, jobs := Vector.replicate 24 Job.free
                    walk := Vector.replicate 16 none, inFlight := Vector.replicate 16 []
                    slots := Vector.replicate 32 Slot.empty, coverage := Vector.replicate 16 CoverageMap.cleared }
  ((s.putGrantPointer 15).putBuilding [])

/-- A warm reset across the bridge as one event (R179). -/
def warmReset (s : State) : State := samplePresence (resetPorts (clearOperation s))

/-- What a cold reset does not keep over a warm one: the link, the clock, the run counter, the tables and the
certificate store (R179). -/
def clearPower (s : State) : State :=
  (((s.putLink .down).putClock 0).putRunCounter 0).putTables Tables.cold |>.putStore []

/-- A cold reset of the whole bridge (R179). -/
def coldReset (s : State) : State := warmReset (clearPower s)

/-- Every passthrough record of a bay has its result wanted set to no (R119). -/
def unwantResults (s : State) (b : BayId) : State :=
  s.modPort b fun p =>
    { p with queue := p.queue.map fun r => if r.origin = .passthrough then { r with wanted := false } else r }

/-- An upstream link reset (R119, R161, R178). The command at the front of the management queue is the one that may be
being taken at this moment: it stays behind, to have its effect without a reply (log 32). -/
def linkReset (s : State) : State :=
  let s := s.putTaking s.management.head?
  let s := ((((s.putLink .down).freeAllTags).putManagement []).putHold []).putWait []
  allBays.foldl unwantResults s

/-- The notice of one bay at link-up (R177). -/
def linkUpNotice (s : State) (b : BayId) : State :=
  match linkUpChannel s b with
  | some c => send s (.notice b c (s.attentionOf b))
  | none => s

/-- The upstream link comes UP (R177). A command left being taken at the link reset is past (log 32). -/
def bringUp (s : State) : State := allBays.foldl linkUpNotice ((s.putLink .up).putTaking none)

end Sys2Proof.Machine
end

