-- ==== Sys2Proof/Machine/BayCommands.lean ====
section
/-! DEFINITION. The meanings of the management commands that act on certificates, attention sets, indicators, bays and
the bridge: DISCARD_CERTIFICATE, CLEAR_ATTENTION, SET_INDICATOR, RESET_BAY, RESET_BRIDGE. -/

namespace Sys2Proof.Machine

/-! ### Certificates -/

/-- The store without the record that bears a run number (R170). -/
def removeRecord (run : Word) (store : List CertificateRecord) : List CertificateRecord :=
  store.filter fun r => decide (r.run ≠ run)

/-- DISCARD_CERTIFICATE (R170). -/
def execDiscardCertificate (run : Word) (s : State) : Host.Outcome State Fault Refusal :=
  .next (takeManagement (.discardCertificate run) s fun c s =>
    if storeBears s.store run then
      let s := accept s c
      fillPlace (s.putStore (removeRecord run s.store))
    else refuse s c .range)

/-! ### Attention -/

/-- The mask names no kind above 9 (R175). -/
def maskNamesKinds (mask : BitVec 16) : Bool := decide (mask.toNat < 1024)

/-- A set without the kinds of a mask (R175). -/
def clearedSet (set : AttentionSet) (mask : BitVec 16) : AttentionSet := set &&& ~~~ (mask.setWidth 10)

/-- CLEAR_ATTENTION (R175). -/
def execClearAttention (bay : Nat) (mask : BitVec 16) (s : State) : Host.Outcome State Fault Refusal :=
  .next (takeManagement (.clearAttention bay mask) s fun c s =>
    match bayOf bay with
    | none => refuse s c .range
    | some b =>
      if maskNamesKinds mask then
        let set := clearedSet (s.attentionOf b) mask
        reply (s.putAttention b set) c .accepted (.attention set)
      else refuse s c .range)

/-! ### Indicators -/

/-- SET_INDICATOR (R144). -/
def execSetIndicator (bay pattern : Nat) (s : State) : Host.Outcome State Fault Refusal :=
  .next (takeManagement (.setIndicator bay pattern) s fun c s =>
    match bayOf bay, overrideOf pattern with
    | some b, some o => refreshIndicator ((accept s c).modPort b fun p => { p with override := o }) b
    | _, _ => refuse s c .range)

/-! ### Resets by command -/

/-- RESET BAY of a bay that is RESETTING already: the count is set to 0, the reset timer started again and the cause
recorded (R139). DESIGN CHOICE: the drive's interface is not reset a second time (log 35). -/
def restartReset (p : BayPort) : BayPort :=
  { p with attempts := 0, resetTimer := some Config.resetTime, lastReset := some .resetBay }

/-- RESET_BAY (R139). -/
def execResetBay (bay : Nat) (s : State) : Host.Outcome State Fault Refusal :=
  .next (takeManagement (.resetBay bay) s fun c s =>
    match bayOf bay with
    | none => refuse s c .range
    | some b =>
      match (s.port b).state with
      | .empty => reply s c .absent .nothing
      | .seating => reply s c .absent .nothing
      | .resetting => (accept s c).modPort b restartReset
      | .identifying => selectiveReset ((accept s c).modPort b fun p => { p with attempts := 0 }) b .resetBay
      | .ready => selectiveReset ((accept s c).modPort b fun p => { p with attempts := 0 }) b .resetBay
      | .faulted => selectiveReset ((accept s c).modPort b fun p => { p with attempts := 0 }) b .resetBay)

/-- RESET_BRIDGE (R179): the reply is sent first, then the warm reset is taken. -/
def execResetBridge (s : State) : Host.Outcome State Fault Refusal :=
  .next (takeManagement .resetBridge s fun c s => warmReset (accept s c))

end Sys2Proof.Machine
end

