-- ==== Sys2Proof/Machine/BayEvents.lean ====
section
/-! DEFINITION. The meanings of the events at a bay's port: PRESENCE_ASSERTED, PRESENCE_DROPPED, DEBOUNCE_EXPIRY,
DEVICE_FAULT_INDICATION, RESET_TIMER_EXPIRY, INDICATOR_PHASE. An event that cannot occur in a state (a level that does
not change, a timer that does not run) has no effect (log 1). -/

namespace Sys2Proof.Machine

/-! ### Presence -/

/-- The presence input's level is written. -/
def setPresence (s : State) (b : BayId) (level : Bool) : State := s.modPort b fun p => { p with presence := level }

/-- The debounce timer is stopped. -/
def stopDebounce (s : State) (b : BayId) : State := s.modPort b fun p => { p with debounce := none }

/-- PRESENCE_ASSERTED (R131, R132): an EMPTY bay begins an insertion, and in an occupied bay a removal's debounce timer
is stopped. -/
def execPresenceAsserted (b : BayId) (s : State) : Host.Outcome State Fault Refusal :=
  .next <|
    if (s.port b).presence then s
    else
      match (s.port b).state with
      | .empty => seat (setPresence s b true) b
      | .seating => setPresence s b true
      | .identifying => stopDebounce (setPresence s b true) b
      | .ready => stopDebounce (setPresence s b true) b
      | .faulted => stopDebounce (setPresence s b true) b
      | .resetting => stopDebounce (setPresence s b true) b

/-- A removal begins: its debounce timer is started, or with a debounce time of 0 it is taken at the drop (R132). -/
def beginRemoval (s : State) (b : BayId) : State :=
  let t := s.tables.debounceTime
  if t = 0 then removeDrive s b else s.modPort b fun p => { p with debounce := some t }

/-- PRESENCE_DROPPED (R131, R132). -/
def execPresenceDropped (b : BayId) (s : State) : Host.Outcome State Fault Refusal :=
  .next <|
    if (s.port b).presence then
      match (s.port b).state with
      | .empty => setPresence s b false
      | .seating => setBayState (stopDebounce (setPresence s b false) b) b .empty
      | .identifying => beginRemoval (setPresence s b false) b
      | .ready => beginRemoval (setPresence s b false) b
      | .faulted => beginRemoval (setPresence s b false) b
      | .resetting => beginRemoval (setPresence s b false) b
    else s

/-- A removal's debounce time has passed: with presence still absent the drive is removed (R132). -/
def endRemoval (s : State) (b : BayId) : State := if (s.port b).presence then s else removeDrive s b

/-- DEBOUNCE_EXPIRY (R131, R132): in SEATING with presence still asserted the insertion is complete; in an occupied bay
with presence still absent the drive is removed. -/
def execDebounceExpiry (b : BayId) (s : State) : Host.Outcome State Fault Refusal :=
  .next <|
    if (s.port b).debounce.isSome then
      match (s.port b).state with
      | .empty => s
      | .seating => if (s.port b).presence then completeInsertion s b else s
      | .identifying => endRemoval s b
      | .ready => endRemoval s b
      | .faulted => endRemoval s b
      | .resetting => endRemoval s b
    else s

/-! ### Faults and resets -/

/-- DEVICE_FAULT_INDICATION (R139): taken in IDENTIFYING and READY, ignored in the other bay states. -/
def execDeviceFaultIndication (b : BayId) (s : State) : Host.Outcome State Fault Refusal :=
  .next <|
    match (s.port b).state with
    | .empty => s
    | .seating => s
    | .identifying => selectiveReset s b .deviceFault
    | .ready => selectiveReset s b .deviceFault
    | .faulted => s
    | .resetting => s

/-- The end of a selective reset: the identify procedure goes on, or with its attempts spent the bay is FAULTED
(R140). -/
def endReset (s : State) (b : BayId) : State :=
  let s := s.modPort b fun p => { p with resetTimer := none }
  if (s.port b).attempts < Config.identifyAttempts then issueIdentify (setBayState s b .identifying) b
  else enterFaulted s b .noResponse none

/-- RESET_TIMER_EXPIRY (R140). -/
def execResetTimerExpiry (b : BayId) (s : State) : Host.Outcome State Fault Refusal :=
  .next (if (s.port b).state = .resetting ∧ (s.port b).resetTimer.isSome = true then endReset s b else s)

/-! ### The indicator's cycle -/

/-- The next phase of a blinking pattern; OFF and ON have one phase alone (R142). -/
def nextPhase (p : BayPort) : BayPort := { p with phase := (p.phase + 1) % p.shown.cycle.length }

/-- INDICATOR_PHASE (R142). -/
def execIndicatorPhase (b : BayId) (s : State) : Host.Outcome State Fault Refusal := .next (s.modPort b nextPhase)

end Sys2Proof.Machine
end

