-- ==== Sys2Proof/Machine/DriveEvents.lean ====
section
/-! DEFINITION. The meanings of what a drive answers and of the request timers: REQUEST_COMPLETION, ABORT_CONFIRMATION,
ABORT_REFUSAL, T1_EXPIRY, T2_EXPIRY, DRIVE_DATA_IN, DRIVE_DATA_OUT. An arrival that matches no record is discarded
(R109), and a timer that does not run does not expire (log 1). -/

namespace Sys2Proof.Machine

/-! ### Completions, aborts and timers -/

/-- REQUEST_COMPLETION (R108, R109, R112). -/
def execRequestCompletion (b : BayId) (id : Nat) (status : CompletionStatus) (d : DriveIdentity) (s : State) :
    Host.Outcome State Fault Refusal :=
  .next <|
    match findRecord s b id with
    | some r => takeCompletion s b r status d
    | none => s

/-- ABORT_CONFIRMATION (R109, R113). An ISSUED record has no abort to confirm (log 1). -/
def execAbortConfirmation (b : BayId) (id : Nat) (s : State) : Host.Outcome State Fault Refusal :=
  .next <|
    match findRecord s b id with
    | some r => if r.status = .aborting then takeConfirmation s b r else s
    | none => s

/-- ABORT_REFUSAL (R109, R113): the record stays ABORTING with its T2 running, and a refusal that matches no record is
discarded. -/
def execAbortRefusal (_b : BayId) (_id : Nat) (s : State) : Host.Outcome State Fault Refusal := .next s

/-- T1_EXPIRY (R110). -/
def execT1Expiry (b : BayId) (id : Nat) (s : State) : Host.Outcome State Fault Refusal :=
  .next <|
    match findRecord s b id with
    | some r => if r.status = .issued then expireT1 s b r else s
    | none => s

/-- T2_EXPIRY (R114). -/
def execT2Expiry (b : BayId) (id : Nat) (s : State) : Host.Outcome State Fault Refusal :=
  .next <|
    match findRecord s b id with
    | some r => if r.status = .aborting then selectiveReset s b .t2Expiry else s
    | none => s

/-! ### Data from the drive -/

/-- Bytes cut into pieces that a data frame can carry (R155; log 18). The first argument bounds the pieces. -/
def dataPieces : Nat → List Byte → List (List Byte)
  | 0, _ => []
  | n + 1, bs =>
    if bs.isEmpty then []
    else bs.take Config.dataFrameLimit :: dataPieces n (bs.drop Config.dataFrameLimit)

/-- Data goes up the link in data frames that bear the command's tag (R155). -/
def sendData (b : BayId) (t : Tag) (bs : List Byte) (s : State) : State :=
  (dataPieces bs.length bs).foldl (fun s piece => send s (.data b t piece)) s

/-- Bytes that the drive returns pass through a passthrough slot; the count rises where the slot's direction is toward
the server (R128; log 17). -/
def passIn (n : Nat) (x : Slot) : Slot :=
  match x.direction with
  | .towardServer => { x with moved := x.moved + n }
  | .towardDrive => x

/-- Data for a record that holds a slot: an engine read's is compared, a passthrough command's is sent on to the
server but for a substitute and for a result not wanted (R75, R119, R120, R128, R152, R155). -/
def takeDataIn (s : State) (b : BayId) (r : Record) (k : SlotId) (bs : List Byte) : State :=
  match r.link with
  | .entry => if (s.slot k).mode = .compare then s.modSlot k fun x => compareBytes x bs else s
  | .port => s
  | .command c substitute =>
    let s := s.modSlot k (passIn bs.length)
    if r.wanted && !substitute then sendData b c.tag bs s else s

/-- DRIVE_DATA_IN (R120). Data for a request with no record is discarded (R109), and so is data for a request that
holds no slot (R103). -/
def execDriveDataIn (b : BayId) (id : Nat) (bs : List Byte) (s : State) : Host.Outcome State Fault Refusal :=
  .next <|
    match findRecord s b id with
    | some r =>
      match r.slot with
      | some k => takeDataIn s b r k bs
      | none => s
    | none => s

/-! ### Data to the drive -/

/-- The drive takes up to `n` bytes of the payload that a passthrough slot holds (R128, R155). -/
def passOut (n : Nat) (x : Slot) : List Byte × Slot :=
  let bs := x.staged.take n
  (bs, { x with staged := x.staged.drop n, moved := x.moved + bs.length })

/-- The bytes a slot gives to the drive, and the slot after them (R74, R120). -/
def slotOutput (r : Record) (n : Nat) (x : Slot) : List Byte × Slot :=
  match r.link with
  | .entry => if x.mode = .generate then generateBytes n x else ([], x)
  | .port => ([], x)
  | .command _ _ => passOut n x

/-- Data goes from a slot to the drive. -/
def takeDataOut (s : State) (b : BayId) (r : Record) (k : SlotId) (n : Nat) : State :=
  let out := slotOutput r n (s.slot k)
  (s.putSlot k out.2).signal (.data b r.id out.1)

/-- DRIVE_DATA_OUT (R120). -/
def execDriveDataOut (b : BayId) (id : Nat) (count : Nat) (s : State) : Host.Outcome State Fault Refusal :=
  .next <|
    match findRecord s b id with
    | some r =>
      match r.slot with
      | some k => takeDataOut s b r k count
      | none => s
    | none => s

end Sys2Proof.Machine
end

