-- ==== Sys2Proof/Machine/EngineEvents.lean ====
section
/-! DEFINITION. The meanings of the bridge's own steps: EXTENT_SCAN_WORD, ENGINE_GRANT, NATIVE_ERASE_ISSUE,
PASSTHROUGH_GRANT, HOLD_EXPIRY, BUILD_COMPLETE, CLOCK_SECOND. A step that has nothing to act on has no effect
(log 1). -/

namespace Sys2Proof.Machine

/-! ### Preparation and grants -/

/-- EXTENT_SCAN_WORD (R59, R64): the scan of the job that prepares on the bay takes its next word. -/
def execExtentScanWord (b : BayId) (s : State) : Host.Outcome State Fault Refusal :=
  .next <|
    match activeJob s b with
    | some j =>
      match (s.job j).state, (s.job j).geometry with
      | .preparing (.scanning next previousEnd), some g => scanStep s j next previousEnd g
      | _, _ => s
    | none => s

/-- ENGINE_GRANT (R124). -/
def execEngineGrant (s : State) : Host.Outcome State Fault Refusal := .next (grantEngine s)

/-- NATIVE_ERASE_ISSUE (R49, R51). -/
def execNativeEraseIssue (b : BayId) (s : State) : Host.Outcome State Fault Refusal := .next (nativeEraseStep s b)

/-- PASSTHROUGH_GRANT (R126, R154). -/
def execPassthroughGrant (s : State) : Host.Outcome State Fault Refusal :=
  .next <|
    match firstFree s passthroughSlots with
    | some k => grantPassthrough k s.wait s
    | none => s

/-! ### The hold time -/

/-- The hold time of a waiting command has passed since it first entered the hold queue (R157, R159; log 6). -/
def markPast (t : Tag) (c : PassCommand) : PassCommand :=
  if c.tag = t ∧ c.holdTime.isSome = true then { c with holdPast := true } else c

/-- HOLD_EXPIRY (R159): a read still in the hold queue is answered HOLD_EXPIRED and leaves it. -/
def execHoldExpiry (t : Tag) (s : State) : Host.Outcome State Fault Refusal :=
  .next <|
    match s.hold.find? fun c => decide (c.tag = t) with
    | some c => answer (s.putHold (withoutTag t s.hold)) c .holdExpired
    | none => s.putWait (s.wait.map (markPast t))

/-! ### Certificates and the clock -/

/-- BUILD_COMPLETE (R167). -/
def execBuildComplete (j : JobId) (s : State) : Host.Outcome State Fault Refusal :=
  .next (if isBuilding s j then completeBuild s j else s)

/-- CLOCK_SECOND (R173): the clock rises by 1 and wraps to 0. -/
def execClockSecond (s : State) : Host.Outcome State Fault Refusal := .next (s.putClock (s.clock + 1))

end Sys2Proof.Machine
end

