-- ==== Sys2Proof/Machine/JobCommands.lean ====
section
/-! DEFINITION. The meanings of the management commands that act on a job: LOAD_JOB, START, TRIGGER, CANCEL_TRIGGER,
PAUSE, RESUME, CANCEL, RELEASE. -/

namespace Sys2Proof.Machine

/-- Carries out a command on the job slot it names; a slot number of 24 or more is refused with BAD_SLOT (R1). -/
def onSlot (slot : Nat) (c : ManagementCommand) (s : State) (effect : JobId → State) : State :=
  match jobOf slot with
  | some j => effect j
  | none => refuse s c .badSlot

/-! ### LOAD_JOB -/

/-- The loaded fields of a job record: every runtime field at its load value (R2, R3). -/
def loadedJob (image : JobImage) (b : BayId) (p : ProgramId) : Job :=
  { Job.free with
    state := .loaded, bay := b, key := image.key, program := p, extentFirst := image.extentFirst,
    extentCount := image.extentCount, stripeRequest := image.stripeRequest, tolerance := image.tolerance,
    label := image.label.take image.labelLength }

/-- The checks of the loaded fields, in the order of R2's table: the job they make, or the reason of the first field
that fails its check. -/
def checkJob (s : State) (image : JobImage) : Except Reason Job :=
  match bayOf image.bay with
  | none => .error .range
  | some b =>
    if image.key = 0 ∨ 15 < image.key then .error .range
    else
      match programOf image.program with
      | none => .error .range
      | some p =>
        if (s.tables.programs[p]).isNone then .error .badProgram
        else if 4095 < image.extentFirst then .error .range
        else if 4096 < image.extentCount ∨ 4096 < image.extentFirst + image.extentCount then .error .range
        else if image.stripeRequest = 0 ∨ 65535 < image.stripeRequest then .error .range
        else if 1024 < image.tolerance then .error .range
        else if 16 < image.labelLength then .error .range
        else .ok (loadedJob image b p)

/-- LOAD_JOB (R2). -/
def execLoadJob (image : JobImage) (s : State) : Host.Outcome State Fault Refusal :=
  .next (takeManagement (.loadJob image) s fun c s =>
    onSlot image.slot c s fun j =>
      if (s.job j).state = .free ∨ (s.job j).state = .loaded then
        match checkJob s image with
        | .ok x => changeJob (accept s c) j x
        | .error r => refuse s c r
      else refuse s c .state)

/-! ### START -/

/-- The effect of an accepted START: the last start error is cleared and the job enters PREPARING, or WAITING(BAY)
where its bay is not READY (R5). -/
def startJob (s : State) (j : JobId) : State :=
  let s := s.modJob j fun x => { x with startError := none }
  if bayReady s (s.job j).bay then enterPreparing s j else setState s j .waitingBay

/-- START (R5). -/
def execStart (slot : Nat) (s : State) : Host.Outcome State Fault Refusal :=
  .next (takeManagement (.start slot) s fun c s =>
    onSlot slot c s fun j =>
      if (s.job j).state ≠ .loaded then refuse s c .state
      else if bayActive s (s.job j).bay then reply s c .busy .nothing
      else startJob (accept s c) j)

/-! ### TRIGGER and CANCEL_TRIGGER -/

/-- The states in which a job's latch can be set or cleared (R12, R13). -/
def JobState.latching : JobState → Bool
  | .running => true
  | .draining _ => true
  | .paused => true
  | .halted => true
  | .free => false
  | .loaded => false
  | .waitingBay => false
  | .waitingTrigger => false
  | .preparing _ => false
  | .finishing => false
  | .closed => false

/-- TRIGGER (R12). -/
def execTrigger (slot : Nat) (s : State) : Host.Outcome State Fault Refusal :=
  .next (takeManagement (.trigger slot) s fun c s =>
    onSlot slot c s fun j =>
      if (s.job j).state = .waitingTrigger then useTrigger (setState (accept s c) j .running) j
      else if (s.job j).state.latching then
        if (s.job j).latch then reply s c .busy .nothing
        else accept (s.modJob j fun x => { x with latch := true }) c
      else refuse s c .state)

/-- CANCEL_TRIGGER (R13). -/
def execCancelTrigger (slot : Nat) (s : State) : Host.Outcome State Fault Refusal :=
  .next (takeManagement (.cancelTrigger slot) s fun c s =>
    onSlot slot c s fun j =>
      if (s.job j).state.latching then
        if (s.job j).latch then accept (clearLatch s j) c else refuse s c .nothingLatched
      else refuse s c .state)

/-! ### PAUSE and RESUME -/

/-- PAUSE (R15). A WAITING(TRIGGER) job has its resume cursor recorded (R47). -/
def execPause (slot : Nat) (s : State) : Host.Outcome State Fault Refusal :=
  .next (takeManagement (.pause slot) s fun c s =>
    onSlot slot c s fun j =>
      match (s.job j).state with
      | .running => enterDraining (accept s c) j .paused
      | .waitingTrigger => setState (recordResume (accept s c) j) j .paused
      | _ => refuse s c .state)

/-- The effect of an accepted RESUME (R19, R48). -/
def resumeJob (s : State) (j : JobId) : State :=
  let s := s.modJob j fun x => { x with haltReason := none }
  let x := s.job j
  if x.unitActive then takeResume (setState s j .running) x.bay
  else if x.latch then useTrigger (takeResume (setState (clearLatch s j) j .running) x.bay) j
  else setState s j .waitingTrigger

/-- The two checks of RESUME, in their order (R19). -/
def resumeCheck (s : State) (x : Job) : Option Reason :=
  if bayReady s x.bay = false then some .bayNotReady
  else
    match (s.port x.bay).identity, x.identity with
    | some d, some r => if sameDrive d r then none else some .foreignDrive
    | _, _ => some .foreignDrive

/-- RESUME (R19). -/
def execResume (slot : Nat) (s : State) : Host.Outcome State Fault Refusal :=
  .next (takeManagement (.resume slot) s fun c s =>
    onSlot slot c s fun j =>
      if (s.job j).state = .paused ∨ (s.job j).state = .halted then
        match resumeCheck s (s.job j) with
        | some r => refuse s c r
        | none => resumeJob (accept s c) j
      else refuse s c .state)

/-! ### CANCEL and RELEASE -/

/-- A job becomes FREE. -/
def freeJob (s : State) (j : JobId) : State := changeJob s j Job.free

/-- CANCEL (R9, R17, R20). -/
def execCancel (slot : Nat) (s : State) : Host.Outcome State Fault Refusal :=
  .next (takeManagement (.cancel slot) s fun c s =>
    onSlot slot c s fun j =>
      match (s.job j).state with
      | .loaded => freeJob (accept s c) j
      | .waitingBay => freeJob (accept s c) j
      | .preparing .draining => freeJob (accept s c) j
      | .preparing (.scanning _ _) => freeJob (clearMap (accept s c) (s.job j).bay) j
      | .running => enterDraining (accept s c) j (.finishing .cancelled)
      | .draining .paused => enterDraining (accept s c) j (.finishing .cancelled)
      | .draining (.halted _) => enterDraining (accept s c) j (.finishing .cancelled)
      | .draining (.finishing _) => refuse s c .state
      | .waitingTrigger => enterFinishing (accept s c) j .cancelled
      | .paused => enterFinishing (accept s c) j .cancelled
      | .halted => enterFinishing (accept s c) j .cancelled
      | .free => refuse s c .state
      | .finishing => refuse s c .state
      | .closed => refuse s c .state)

/-- RELEASE (R24). -/
def execRelease (slot : Nat) (s : State) : Host.Outcome State Fault Refusal :=
  .next (takeManagement (.release slot) s fun c s =>
    onSlot slot c s fun j => if (s.job j).state = .closed then freeJob (accept s c) j else refuse s c .state)

end Sys2Proof.Machine
end

