-- ==== Sys2Proof/Machine/LinkCommands.lean ====
section
/-! DEFINITION. The meanings of the resets, the link and the frames: COLD_RESET, UPSTREAM_LINK_RESET, LINK_UP,
COMMAND_FRAME, INVALID_FRAME, DATA_FRAME. -/

namespace Sys2Proof.Machine

/-- COLD_RESET (R179). -/
def execColdReset (s : State) : Host.Outcome State Fault Refusal := .next (coldReset s)

/-- UPSTREAM_LINK_RESET (R178). -/
def execUpstreamLinkReset (s : State) : Host.Outcome State Fault Refusal := .next (linkReset s)

/-- LINK_UP (R177). A link that is UP already does not come up (log 27). -/
def execLinkUp (s : State) : Host.Outcome State Fault Refusal :=
  .next (if s.link = .down then bringUp s else s)

/-- The passthrough command a command frame carries, numbered by its arrival (R147, R157). -/
def arrivingCommand (s : State) (f : CommandFrame) (b : BayId) : PassCommand :=
  { tag := f.tag, bay := b, key := f.header.key, opcode := f.header.opcode, lba := f.header.lba,
    count := f.header.count, payload := f.header.payloadLength, arrival := s.stamp, holdTime := none,
    holdPast := false }

/-- A passthrough command is judged at its arrival and carried out (R147). -/
def takePassthrough (s : State) (f : CommandFrame) (b : BayId) : State :=
  let c := arrivingCommand s f b
  carryOut s.bumpStamp c (judgeArrival s c)

/-- A management command joins the management queue, or is answered BUSY where it holds 8 (R171). -/
def queueManagement (s : State) (f : CommandFrame) : State :=
  let c : ManagementCommand := { tag := f.tag, code := f.header.opcode, payload := f.payload }
  if s.management.length < Config.managementQueueCapacity then s.putManagement (s.management ++ [c])
  else reply s c .busy .nothing

/-- A command frame whose tag is FREE takes it and is routed by its target (R146). -/
def routeFrame (s : State) (f : CommandFrame) : State :=
  let s := s.putTag f.tag true
  match bayOf f.target with
  | some b => takePassthrough s f b
  | none =>
    if f.target = managementTarget then queueManagement s f
    else respond s f.target f.tag f.header.opcode .absent false

/-- A command frame is taken: a tag in use is answered TAG_IN_USE and the frame discarded (R146). -/
def takeFrame (s : State) (f : CommandFrame) : State :=
  if s.tagInUse f.tag then send s (.response f.target f.tag f.header.opcode .tagInUse false) else routeFrame s f

/-- COMMAND_FRAME (R146). While the link is DOWN no frame arrives (R178); a malformed frame is discarded without a
response, and its tag is not taken (R180). -/
def execCommandFrame (bytes : List Byte) (s : State) : Host.Outcome State Fault Refusal :=
  .next <|
    match commandFrameOf bytes with
    | some f => if s.link = .up then takeFrame s f else s
    | none => s

/-- INVALID_FRAME (R180): the frame is discarded without a response and without taking its tag. -/
def execInvalidFrame (_bytes : List Byte) (s : State) : Host.Outcome State Fault Refusal := .next s

/-- A record is an issued command bearing this tag whose payload the server has been asked for (R155). -/
def awaitsPayload (t : Tag) (r : Record) : Bool :=
  match r.link with
  | .command c _ => decide (c.tag = t) && r.wanted && decide (0 < r.request.payloadUnits)
  | .entry => false
  | .port => false

/-- The record that asked for payload on a tag, in any bay's queue. -/
def payloadRecord (s : State) (t : Tag) : Option Record :=
  allBays.findSome? fun b => (s.port b).queue.find? (awaitsPayload t)

/-- Payload bytes go into a slot; bytes beyond the announced number are discarded (R155). -/
def stagePayload (units : Nat) (payload : List Byte) (x : Slot) : Slot :=
  { x with staged := x.staged ++ payload.take (units * Config.payloadUnit - (x.moved + x.staged.length)) }

/-- DATA_FRAME (R155): its payload goes to the slot of the command that asked for it on its tag, or is discarded. -/
def execDataFrame (bytes : List Byte) (s : State) : Host.Outcome State Fault Refusal :=
  .next <|
    match dataFrameOf bytes with
    | none => s
    | some f =>
      if s.link = .up then
        match payloadRecord s f.tag with
        | some r =>
          match r.slot with
          | some k => s.modSlot k (stagePayload r.request.payloadUnits f.payload)
          | none => s
        | none => s
      else s

end Sys2Proof.Machine
end

