-- ==== Sys2Proof/Machine/ReadCommands.lean ====
section
/-! DEFINITION. The meanings of the management commands that read: IDENTIFY_BRIDGE, READ_JOB_STATUS, READ_BAY_STATUS,
READ_COVERAGE, READ_CERTIFICATE. -/

namespace Sys2Proof.Machine

/-! ### The bridge and its jobs -/

/-- The fixed figures and the live values of the bridge (R173). -/
def bridgeReport (s : State) : BridgeReport :=
  { family := Config.familyText, revision := Config.revision, bays := Config.bayCount, jobSlots := Config.jobSlots,
    programs := Config.programCount, extentWords := Config.extentWords, certificates := Config.certificateCapacity,
    clock := s.clock, runCounter := s.runCounter, stored := s.store.length }

/-- IDENTIFY_BRIDGE (R173). -/
def execIdentifyBridge (s : State) : Host.Outcome State Fault Refusal :=
  .next (takeManagement .identifyBridge s fun c s => reply s c .accepted (.bridge (bridgeReport s)))

/-- The status of a slot: of a FREE slot the state alone, else the record and its bay's in-flight count (R26). -/
def jobReport (s : State) (j : JobId) : JobReport :=
  let x := s.job j
  if x.state = .free then { state := .free, record := none, inFlight := none }
  else { state := x.state, record := some x, inFlight := some (s.list x.bay).length }

/-- READ_JOB_STATUS (R26). -/
def execReadJobStatus (slot : Nat) (s : State) : Host.Outcome State Fault Refusal :=
  .next (takeManagement (.readJobStatus slot) s fun c s =>
    match jobOf slot with
    | some j => reply s c .accepted (.jobStatus (jobReport s j))
    | none => refuse s c .badSlot)

/-! ### Bays -/

/-- The queue counts and the stall of a bay (R111). -/
def queueReport (s : State) (b : BayId) : QueueReport :=
  { engineRecords := (recordsOf s b .engine).length
    passthroughRecords := (recordsOf s b .passthrough).length
    abortingRecords := ((s.port b).queue.filter fun r => decide (r.status = .aborting)).length
    stalled := stalled s b }

/-- A slot's owner is of this bay, for the engine or for passthrough (R121). -/
def SlotOwner.isOf (b : BayId) (o : Origin) : SlotOwner → Bool
  | .free => false
  | .engine bay _ => decide (bay = b) && decide (o = .engine)
  | .passthrough bay _ _ => decide (bay = b) && decide (o = .passthrough)

/-- The number of slots among those listed that a bay owns (R129). -/
def slotsOwned (s : State) (b : BayId) (o : Origin) (ks : List SlotId) : Nat :=
  (ks.filter fun k => (s.slot k).owner.isOf b o).length

/-- The number of FREE slots among those listed (R129). -/
def slotsFree (s : State) (ks : List SlotId) : Nat := (ks.filter (slotFree s)).length

/-- The debounced presence: the bay is in a state other than EMPTY and SEATING (R145). -/
def BayState.occupied : BayState → Bool
  | .empty => false
  | .seating => false
  | .identifying => true
  | .ready => true
  | .faulted => true
  | .resetting => true

/-- The status of a bay (R145), with the queue counts of R111 and the slot figures of R129 for each bay (log 29). -/
def bayReport (s : State) (b : BayId) : BayReport :=
  let p := s.port b
  { state := p.state, fault := p.fault, rejected := p.rejected, present := p.state.occupied,
    debouncing := p.debounce.isSome, identity := p.identity, attempts := p.attempts, lastReset := p.lastReset,
    parameters := s.parameters b, debounceTime := s.tables.debounceTime, shown := p.shown,
    overridden := p.override.isSome, queues := allBays.map (queueReport s),
    freeEngineSlots := slotsFree s engineSlots, freePassthroughSlots := slotsFree s passthroughSlots,
    grantPointer := s.grantPointer,
    ownedSlots := allBays.map fun i =>
      (slotsOwned s i .engine engineSlots, slotsOwned s i .passthrough passthroughSlots) }

/-- READ_BAY_STATUS (R145). -/
def execReadBayStatus (bay : Nat) (s : State) : Host.Outcome State Fault Refusal :=
  .next (takeManagement (.readBayStatus bay) s fun c s =>
    match bayOf bay with
    | some b => reply s c .accepted (.bayStatus (bayReport s b))
    | none => refuse s c .range)

/-! ### Coverage maps and certificates -/

/-- The header of a map and the entries from `first` on, at most `count` and none at or above Zn (R101). -/
def coverageReport (s : State) (b : BayId) (first count : Nat) : CoverageReport :=
  let m := s.map b
  { bay := b, owner := m.owner, run := m.run, z := m.z, zn := m.zn, entries := (m.entries.drop first).take count }

/-- READ_COVERAGE (R101). -/
def execReadCoverage (bay first count : Nat) (s : State) : Host.Outcome State Fault Refusal :=
  .next (takeManagement (.readCoverage bay first count) s fun c s =>
    match bayOf bay with
    | none => refuse s c .range
    | some b =>
      if 1023 < first ∨ count = 0 ∨ 64 < count then refuse s c .range
      else reply s c .accepted (.coverage (coverageReport s b first count)))

/-- The record a READ_CERTIFICATE selects: OLDEST for 0, the one that bears the run number for 1 (R169). -/
def selectedRecord (store : List CertificateRecord) (selector : Nat) (run : Word) : Option CertificateRecord :=
  match selector with
  | 0 => lowestRun store
  | 1 => store.find? fun r => decide (r.run = run)
  | _ => none

/-- READ_CERTIFICATE (R169). -/
def execReadCertificate (selector : Nat) (run : Word) (s : State) : Host.Outcome State Fault Refusal :=
  .next (takeManagement (.readCertificate selector run) s fun c s =>
    match selectedRecord s.store selector run with
    | some r => reply s c .accepted (.certificate s.store.length (waitingRecords s).length r)
    | none => refuse s c .range)

end Sys2Proof.Machine
end

