-- ==== Sys2Proof/Machine/TableCommands.lean ====
section
/-! DEFINITION. The meanings of the management commands that load tables and settings: SET_CLOCK, LOAD_CLASS_MAP,
LOAD_POLICY, ASSIGN_PROFILE, LOAD_PROGRAM, LOAD_EXTENTS, SET_NOTICE_ROUTING, SET_BAY_PARAMETERS, UNKNOWN_COMMAND. -/

namespace Sys2Proof.Machine

/-! ### The clock -/

/-- SET_CLOCK (R173). -/
def execSetClock (value : Word) (s : State) : Host.Outcome State Fault Refusal :=
  .next (takeManagement (.setClock value) s fun c s => accept (s.putClock value) c)

/-! ### The class map and the policy -/

/-- The classes a list of numbers names, or nothing where one names none (R149). -/
def classesOf : List Nat → Option (List OpClass)
  | [] => some []
  | n :: ns =>
    match classOf n, classesOf ns with
    | some c, some cs => some (c :: cs)
    | _, _ => none

/-- Writes class map entries from an opcode on (R149). -/
def writeClasses : Vector OpClass 256 → Nat → List OpClass → Vector OpClass 256
  | v, _, [] => v
  | v, i, c :: cs => writeClasses (if h : i < 256 then put v ⟨i, h⟩ c else v) (i + 1) cs

/-- LOAD_CLASS_MAP (R149). -/
def execLoadClassMap (first count : Nat) (classes : List Nat) (s : State) : Host.Outcome State Fault Refusal :=
  .next (takeManagement (.loadClassMap first count classes) s fun c s =>
    if 255 < first ∨ count = 0 ∨ 256 < first + count then refuse s c .range
    else
      match classesOf classes with
      | none => refuse s c .range
      | some cs => accept (s.putTables { s.tables with classMap := writeClasses s.tables.classMap first cs }) c)

/-- The actions a list of entries names, or nothing where one names none (R151). -/
def actionsOf : List ActionImage → Option (List Action)
  | [] => some []
  | a :: as =>
    match actionOf a, actionsOf as with
    | some x, some xs => some (x :: xs)
    | _, _ => none

/-- The clamp of one policy entry: the first of R151's three clamps that applies to it. -/
def clampAction (cls : OpClass) (active : Bool) (a : Action) : Action :=
  match a with
  | .fence => if cls ≠ .read then .refuse else if active then .fence else .pass
  | .pass => if active && cls.writeClass then .refuse else .pass
  | .substitute c => if active && cls.writeClass then .refuse else .substitute c
  | .refuse => .refuse

/-- The entry sent for a class under a condition: for each class in turn the IDLE action, then the ACTIVE one
(R181). -/
def sentAction (actions : List Action) (cls : OpClass) (active : Bool) : Action :=
  actions.getD (2 * cls.number.val + if active then 1 else 0) .refuse

/-- One column of a profile after the clamps (R151). -/
def storedColumn (actions : List Action) (active : Bool) : Vector Action 12 :=
  allClasses.foldl (fun v cls => put v cls.number (clampAction cls active (sentAction actions cls active)))
    (Vector.replicate 12 .refuse)

/-- The note of one entry, where it was clamped (R151). -/
def clampNoteOf (actions : List Action) (cls : OpClass) (active : Bool) : List ClampedAction :=
  let sent := sentAction actions cls active
  let stored := clampAction cls active sent
  if stored = sent then [] else [{ cls := cls, active := active, action := stored }]

/-- The clamp note: every clamped entry by class and condition, with the action it was given (R151). DESIGN CHOICE: in
the order of the class numbers, IDLE before ACTIVE (log 37). -/
def clampedActions (actions : List Action) : List ClampedAction :=
  allClasses.flatMap fun cls => clampNoteOf actions cls false ++ clampNoteOf actions cls true

/-- The profile LOAD POLICY stores (R151). -/
def storedProfile (image : PolicyImage) (actions : List Action) : Profile :=
  { idle := storedColumn actions false, active := storedColumn actions true, identifyOpcode := image.identifyOpcode,
    healthOpcode := image.healthOpcode, flushOpcode := image.flushOpcode }

/-- The reply data of a list of clamped entries: nothing where none was clamped (R151). -/
def clampedActionsNote (es : List ClampedAction) : ReplyData := if es.isEmpty then .nothing else .clampedActions es

/-- LOAD_POLICY (R151). -/
def execLoadPolicy (image : PolicyImage) (s : State) : Host.Outcome State Fault Refusal :=
  .next (takeManagement (.loadPolicy image) s fun c s =>
    match profileOf image.profile, actionsOf image.actions with
    | some p, some actions =>
      let s := s.putTables { s.tables with profiles := put s.tables.profiles p (storedProfile image actions) }
      reply s c .accepted (clampedActionsNote (clampedActions actions))
    | _, _ => refuse s c .range)

/-- ASSIGN_PROFILE (R150). -/
def execAssignProfile (bay profile : Nat) (s : State) : Host.Outcome State Fault Refusal :=
  .next (takeManagement (.assignProfile bay profile) s fun c s =>
    match bayOf bay, profileOf profile with
    | some b, some p => accept (s.putTables { s.tables with assignment := put s.tables.assignment b p }) c
    | _, _ => refuse s c .range)

/-! ### Programs and extents -/

/-- Some active job refers to the program (R29). -/
def programInUse (s : State) (p : ProgramId) : Bool :=
  allJobs.any fun j => (s.job j).state.active && decide ((s.job j).program = p)

/-- The reply data of the clamped passes of a program: nothing where none was clamped (R29). -/
def clampedPassesNote (ps : List Nat) : ReplyData := if ps.isEmpty then .nothing else .clampedPasses ps

/-- LOAD_PROGRAM (R29). -/
def execLoadProgram (program count : Nat) (passes : List PassImage) (s : State) :
    Host.Outcome State Fault Refusal :=
  .next (takeManagement (.loadProgram program count passes) s fun c s =>
    match programOf program with
    | none => refuse s c .range
    | some p =>
      if programInUse s p then refuse s c .inUse
      else if programWellFormed passes = false then refuse s c .badProgram
      else
        let s := s.putTables { s.tables with programs := put s.tables.programs p (some (passes.map storedPass)) }
        reply s c .accepted (clampedPassesNote (clampedPasses passes)))

/-- Some word from an index on, `count` words long, is in use: an active job with an extent count of at least 1 names
it (R54). -/
def extentsInUse (s : State) (first count : Nat) : Bool :=
  allJobs.any fun j =>
    let x := s.job j
    x.state.active &&
      decide (0 < x.extentCount ∧ x.extentFirst < first + count ∧ first < x.extentFirst + x.extentCount)

/-- LOAD_EXTENTS (R53). -/
def execLoadExtents (first count : Nat) (words : List ExtentWord) (s : State) :
    Host.Outcome State Fault Refusal :=
  .next (takeManagement (.loadExtents first count words) s fun c s =>
    if 4095 < first ∨ count = 0 ∨ 256 < count ∨ 4096 < first + count then refuse s c .range
    else if extentsInUse s first count then refuse s c .inUse
    else accept (s.putTables { s.tables with extents := writeExtents s.tables.extents first words }) c)

/-! ### Notices and parameters -/

/-- The channels a list of numbers names, or nothing where one is above 7 (R176). -/
def channelsOf : List Nat → Option (List (Fin 8))
  | [] => some []
  | n :: ns =>
    match channelOf n, channelsOf ns with
    | some c, some cs => some (c :: cs)
    | _, _ => none

/-- Writes the routing table from a kind's number on (R176). -/
def writeRouting : Vector (Fin 8) 10 → Nat → List (Fin 8) → Vector (Fin 8) 10
  | v, _, [] => v
  | v, i, c :: cs => writeRouting (if h : i < 10 then put v ⟨i, h⟩ c else v) (i + 1) cs

/-- SET_NOTICE_ROUTING (R176). -/
def execSetNoticeRouting (channels : List Nat) (s : State) : Host.Outcome State Fault Refusal :=
  .next (takeManagement (.setNoticeRouting channels) s fun c s =>
    match channelsOf channels with
    | some cs => accept (s.putTables { s.tables with routing := writeRouting s.tables.routing 0 cs }) c
    | none => refuse s c .range)

/-- The tables with the parameters of the named bays and the bridge's debounce time written (R174). -/
def writeParameters (t : Tables) (bays : List BayId) (p : ParameterImage) : Tables :=
  let x : BayParameters := { depth := p.depth, dataT1 := p.dataT1, nativeT1 := p.nativeT1, t2 := p.t2 }
  { t with parameters := bays.foldl (fun v b => put v b x) t.parameters, debounceTime := p.debounce }

/-- SET_BAY_PARAMETERS (R174). -/
def execSetBayParameters (image : ParameterImage) (s : State) : Host.Outcome State Fault Refusal :=
  .next (takeManagement (.setBayParameters image) s fun c s =>
    match namedBays image.bay with
    | none => refuse s c .range
    | some bays =>
      if parametersInRange image then accept (s.putTables (writeParameters s.tables bays image)) c
      else refuse s c .range)

/-- UNKNOWN_COMMAND (R172): a code the management target does not recognise, or a payload of a wrong length. -/
def execUnknownCommand (code : Byte) (payload : List Byte) (s : State) : Host.Outcome State Fault Refusal :=
  .next (takeManagement (.unknownCommand code payload) s fun c s => refuse s c .range)

end Sys2Proof.Machine
end

