-- ==== Sys2Proof/Machine/Wire.lean ====
section
/-! DEFINITION. The bytes of the frames the bridge sends: headers, codes, and the layouts of R180 to R182. Where the
spec states contents but no bytes, the bytes are free values of Config (log 3). -/

namespace Sys2Proof.Machine

/-! ### Codes -/

/-- The status byte of a passthrough response (R180). -/
def ResponseStatus.code : ResponseStatus → Nat
  | .good => 0x00
  | .mediaError => 0x01
  | .deviceError => 0x02
  | .addressError => 0x03
  | .aborted => 0x04
  | .driveTimeout => 0x10
  | .bayAbsent => 0x11
  | .bayReset => 0x12
  | .key => 0x13
  | .policy => 0x14
  | .address => 0x15
  | .exposed => 0x16
  | .busy => 0x17
  | .holdExpired => 0x18
  | .tagInUse => 0x19
  | .absent => 0x1A

/-- The status byte of a management reply (R180). -/
def Disposition.code : Disposition → Nat
  | .accepted => 0x00
  | .busy => 0x17
  | .absent => 0x1A
  | .refused _ => 0x20

/-- The reason codes (R180). -/
def Reason.code : Reason → Nat
  | .badSlot => 1
  | .badProgram => 2
  | .range => 3
  | .state => 4
  | .inUse => 5
  | .bayNotReady => 6
  | .foreignDrive => 7
  | .nothingLatched => 8

/-- The codes of the start errors (R180). -/
def StartError.code : StartError → Nat
  | .noNativeErase => 9
  | .programConflict => 10
  | .extentCheck _ _ => 11

/-- The code of a pass kind (R182). -/
def PassKind.code : PassKind → Nat
  | .overwrite => 0
  | .verify => 1
  | .nativeErase => 2

/-- The code of an outcome (R182). -/
def RunOutcome.code : RunOutcome → Nat
  | .certified => 0
  | .unverified => 1
  | .rejected => 2
  | .cancelled => 3

/-! ### Records -/

/-- Bytes padded with 0 at their end to a fixed size (R180). -/
def padded (n : Nat) (bs : List Byte) : List Byte := (bs ++ List.replicate n 0).take n

/-- The end-time field of a pass entry; of a pass that has none its four bytes are free values (R164, R182; log 3). -/
def passEndBytes (p : PassRecord) : List Byte :=
  match p.endTime with
  | some e => leBytes 4 e.toNat
  | none => (List.range 4).map fun i => Config.unstatedByte p (8 + i)

/-- The 12 bytes of a certificate's pass entry (R182). -/
def passRecordBytes (p : PassRecord) : List Byte :=
  leBytes 1 (p.kind.code + if p.endTime.isSome then 0x80 else 0) ++ leBytes 1 p.pattern ++ leBytes 1 p.direction ++
    leBytes 1 p.density ++ leBytes 4 p.parameter.toNat ++ passEndBytes p

/-- The flags byte of a record: 1 extent-clamped, 2 stripe-clamped (R182). -/
def clampFlags (r : CertificateRecord) : Nat :=
  (if r.extentClamped then 1 else 0) + if r.stripeClamped then 2 else 0

/-- The 192-byte layout of a certificate record (R182). -/
def certificateBytes (r : CertificateRecord) : List Byte :=
  leBytes 4 r.run.toNat ++ leBytes 1 r.slot.val ++ leBytes 1 r.bay.val ++ leBytes 1 r.outcome.code ++
    leBytes 1 r.label.length ++ padded 16 r.label ++ padded 20 r.serial ++ leBytes 6 r.capacity ++
    leBytes 2 r.sectorSize ++ leBytes 1 r.program.val ++ leBytes 1 r.passes.length ++ leBytes 2 r.extentCount ++
    leBytes 1 (clampFlags r) ++ leBytes 1 r.z ++ leBytes 2 r.sEff ++ leBytes 2 r.zn ++
    padded 14 (r.zoneCounts.flatMap (leBytes 2)) ++ leBytes 4 r.mismatched ++ leBytes 4 r.failedStripes ++
    leBytes 4 r.startTime.toNat ++ leBytes 4 (r.closeTime.getD 0).toNat ++ leBytes 4 r.digest.toNat ++
    padded 96 (r.passes.flatMap passRecordBytes)

/-- The four bytes of a coverage entry (R182). -/
def coverageEntryBytes (e : ZoneEntry) : List Byte :=
  leBytes 1 e.state.code ++ leBytes 1 (passByte e.pass) ++ leBytes 1 e.mismatch ++ leBytes 1 e.fails

/-- The run number field of a coverage header; its four bytes are free values where there is none (R182; log 3). -/
def coverageRunBytes (c : CoverageReport) : List Byte :=
  match c.run with
  | some r => leBytes 4 r.toNat
  | none => (List.range 4).map fun i => Config.unstatedByte c (4 + i)

/-- The 12-byte header and the entries of READ COVERAGE (R182). -/
def coverageBytes (c : CoverageReport) : List Byte :=
  leBytes 1 c.bay.val ++ leBytes 1 (match c.owner with | some j => j.val | none => 255) ++
    leBytes 1 (if c.run.isSome then 1 else 0) ++ leBytes 1 c.z ++ coverageRunBytes c ++ leBytes 2 c.zn ++
    leBytes 2 c.entries.length ++ c.entries.flatMap coverageEntryBytes

/-- An entry of LOAD POLICY's clamp note: the class, the condition and the action given (R180). -/
def clampedActionBytes (c : ClampedAction) : List Byte :=
  leBytes 1 c.cls.number.val ++ leBytes 1 (if c.active then 1 else 0) ++ leBytes 1 c.action.code

/-- The two-byte mask of an attention set (R180). -/
def attentionBytes (a : AttentionSet) : List Byte := leBytes 2 a.toNat

/-- The payload of a management reply. The layouts of three replies are not stated (log 3). -/
def ReplyData.bytes : ReplyData → List Byte
  | .nothing => []
  | .clampedPasses ps => ps.flatMap (leBytes 1)
  | .clampedActions es => es.flatMap clampedActionBytes
  | .bridge r => Config.reportBytes r
  | .jobStatus r => Config.reportBytes r
  | .bayStatus r => Config.reportBytes r
  | .coverage c => coverageBytes c
  | .certificate stored waiting r => leBytes 1 stored ++ leBytes 1 waiting ++ certificateBytes r
  | .attention a => attentionBytes a

/-- The reply carries a clamp note (R172, R180). -/
def ReplyData.clampNote : ReplyData → Bool
  | .nothing => false
  | .clampedPasses _ => true
  | .clampedActions _ => true
  | .bridge _ => false
  | .jobStatus _ => false
  | .bayStatus _ => false
  | .coverage _ => false
  | .certificate _ _ _ => false
  | .attention _ => false

/-- The last field of a management reply's header: the reason code of a REFUSED reply, else 1 with a clamp note and 0
without (R180). -/
def reasonField (d : Disposition) (data : ReplyData) : Nat :=
  match d with
  | .refused r => r.code
  | .accepted => if data.clampNote then 1 else 0
  | .busy => 0
  | .absent => 0

/-! ### Frames -/

/-- The key byte of a frame the bridge sends: 0 in a management reply, as the worked reply of 11, 11.5 has it; in any
other frame a free value from 0 to 15, which is all the header's table allows (R180; log 3). -/
def OutFrame.keyByte (f : OutFrame) : Byte :=
  match f with
  | .reply _ _ _ _ => 0
  | .response _ _ _ _ _ => Config.unstatedByte f 3 &&& 0x0F
  | .data _ _ _ => Config.unstatedByte f 3 &&& 0x0F
  | .notice _ _ _ => Config.unstatedByte f 3 &&& 0x0F

/-- The bytes of a frame sent on the upstream link: the 16-byte header and the payload (R180). A header byte for which
the spec states no value in that frame is a free value (log 3). -/
def OutFrame.bytes (f : OutFrame) : List Byte :=
  let free (offset size : Nat) : List Byte := (List.range' offset size).map (Config.unstatedByte f)
  match f with
  | .response target tag opcode status substituted =>
    leBytes 1 0x03 ++ leBytes 1 target ++ leBytes 1 tag.val ++ [f.keyByte] ++ [opcode] ++
      leBytes 1 (status.code + if substituted then 0x80 else 0) ++ leBytes 2 0 ++ free 8 6 ++ free 14 2
  | .reply tag code disposition carried =>
    leBytes 1 0x03 ++ leBytes 1 managementTarget ++ leBytes 1 tag.val ++ [f.keyByte] ++ [code] ++
      leBytes 1 disposition.code ++ leBytes 2 carried.bytes.length ++ leBytes 6 0 ++
      leBytes 2 (reasonField disposition carried) ++ carried.bytes
  | .data bay tag payload =>
    leBytes 1 0x02 ++ leBytes 1 bay.val ++ leBytes 1 tag.val ++ [f.keyByte] ++ free 4 1 ++ free 5 1 ++
      leBytes 2 payload.length ++ free 8 6 ++ free 14 2 ++ payload
  | .notice bay channel snapshot =>
    leBytes 1 0x04 ++ leBytes 1 bay.val ++ leBytes 1 0 ++ [f.keyByte] ++ leBytes 1 channel ++ free 5 1 ++ leBytes 2 2 ++
      free 8 6 ++ free 14 2 ++ attentionBytes snapshot

end Sys2Proof.Machine
end

