-- ==== Sys2Proof/Machine/Dispatch.lean ====
section
/-! DEFINITION. The effect of each command: one arm per constructor of `Instr`, one call of its meaning. -/

namespace Sys2Proof.Machine

def exec (i : Instr) (s : State) : Host.Outcome State Fault Refusal :=
  match i with
  | .coldReset => Sys2Proof.Machine.execColdReset s
  | .upstreamLinkReset => Sys2Proof.Machine.execUpstreamLinkReset s
  | .linkUp => Sys2Proof.Machine.execLinkUp s
  | .commandFrame bytes => Sys2Proof.Machine.execCommandFrame bytes s
  | .invalidFrame bytes => Sys2Proof.Machine.execInvalidFrame bytes s
  | .dataFrame bytes => Sys2Proof.Machine.execDataFrame bytes s
  | .identifyBridge => Sys2Proof.Machine.execIdentifyBridge s
  | .setClock value => Sys2Proof.Machine.execSetClock value s
  | .loadClassMap first count classes => Sys2Proof.Machine.execLoadClassMap first count classes s
  | .loadPolicy image => Sys2Proof.Machine.execLoadPolicy image s
  | .assignProfile bay profile => Sys2Proof.Machine.execAssignProfile bay profile s
  | .loadProgram program count passes => Sys2Proof.Machine.execLoadProgram program count passes s
  | .loadExtents first count words => Sys2Proof.Machine.execLoadExtents first count words s
  | .loadJob image => Sys2Proof.Machine.execLoadJob image s
  | .start slot => Sys2Proof.Machine.execStart slot s
  | .trigger slot => Sys2Proof.Machine.execTrigger slot s
  | .cancelTrigger slot => Sys2Proof.Machine.execCancelTrigger slot s
  | .pause slot => Sys2Proof.Machine.execPause slot s
  | .resume slot => Sys2Proof.Machine.execResume slot s
  | .cancel slot => Sys2Proof.Machine.execCancel slot s
  | .release slot => Sys2Proof.Machine.execRelease slot s
  | .readJobStatus slot => Sys2Proof.Machine.execReadJobStatus slot s
  | .readBayStatus bay => Sys2Proof.Machine.execReadBayStatus bay s
  | .readCoverage bay first count => Sys2Proof.Machine.execReadCoverage bay first count s
  | .readCertificate selector run => Sys2Proof.Machine.execReadCertificate selector run s
  | .discardCertificate run => Sys2Proof.Machine.execDiscardCertificate run s
  | .clearAttention bay mask => Sys2Proof.Machine.execClearAttention bay mask s
  | .setNoticeRouting channels => Sys2Proof.Machine.execSetNoticeRouting channels s
  | .setIndicator bay pattern => Sys2Proof.Machine.execSetIndicator bay pattern s
  | .setBayParameters image => Sys2Proof.Machine.execSetBayParameters image s
  | .resetBay bay => Sys2Proof.Machine.execResetBay bay s
  | .resetBridge => Sys2Proof.Machine.execResetBridge s
  | .unknownCommand code payload => Sys2Proof.Machine.execUnknownCommand code payload s
  | .presenceAsserted bay => Sys2Proof.Machine.execPresenceAsserted bay s
  | .presenceDropped bay => Sys2Proof.Machine.execPresenceDropped bay s
  | .debounceExpiry bay => Sys2Proof.Machine.execDebounceExpiry bay s
  | .deviceFaultIndication bay => Sys2Proof.Machine.execDeviceFaultIndication bay s
  | .resetTimerExpiry bay => Sys2Proof.Machine.execResetTimerExpiry bay s
  | .requestCompletion bay request status identity => Sys2Proof.Machine.execRequestCompletion bay request status identity s
  | .abortConfirmation bay request => Sys2Proof.Machine.execAbortConfirmation bay request s
  | .abortRefusal bay request => Sys2Proof.Machine.execAbortRefusal bay request s
  | .t1Expiry bay request => Sys2Proof.Machine.execT1Expiry bay request s
  | .t2Expiry bay request => Sys2Proof.Machine.execT2Expiry bay request s
  | .driveDataIn bay request bytes => Sys2Proof.Machine.execDriveDataIn bay request bytes s
  | .driveDataOut bay request count => Sys2Proof.Machine.execDriveDataOut bay request count s
  | .extentScanWord bay => Sys2Proof.Machine.execExtentScanWord bay s
  | .engineGrant => Sys2Proof.Machine.execEngineGrant s
  | .nativeEraseIssue bay => Sys2Proof.Machine.execNativeEraseIssue bay s
  | .passthroughGrant => Sys2Proof.Machine.execPassthroughGrant s
  | .holdExpiry tag => Sys2Proof.Machine.execHoldExpiry tag s
  | .buildComplete slot => Sys2Proof.Machine.execBuildComplete slot s
  | .indicatorPhase bay => Sys2Proof.Machine.execIndicatorPhase bay s
  | .clockSecond => Sys2Proof.Machine.execClockSecond s

end Sys2Proof.Machine
end

