-- ==== Sys2Proof/Safety.lean ====
section
/-! DEFINITION. What counts as a safe run, and the words in which claims are stated: the invariants of the bridge, a
management command at the front of its queue, and the state after its reply. -/

namespace Sys2Proof.Safety

open Sys2Proof.Machine

/-! ### Invariants -/

/-- The management queue holds at most 8 commands and the hold queue at most 16 reads (R157, R171). -/
abbrev QueuesBounded (s : State) : Prop :=
  s.management.length ≤ Config.managementQueueCapacity ∧ s.hold.length ≤ Config.holdQueueCapacity

/-- The capacity wait and the hold queue each stand in the order of arrival, oldest first, no two commands arrived as
one, and every command in them arrived before now (R154, R157). -/
abbrev QueuesOrdered (s : State) : Prop :=
  s.wait.Pairwise (fun c d => c.arrival < d.arrival) ∧ s.hold.Pairwise (fun c d => c.arrival < d.arrival) ∧
    (∀ c ∈ s.wait, ∀ d ∈ s.hold, c.arrival ≠ d.arrival) ∧ (∀ c ∈ s.wait, c.arrival < s.stamp) ∧
    ∀ c ∈ s.hold, c.arrival < s.stamp

/-- A policy profile stands within the bridge's protections: FENCE stands only as the ACTIVE action of READ, and every
write-class entry of the ACTIVE column is REFUSE (R151). -/
abbrev ProfileProtected (p : Profile) : Prop :=
  ∀ cls ∈ allClasses, p.idle[cls.number] ≠ .fence ∧ (p.active[cls.number] = .fence → cls = .read) ∧
    (cls.writeClass = true → p.active[cls.number] = .refuse)

/-- A program is unloaded, or well formed with every VERIFY density at 64 or below (R29, R30). -/
abbrev ProgramLegal (p : Option (List PassImage)) : Prop :=
  (p.all fun ps => programWellFormed ps && ps.all fun q => !densityClamped q) = true

/-- A bay's parameters lie in their ranges (R141). -/
abbrev ParametersLegal (p : BayParameters) : Prop :=
  (1 ≤ p.depth ∧ p.depth ≤ 4) ∧ (500 ≤ p.dataT1 ∧ p.dataT1 ≤ 60000) ∧ (1 ≤ p.nativeT1 ∧ p.nativeT1 ≤ 1440) ∧
    (500 ≤ p.t2 ∧ p.t2 ≤ 60000)

/-- The tables the server loads stand as the bridge lets them stand (R29, R30, R52, R141, R151). -/
abbrev TablesLegal (t : Tables) : Prop :=
  (∀ i : Fin 4, ProfileProtected t.profiles[i]) ∧ (∀ i : ProgramId, ProgramLegal t.programs[i]) ∧
    (∀ b : BayId, ParametersLegal t.parameters[b]) ∧ debounceAllowed t.debounceTime = true ∧
    extentsCanonical t.extents = true

/-- The certificate store holds at most 32 records in strictly ascending order of run number (R168). -/
abbrev StoreOrdered (store : List CertificateRecord) : Prop :=
  store.length ≤ Config.certificateCapacity ∧ store.Pairwise fun q r => q.run.toNat < r.run.toNat

/-- A bay has at most one active job (R5). -/
abbrev OneActiveJob (s : State) : Prop :=
  ∀ i j : JobId, (s.job i).state.active = true → (s.job j).state.active = true → (s.job i).bay = (s.job j).bay → i = j

/-- A slot's owner is of the kind its number allows: slots 0 to 7 serve passthrough, slots 8 to 31 the engine
(R121). -/
def ownerAllowed (k : SlotId) : SlotOwner → Bool
  | .free => true
  | .engine _ _ => decide (8 ≤ k.val)
  | .passthrough _ _ _ => decide (k.val < 8)

/-- The two parts of the slot pool never take slots from one another (R121). -/
abbrev SlotsParted (s : State) : Prop := ∀ k : SlotId, ownerAllowed k (s.slot k).owner = true

/-- Every in-flight list holds at most 4 entries (R42). -/
abbrev ListsBounded (s : State) : Prop := ∀ b : BayId, (s.list b).length ≤ 4

/-- What the scan has read of a job's list has passed its checks: every word of the list that it has taken has a length,
starts on the drive, and stands aligned and behind the word before it; the previous end is the clamped end of the last
of them (R59, R60). In a state that is not the scan's it holds. -/
def scanChecked (s : State) (x : Job) : Bool :=
  let word (k : Nat) : ExtentWord := readExtent s.tables.extents (x.extentFirst + k)
  let stop (k : Nat) : Nat := min ((word k).start + (word k).length) (jobCapacity x)
  match x.state with
  | .preparing (.scanning next previousEnd) =>
    decide (∀ k, k < next → k < x.extentCount →
      (word k).length ≠ 0 ∧ (word k).start < jobCapacity x ∧
      (k ≠ 0 → (word k).start % jobStripe x = 0 ∧ stop (k - 1) ≤ (word k).start) ∧
      (k + 1 = next → previousEnd = stop k))
  | _ => true

/-- Every scan in progress stands behind words that have passed their checks (R59). -/
abbrev ScansChecked (s : State) : Prop := ∀ j : JobId, scanChecked s (s.job j) = true

/-- The invariants of the bridge. -/
abbrev Inv (s : State) : Prop :=
  QueuesBounded s ∧ QueuesOrdered s ∧ TablesLegal s.tables ∧ StoreOrdered s.store ∧ OneActiveJob s ∧ SlotsParted s ∧
    ListsBounded s ∧ ScansChecked s

/-! ### The words of claims -/

/-- The command at the front of the management queue spells `i` (R171, R181). -/
abbrev AtFront (s : State) (c : ManagementCommand) (rest : List ManagementCommand) (i : Instr) : Prop :=
  s.management = c :: rest ∧ managementInstr c.code c.payload = i

/-- The state after the front command has left the management queue and has been replied to, with nothing else
changed: its tag is FREE, and while the link is UP the reply is sent (R146, R171, R178). -/
def replied (s : State) (c : ManagementCommand) (rest : List ManagementCommand) (d : Disposition)
    (data : ReplyData) : State :=
  { s with
    management := rest
    tags := s.tags.set c.tag.val false c.tag.isLt
    sent := if s.link = .up then s.sent ++ [.reply c.tag c.code d data] else s.sent }

/-- The state after the front command has been replied to ACCEPTED with nothing more. -/
abbrev accepted (s : State) (c : ManagementCommand) (rest : List ManagementCommand) : State :=
  replied s c rest .accepted .nothing

/-- The outcome of a refused command: the reply names the reason, and nothing else changes (R172). -/
abbrev refusal (s : State) (c : ManagementCommand) (rest : List ManagementCommand) (r : Reason) :
    Host.Outcome State Fault Refusal := .next (replied s c rest (.refused r) .nothing)

/-! ### Indicators, judgements and jobs -/

/-- A port whose indicator shows its override, or else a pattern: a changed pattern begins its cycle, an unchanged one
runs on (R142, R144). -/
def showing (auto : IndicatorPattern) (p : BayPort) : BayPort :=
  let q := p.override.getD auto
  if p.shown = q then p else { p with shown := q, phase := 0 }

/-- `t` is `u` after bay `b`'s held reads have been judged again and its indicator recomputed: nothing else changes,
held reads of `b` alone leave the hold queue (a read of another bay, which bears a tag of its own by R146, stays), only
their tags are freed, and with no read of `b` held the passthrough path is as it was (R4, R99, R143, R158). -/
abbrev AfterRejudging (b : BayId) (u t : State) : Prop :=
  t = { u with hold := t.hold, wait := t.wait, tags := t.tags, sent := t.sent, ports := t.ports } ∧
  (∀ c, c ≠ b → t.port c = u.port c) ∧
  (t.port b = u.port b ∨ t.port b = { u.port b with shown := wantedPattern t b, phase := 0 }) ∧
  u.sent <+: t.sent ∧
  (∀ c ∈ t.hold, c ∈ u.hold) ∧
  (∀ c ∈ u.hold, c.bay ≠ b → (∀ d ∈ u.hold, d.tag = c.tag → d = c) → c ∈ t.hold) ∧
  (∀ c ∈ u.wait, c ∈ t.wait) ∧
  (∀ c ∈ t.wait, c ∈ u.wait ∨ (c ∈ u.hold ∧ c.bay = b)) ∧
  (∀ x, t.tagInUse x = u.tagInUse x ∨ (t.tagInUse x = false ∧ ∃ c ∈ u.hold, c.bay = b ∧ c.tag = x)) ∧
  ((∀ c ∈ u.hold, c.bay ≠ b) → t.hold = u.hold ∧ t.wait = u.wait ∧ t.tags = u.tags ∧ t.sent = u.sent)

/-- The held reads of bay `b` in `u` have been judged again with the jobs, maps, tables and bays as they stand in `t`: a
read still held keeps its place whole, one that passes now waits for capacity, and one that is refused has left with its
tag freed and its response sent (R158). Each held read bears a tag of its own (R146). -/
abbrev JudgedAgain (b : BayId) (u t : State) : Prop :=
  ∀ c ∈ u.hold, c.bay = b → (∀ d ∈ u.hold, d.tag = c.tag → d = c) →
    (judgeHeld t c = .hold → c ∈ t.hold) ∧
    (judgeHeld t c = .wait → c ∉ t.hold ∧ c ∈ t.wait) ∧
    ∀ x, judgeHeld t c = .answered x → c ∉ t.hold ∧ t.tagInUse c.tag = false ∧
      (u.link = .up → .response b.val c.tag c.opcode x false ∈ t.sent)

/-- The held reads of bay `b` in `u` have been judged again twice: as `u` stands, and, where that judgement still holds
a read, once more as `t` stands (R158). -/
abbrev JudgedTwice (b : BayId) (u t : State) : Prop :=
  ∀ c ∈ u.hold, c.bay = b → (∀ d ∈ u.hold, d.tag = c.tag → d = c) →
    let verdict : Verdict := if judgeHeld u c = .hold then judgeHeld t c else judgeHeld u c
    (verdict = .hold → c ∈ t.hold) ∧
    (verdict = .wait → c ∉ t.hold ∧ c ∈ t.wait) ∧
    ∀ x, verdict = .answered x → c ∉ t.hold ∧ t.tagInUse c.tag = false ∧
      (u.link = .up → .response b.val c.tag c.opcode x false ∈ t.sent)

/-- `t` is `u` after one change of a job of bay `b`, reported once to the command filter and to the indicator (R4). -/
abbrev Reported (b : BayId) (u t : State) : Prop := AfterRejudging b u t ∧ JudgedAgain b u t

/-- The record of a job that has entered FINISHING with an outcome: latch and unit flag clear (R12, R23). -/
def closing (x : Job) (o : RunOutcome) : Job :=
  { x with state := .finishing, outcome := some o, latch := false, unitActive := false }

/-- The record of a job whose preparation has ended without a run: what stages 3 to 5 wrote is back at its load value
(R8, R9). -/
def unprepared (x : Job) : Job :=
  { x with identity := none, geometry := none, stripeClamped := false, extentClamped := false }

/-- The record of a bay's active job once its bay has been removed or reset (R9, R17, R18): a run halts, a preparation
waits for the bay again, a drain enters its target, and a job in any other state is not changed. -/
def jobAfterLoss (reason : HaltReason) (x : Job) : Job :=
  match x.state with
  | .running => { x with state := .halted, haltReason := some reason }
  | .waitingTrigger => { x with state := .halted, haltReason := some reason }
  | .preparing _ => { unprepared x with state := .waitingBay }
  | .draining .paused => { x with state := .halted, haltReason := some reason }
  | .draining (.halted first) => { x with state := .halted, haltReason := some first }
  | .draining (.finishing o) => closing x o
  | .free => x
  | .loaded => x
  | .waitingBay => x
  | .paused => x
  | .halted => x
  | .finishing => x
  | .closed => x

/-- The position at which a job's walk would restart: that of the oldest entry in flight, or the walk cursor (R47). -/
def restartAt (s : State) (x : Job) (w : WalkContext) : Position :=
  match s.list x.bay with
  | [] => w.cursor
  | e :: _ => positionOf w.direction (jobExtents s x) e.stripe

/-- The unit in progress has a stripe left to issue: the next stripe of the pass lies before the unit end (R38). -/
def unitLeft (s : State) (x : Job) (w : WalkContext) : Bool :=
  match nextStripe s x w, w.unitEnd, w.direction with
  | some (t, _), some u, .ascending => decide (t.first < u.lba)
  | some (t, _), some u, .descending => decide (u.lba < t.first + t.length)
  | _, _, _ => false

/-- The unit end of a unit that begins now, by the grain: beyond the next stripe for STRIPE, that stripe's zone boundary
for ZONE, the end of the pass for PASS and for a native erase (R38, R49). -/
def unitEndNow (s : State) (x : Job) (w : WalkContext) : Option Position :=
  let z := (s.map x.bay).z
  let xs := jobExtents s x
  if w.kind = .nativeErase then some (endPosition w.direction xs (jobCapacity x))
  else (nextStripe s x w).map fun (t, beyond) =>
    match w.grain, w.direction with
    | .stripe, _ => beyond
    | .pass, d => endPosition d xs (jobCapacity x)
    | .zone, .ascending => positionAt .ascending xs ((t.first / 2 ^ z + 1) * 2 ^ z)
    | .zone, .descending => positionAt .descending xs (t.first / 2 ^ z * 2 ^ z)

/-- The walk context of a pass as it begins, before its first unit (R34, R71). -/
def contextOfPass (s : State) (x : Job) (index : Nat) (p : PassImage) : WalkContext :=
  let d : Direction := if kindOfPass p = .nativeErase then .ascending else directionOfPass p
  { pass := index, kind := kindOfPass p, direction := d, grain := grainOfPass p, density := p.density
    pattern := if kindOfPass p = .verify then (((s.program x.program)[p.reference]?).map patternOfPass).getD .zero
      else patternOfPass p
    reference := p.reference, retryLimit := p.retry, cursor := startPosition d (jobExtents s x) (jobCapacity x)
    unitEnd := none, resumeCursor := none
    marks := if kindOfPass p = .verify then (s.map x.bay).entries.map fun z =>
      decide ((z.state = .written ∨ z.state = .verified) ∧ z.pass = some p.reference) else [] }

/-- The outcome of a run whose last pass ends over zones (R22). -/
def outcomeOf (zones : List ZoneEntry) : RunOutcome :=
  if ∀ z ∈ zones, z.state = .excluded ∨ z.state = .verified then .certified
  else if ∃ z ∈ zones, z.state = .failed ∨ z.state = .mismatched then .rejected
  else .unverified

/-- The progress permille over a bay's zones: 1000 times the sum of their done counts by the sum of their due work for
the pass being run, rounded down (R25). -/
def permilleOf (s : State) (b : BayId) (w : WalkContext) : Nat :=
  let zones := List.range (s.map b).entries.length
  1000 * (zones.map fun i => (s.zone b i).done).sum / (zones.map fun i => dueWork w i (s.zone b i)).sum

/-- What the retirement of the head `e` in zone `i` of bay `b` leaves in `t`, good or failed, with `m` mismatched
sectors, under pass `w` of job `j`: its zone's out count and state, the job's totals and its bad zone count. Other jobs,
and the other zones' states, pass fields and out counts, stand (R44, R92, R93, R98). -/
abbrev HeadRetired (b : BayId) (j : JobId) (w : WalkContext) (e : Entry) (i : Nat) (good : Bool) (m : Nat)
    (s t : State) : Prop :=
  let z := s.zone b i
  let written : Bool := decide (z.state = .writing ∧ z.done + 1 = z.due)
  (∀ k, k ≠ j → t.job k = s.job k) ∧
  (t.zone b i).out = z.out - 1 ∧
  (good = false →
    (t.zone b i).state = .failed ∧ (t.zone b i).fails = min 255 (z.fails + 1) ∧
    (t.job j).failedStripes = min (2 ^ 32 - 1) ((s.job j).failedStripes + 1)) ∧
  (good = true → e.kind = .overwrite →
    (t.zone b i).state = (if written then .written else z.state) ∧
    (t.zone b i).pass = if written then some w.pass else z.pass) ∧
  (good = true → e.kind = .verify →
    (t.zone b i).mismatch = min 255 (z.mismatch + m) ∧
    (t.job j).mismatched = min (2 ^ 32 - 1) ((s.job j).mismatched + m) ∧
    (t.zone b i).state =
      if z.state = .written ∨ z.state = .verified ∨ z.state = .mismatched then
        if 0 < m then .mismatched
        else if z.state = .written ∧ z.done + 1 = dueWork w i z then .verified
        else z.state
      else z.state) ∧
  (∀ k, k ≠ i → (t.zone b k).state = (s.zone b k).state ∧ (t.zone b k).pass = (s.zone b k).pass ∧
    (t.zone b k).out = (s.zone b k).out) ∧
  (t.job j).badZones = ((t.map b).entries.filter fun z => z.state.bad).length

/-- Zone `i` after the retirement of an entry under pass `w`; an entry of another zone leaves it as it is (R44, R92,
R93). -/
def zoneAfter (w : WalkContext) (i : Nat) (z : ZoneEntry) (e : Entry) : ZoneEntry :=
  let y : ZoneEntry := { z with out := z.out - 1, done := z.done + 1 }
  if e.zone ≠ some i then z
  else if e.status ≠ .doneGood then { y with state := .failed, fails := min 255 (z.fails + 1) }
  else
    match e.kind with
    | .nativeErase => y
    | .overwrite =>
      if z.state = .writing ∧ z.done + 1 = z.due then { y with state := .written, pass := some w.pass } else y
    | .verify => { y with
        mismatch := min 255 (z.mismatch + e.mismatched)
        state :=
          if z.state = .written ∨ z.state = .verified ∨ z.state = .mismatched then
            if 0 < e.mismatched then .mismatched
            else if z.state = .written ∧ z.done + 1 = dueWork w i z then .verified
            else z.state
          else z.state }

/-- Zone `i` of bay `b` after a list of entries has retired, head first (R44). -/
def zoneAfterAll (s : State) (b : BayId) (w : WalkContext) (i : Nat) (gone : List Entry) : ZoneEntry :=
  gone.foldl (zoneAfter w i) (s.zone b i)

/-- The number of bay `b`'s bad zones after a list of entries has retired (R98). -/
def badAfter (s : State) (b : BayId) (w : WalkContext) (gone : List Entry) : Nat :=
  ((List.range (s.map b).entries.length).filter fun i => (zoneAfterAll s b w i gone).state.bad).length

/-- The state of a job just before the last of a list of retirements: the comparison that follows an earlier one has
already sent a RUNNING job, or one that drains toward PAUSED, into DRAINING(FINISHING) with REJECTED where it found more
bad zones than the tolerance (R17, R21). -/
def stateBeforeLast (s : State) (b : BayId) (w : WalkContext) (x : Job) (gone : List Entry) : JobState :=
  if gone.dropLast ≠ [] ∧ x.tolerance < badAfter s b w gone.dropLast ∧
      (x.state = .running ∨ x.state = .draining .paused)
  then .draining (.finishing .rejected) else x.state

/-- Job `j` of bay `b` has entered FINISHING with an outcome: latch and unit flag clear, the walk context empty, and its
record in building (R12, R23, R33, R166). -/
abbrev Finishes (b : BayId) (j : JobId) (o : RunOutcome) (t : State) : Prop :=
  (t.job j).state = .finishing ∧ (t.job j).outcome = some o ∧ (t.job j).latch = false ∧
    (t.job j).unitActive = false ∧ t.context b = none ∧ { slot := j, record := none } ∈ t.building

/-- Job `j` of bay `b`, with record `x` in state `y`, has had an entry of pass `w` retire, and `rest` is what is left of
its list: its permille is recomputed; with the unit's last stripe retired the unit ends, and with no work left the pass;
the tolerance comparison and the end of a drain follow (R11, R14, R16, R17, R21, R22, R25, R45). -/
abbrev RetirementFollowed (b : BayId) (j : JobId) (w : WalkContext) (y : JobState) (rest : List Entry) (s t : State) :
    Prop :=
  let x := s.job j
  let unitEnds : Prop := rest = [] ∧ x.unitActive = true ∧ unitLeft s x w = false
  let passEnds : Prop := unitEnds ∧ nextStripe s x w = none
  let last : Prop := (s.program x.program).length ≤ x.passIndex + 1
  let auto : Bool := ((s.program x.program)[x.passIndex]?).any fun p => decide (chainOfPass p = .auto)
  let exceeds : Prop := x.tolerance < (t.job j).badZones
  (¬ passEnds → (t.job j).permille = permilleOf t b w ∧ (t.job j).passEnds = x.passEnds ∧
    (t.job j).passComplete = x.passComplete ∧ (t.job j).passIndex = x.passIndex) ∧
  (passEnds → (t.job j).passEnds[x.passIndex]? = some (some s.clock) ∧
    kindPresent (t.attentionOf b) .passDone = true ∧
    ((t.job j).passIndex = x.passIndex → (t.job j).passComplete = true ∧ (t.job j).permille = 1000)) ∧
  (y = .running → ¬ unitEnds →
    (¬ exceeds → (t.job j).state = .running ∧ (t.job j).unitActive = x.unitActive ∧ (t.job j).latch = x.latch ∧
      t.context b = some w) ∧
    (exceeds → rest ≠ [] → (t.job j).state = .draining (.finishing .rejected) ∧ (t.job j).latch = x.latch ∧
      t.context b = some w) ∧
    (exceeds → rest = [] → Finishes b j .rejected t)) ∧
  (y = .running → unitEnds → ¬ passEnds →
    (exceeds → Finishes b j .rejected t) ∧
    (¬ exceeds → x.latch = true → (t.job j).state = .running ∧ (t.job j).latch = false ∧
      (t.job j).unitActive = true ∧ t.context b = some { w with unitEnd := unitEndNow s x w }) ∧
    (¬ exceeds → x.latch = false → (t.job j).state = .waitingTrigger ∧ (t.job j).latch = false ∧
      (t.job j).unitActive = false ∧ t.context b = some { w with unitEnd := none })) ∧
  (y = .running → passEnds →
    (last → Finishes b j (outcomeOf (t.map b).entries) t) ∧
    (¬ last → exceeds → Finishes b j .rejected t) ∧
    (¬ last → ¬ exceeds → auto = false → x.latch = false → (t.job j).state = .waitingTrigger ∧
      (t.job j).unitActive = false ∧ (t.job j).latch = false ∧ (t.job j).passIndex = x.passIndex) ∧
    (¬ last → ¬ exceeds → auto = true ∨ x.latch = true →
      ∀ p, (s.program x.program)[x.passIndex + 1]? = some p →
        let v := contextOfPass t x (x.passIndex + 1) p
        let work : Prop := if v.kind = .nativeErase then v.cursor ≠ passEnd t x v else nextStripe t x v ≠ none
        (work → (t.job j).state = .running ∧ (t.job j).passIndex = x.passIndex + 1 ∧
          (t.job j).passComplete = false ∧ (t.job j).unitActive = true ∧ (t.job j).permille = 0 ∧
          (t.job j).latch = (if auto = true then x.latch else false) ∧
          (∀ k, k < (s.map b).entries.length → (t.zone b k).done = 0) ∧
          t.context b = some { v with unitEnd := unitEndNow t x v }) ∧
        (¬ work → x.passIndex + 1 < x.passEnds.length →
          (t.job j).passEnds[x.passIndex + 1]? = some (some s.clock)))) ∧
  ∀ q, y = .draining q →
    let decided : Prop := passEnds ∧ last ∧ ∀ o, q ≠ .finishing o
    let enters (g : DrainTarget) : Prop :=
      match g with
      | .paused => (t.job j).state = .paused ∧ (t.job j).latch = x.latch ∧
        (unitEnds → (t.job j).unitActive = false ∧
          t.context b = some { w with unitEnd := none, resumeCursor := some w.cursor }) ∧
        (¬ unitEnds → (t.job j).unitActive = x.unitActive ∧
          t.context b = some { w with resumeCursor := some w.cursor })
      | .halted h => (t.job j).state = .halted ∧ (t.job j).haltReason = some h ∧ (t.job j).latch = x.latch
      | .finishing o => Finishes b j o t
    (rest ≠ [] → (t.job j).unitActive = x.unitActive ∧ (t.job j).latch = x.latch ∧ t.context b = some w ∧
      (exceeds → q = .paused → (t.job j).state = .draining (.finishing .rejected)) ∧
      (¬ (exceeds ∧ q = .paused) → (t.job j).state = y)) ∧
    (rest = [] →
      (decided → enters (.finishing (outcomeOf (t.map b).entries))) ∧
      (¬ decided → exceeds → q = .paused → enters (.finishing .rejected)) ∧
      (¬ decided → ¬ (exceeds ∧ q = .paused) → enters q))

/-- A write-class passthrough request is outstanding in a bay's queue, judged by the class it was issued under (R7). -/
abbrev WriteOutstanding (p : BayPort) : Prop :=
  ∃ r ∈ p.queue, r.origin = .passthrough ∧ r.cls.any OpClass.writeClass = true

/-- From `u`, whose job `j` stands in preparation stage 1 on its bay's drive `d`, stages 2 to 4 and the start of stage 5
have been taken and `t` is the result: a NATIVE_ERASE pass that does not suit the list or the drive returns the job to
LOADED with START_REFUSED raised; else the scan begins over a cleared map (R7, R8, R58). -/
abbrev PreparationFollows (j : JobId) (d : DriveIdentity) (u t : State) : Prop :=
  let x := u.job j
  let g := geometryOf x.stripeRequest d.capacity d.sectorSize
  if (∃ p ∈ u.program x.program, kindOfPass p = .nativeErase) ∧ (x.extentCount ≠ 0 ∨ d.nativeErase = false) then
    ∃ v, t = raise v x.bay .startRefused ∧
      AfterRejudging x.bay (disown (u.putJob j { unprepared x with
        state := .loaded
        startError := some (if x.extentCount ≠ 0 then .programConflict else .noNativeErase) }) x.bay j) v
  else
    AfterRejudging x.bay ((u.putJob j { x with
      state := .preparing (.scanning 0 0), geometry := some g, stripeClamped := decide (g.sEff ≠ x.stripeRequest)
      identity := some { serial := d.serial, capacity := d.capacity, sectorSize := d.sectorSize }
      extentClamped := false, badZones := 0, mismatched := 0, failedStripes := 0 }).putMap x.bay
        { owner := some j, run := none, z := g.z, zn := g.zn, entries := List.replicate g.zn ZoneEntry.cleared }) t

/-! ### Bays and requests -/

/-- The record of the bay port's own IDENTIFY, with a T1 of 30,000 ms (R134). -/
def identifyRecord (id : Nat) : Record :=
  { id := id, origin := .engine, request := .identify, cls := none, link := .port, slot := none, status := .issued,
    timer := 30000, wanted := true }

/-- Bay `b` of `s` stands with port `p` and then issues IDENTIFY, the next attempt of its count (R134). -/
def identifying (s : State) (b : BayId) (p : BayPort) : State :=
  { s with
    ports := put s.ports b { p with attempts := p.attempts + 1, queue := p.queue ++ [identifyRecord s.nextRequest] }
    toDrive := s.toDrive ++ [.request b s.nextRequest .identify]
    nextRequest := s.nextRequest + 1 }

/-- What the loss of bay `b`, by a removal or a selective reset, makes of everything but the port itself, its signals
and its attention set: every record of the queue and every entry in flight is abandoned with its slot, waiting and held
commands are answered, the walk records where it restarts, the job takes the event, and a scan cut short leaves the map
cleared with Zn 0 (R9, R46, R47, R66, R88, R97, R118, R132, R140, R160). A held read of another bay, which bears a tag
of its own by R146, stays. -/
abbrev LosesBay (b : BayId) (status : ResponseStatus) (reason : HaltReason) (u t : State) : Prop :=
  t = { u with
    ports := t.ports, toDrive := t.toDrive, sent := t.sent, tags := t.tags, hold := t.hold, wait := t.wait
    inFlight := t.inFlight, walk := t.walk, slots := t.slots, coverage := t.coverage, jobs := t.jobs
    attention := t.attention, building := t.building } ∧
  (∀ c, c ≠ b → t.port c = u.port c ∧ t.list c = u.list c ∧ t.context c = u.context c ∧ t.map c = u.map c ∧
    t.attentionOf c = u.attentionOf c) ∧
  t.list b = [] ∧
  (∀ r ∈ (u.port b).queue, ∀ k, r.slot = some k → t.slot k = Slot.empty) ∧
  (∀ e ∈ u.list b, ∀ k, e.slot = some k → t.slot k = Slot.empty) ∧
  (∀ k, (∀ r ∈ (u.port b).queue, r.slot ≠ some k) → (∀ e ∈ u.list b, e.slot ≠ some k) → t.slot k = u.slot k) ∧
  u.sent <+: t.sent ∧
  (∀ r ∈ (u.port b).queue, ∀ c x, r.link = .command c x → r.wanted = true →
    t.tagInUse c.tag = false ∧ (u.link = .up → .response b.val c.tag c.opcode status x ∈ t.sent)) ∧
  (∀ c, (c ∈ u.hold ∨ c ∈ u.wait) → c.bay = b →
    t.tagInUse c.tag = false ∧ (u.link = .up → .response b.val c.tag c.opcode status false ∈ t.sent)) ∧
  (∀ c ∈ t.hold, c ∈ u.hold ∧ c.bay ≠ b) ∧
  (∀ c ∈ u.hold, c.bay ≠ b → (∀ d ∈ u.hold, d.tag = c.tag → d = c) → c ∈ t.hold) ∧
  t.wait = u.wait.filter (fun c => decide (c.bay ≠ b)) ∧
  (∀ j, t.job j = if activeJob u b = some j then jobAfterLoss reason (u.job j) else u.job j) ∧
  (∀ j, activeJob u b = some j →
    (u.job j).state = .running ∨ (u.job j).state = .waitingTrigger ∨ (u.job j).state = .draining .paused →
    kindPresent (t.attentionOf b) .jobHalted = true ∧
    t.context b = (u.context b).map fun w => { w with resumeCursor := some (restartAt u (u.job j) w) }) ∧
  (∀ j o, activeJob u b = some j → (u.job j).state = .draining (.finishing o) →
    { slot := j, record := none } ∈ t.building ∧ t.context b = none) ∧
  (∀ j n e, activeJob u b = some j → (u.job j).state = .preparing (.scanning n e) → t.map b = CoverageMap.cleared) ∧
  ((∀ j n e, activeJob u b = some j → (u.job j).state ≠ .preparing (.scanning n e)) →
    (t.map b).owner = (u.map b).owner ∧ (t.map b).run = (u.map b).run ∧ (t.map b).z = (u.map b).z ∧
    (t.map b).zn = (u.map b).zn ∧ ∀ i,
    t.zone b i = { u.zone b i with
      out := (u.zone b i).out - ((u.list b).filter fun e => decide (e.zone = some i)).length })

/-- A selective reset of bay `b` has been taken: the interface is reset, the bay is RESETTING for 500 ms with its cause
recorded and its identity cleared, and the bay is lost to its traffic and its job (R139, R140). -/
abbrev SelectivelyReset (b : BayId) (cause : ResetCause) (u t : State) : Prop :=
  LosesBay b .bayReset cause.haltReason u t ∧
  t.toDrive = u.toDrive ++ [.interfaceReset b] ∧
  t.port b = showing .fast { u.port b with
    state := .resetting, lastReset := some cause, fault := none, rejected := none, identity := none, queue := []
    resetTimer := some 500 }

/-- The drive of bay `b` has been removed: the bay is EMPTY and forgets its drive, REMOVED is in its attention set, and
the bay is lost to its traffic and its job (R132). -/
abbrev DriveRemoved (b : BayId) (u t : State) : Prop :=
  LosesBay b .bayAbsent .removed u t ∧
  t.toDrive = u.toDrive ∧
  kindPresent (t.attentionOf b) .removed = true ∧
  t.port b = showing .off { u.port b with
    state := .empty, debounce := none, resetTimer := none, identity := none, attempts := 0, fault := none
    rejected := none, queue := [] }

/-! ### Data and walks -/

/-- The bytes of a sector under a pattern: its words in ascending order, each least significant byte first (R70). -/
def sectorImage (p : Pattern) (lba words : Nat) : List Byte :=
  (List.range words).flatMap fun w => wordBytes (patternWord p lba w)

/-- The bytes of a stripe under a pattern: its sectors in ascending order (R70). -/
def stripeImage (p : Pattern) (t : Stripe) (words : Nat) : List Byte :=
  (List.range t.length).flatMap fun i => sectorImage p (t.first + i) words

/-- The stripes a walk steps over from a position, in the order of its steps (R35). -/
def walkFrom (d : Direction) (xs : List Extent) (S : Nat) : Nat → Position → List Stripe
  | 0, _ => []
  | n + 1, p =>
    match stepWalk d xs S p with
    | none => []
    | some (t, q) => t :: walkFrom d xs S n q

/-- The sectors of an extent in ascending order. -/
def extentSectors (x : Extent) : List Nat := List.range' x.start (x.stop - x.start)

/-- The sectors of a stripe in ascending order. -/
def stripeSectors (t : Stripe) : List Nat := List.range' t.first t.length

end Sys2Proof.Safety
end

