-- ==== Sys2Proof/Certificates/Slice0/Obligations.lean ====
section
/-! DEFINITION. The statements for the provers. Each follows rules of spec/, named in its docstring. A statement about a
management command is about the moment at which it is taken from the front of the management queue (`AtFront`): an event
that cannot occur, or a command that is not at the front, has no effect (log 1). -/

section

open Sys2Proof Sys2Proof.Machine Sys2Proof.Safety

/-! ### The block as a machine -/

/-- The block takes its commands one at a time, first in, first out: a step is `exec` of the front command on the state
with the queue's rest. On an empty queue it idles, which is the model's choice (log 2). -/
def Obligations.StepTakesTheFrontCommand : Prop :=
  ∀ s : State,
    (∀ c rest, s.pending = c :: rest → step s = exec c { s with pending := rest }) ∧ (s.pending = [] → step s = .next s)

/-- What the server sets up stands until a command of its own, or a cold reset, changes it: the tables (R27, R52, R141,
R149, R150, R176), the clock and the run counter (R173), the link (R177, R178). -/
def Obligations.OnlyNamedCommandsWriteTheSettings : Prop :=
  ∀ (i : Instr) (s t : State), exec i s = .next t →
    t.pending = s.pending ∧
    (t.tables ≠ s.tables → i = .coldReset ∨ (∃ f n cs, i = .loadClassMap f n cs) ∨ (∃ p, i = .loadPolicy p) ∨
      (∃ b p, i = .assignProfile b p) ∨ (∃ p n ps, i = .loadProgram p n ps) ∨ (∃ f n ws, i = .loadExtents f n ws) ∨
      (∃ cs, i = .setNoticeRouting cs) ∨ (∃ p, i = .setBayParameters p)) ∧
    (t.clock ≠ s.clock → i = .coldReset ∨ (∃ v, i = .setClock v) ∨ i = .clockSecond) ∧
    (t.runCounter ≠ s.runCounter → i = .coldReset ∨ ∃ b, i = .extentScanWord b) ∧
    (t.link ≠ s.link → i = .coldReset ∨ i = .upstreamLinkReset ∨ i = .linkUp)

/-- A record leaves the certificate store only by DISCARD CERTIFICATE of its run number or by a cold reset, and joins it
only at the completion of a build or at the place that a DISCARD frees (R167, R168, R170). -/
def Obligations.CertificatesAreNeverLost : Prop :=
  ∀ (i : Instr) (s t : State) (r : CertificateRecord), exec i s = .next t →
    (r ∈ s.store → r ∉ t.store → i = .coldReset ∨ i = .discardCertificate r.run) ∧
    (r ∈ t.store → r ∉ s.store → (∃ j, i = .buildComplete j) ∨ ∃ n, i = .discardCertificate n)

/-! ### Invariants that every step keeps -/

/-- The state after a cold reset has every invariant of the bridge. -/
def Obligations.ResetMeetsTheInvariants : Prop := Inv State.reset

/-- The management queue never holds more than 8 commands and the hold queue never more than 16 reads (R157, R171); the
capacity wait and the hold queue stay in the order of arrival, oldest first, whatever command returns to either (R154,
R157; the numbers of the arrivals are the model's, log 6); slots 0 to 7 never serve the engine and slots 8 to 31 never
serve passthrough (R121). -/
def Obligations.QueuesAndSlotsStayInBounds : Prop :=
  ∀ s t : State, step s = .next t →
    (QueuesBounded s → QueuesBounded t) ∧ (QueuesOrdered s → QueuesOrdered t) ∧ (SlotsParted s → SlotsParted t)

/-- Every table stays as its command's rule lets it stand: policies within the protections, programs well formed,
parameters in range, extent memory inside its 4096 words (R29, R30, R52, R141, R151). -/
def Obligations.TablesStayLegal : Prop := ∀ s t : State, step s = .next t → TablesLegal s.tables → TablesLegal t.tables

/-- The certificate store keeps at most 32 records, in strictly ascending order of run number (R167, R168). -/
def Obligations.StoreStaysOrdered : Prop :=
  ∀ s t : State, step s = .next t → StoreOrdered s.store → StoreOrdered t.store

/-- A bay never has more than one job in an active state (R5). -/
def Obligations.OneActiveJobPerBay : Prop := ∀ s t : State, step s = .next t → OneActiveJob s → OneActiveJob t

/-- An in-flight list never holds more than 4 entries, while the bays' depths are legal (R41, R42, R141). -/
def Obligations.InFlightListsStayBounded : Prop :=
  ∀ s t : State, step s = .next t → TablesLegal s.tables → ListsBounded s → ListsBounded t

/-! ### Resets and the link -/

/-- A cold reset brings every block to its initial values, whatever came before; each bay then samples its presence
afresh, and a seated drive enters SEATING under the initial debounce time of 64 ms (R130, R131, R143, R179). What the
model keeps beyond the blocks stays: what has been sent (log 8), the counts that number requests and arrivals (log 5,
log 6) and the levels of the presence inputs, which are pins (log 7). -/
def Obligations.ColdResetGivesTheInitialValues : Prop :=
  ∀ s : State, exec .coldReset s = .next { State.reset with
    pending := s.pending, sent := s.sent, toDrive := s.toDrive, nextRequest := s.nextRequest, stamp := s.stamp
    ports := Vector.ofFn fun b : BayId =>
      if (s.port b).presence then
        { BayPort.cold with presence := true, state := .seating, debounce := some 64, shown := .fast }
      else BayPort.cold }

/-- RESET BRIDGE is answered first, and then the warm reset clears the operating state of every block and keeps the
link, the clock, the run counter, the tables and the certificate store. Each bay samples its presence afresh: a seated
drive enters SEATING, or with a debounce time of 0 is identified at once with INSERTED raised (R130, R131, R179). The
levels of the presence inputs, what has been sent and the counts of requests and arrivals stay (log 5, log 6, log 7, log
8). -/
def Obligations.ResetBridgeIsAWarmReset : Prop :=
  ∀ (s : State) (c : ManagementCommand) (rest : List ManagementCommand), AtFront s c rest .resetBridge →
    ∃ t, exec .resetBridge s = .next t ∧
      (accepted s c rest).sent <+: t.sent ∧
      t = { s with
        tags := Vector.replicate 64 false, wait := [], hold := [], management := [], taking := none
        jobs := Vector.replicate 24 Job.free
        walk := Vector.replicate 16 none, inFlight := Vector.replicate 16 [], slots := Vector.replicate 32 Slot.empty
        grantPointer := 15, coverage := Vector.replicate 16 CoverageMap.cleared, building := []
        sent := t.sent, toDrive := t.toDrive, attention := t.attention, ports := t.ports
        nextRequest := t.nextRequest } ∧
      ∀ b : BayId,
        if (s.port b).presence = false then t.port b = BayPort.cold ∧ t.attentionOf b = 0
        else if s.tables.debounceTime ≠ 0 then
          t.attentionOf b = 0 ∧
          t.port b = { BayPort.cold with
            presence := true, state := .seating, debounce := some s.tables.debounceTime, shown := .fast }
        else
          t.attentionOf b = kindMask .inserted ∧
          ∃ id, .request b id .identify ∈ t.toDrive ∧ t.port b = { BayPort.cold with
            presence := true, state := .identifying, attempts := 1, queue := [identifyRecord id], shown := .fast }

/-- An upstream link reset takes the link DOWN, frees every tag, empties the management queue, the hold queue and the
capacity wait without any answer, and leaves passthrough commands at the drives going on without a result wanted.
Everything else goes on as before (R119, R161, R178). The management command that is being taken at that moment still
has its whole effect, and its reply is not sent: its row does then what it does at the front of the queue with the link
DOWN (R178; which command this is, and that its row may come later, is the model's choice, log 32). -/
def Obligations.LinkResetDropsTheServersCommands : Prop :=
  ∀ s : State,
    exec .upstreamLinkReset s = .next { s with
      link := .down, tags := Vector.replicate 64 false, management := [], hold := [], wait := []
      taking := s.management.head?
      ports := Vector.ofFn fun b : BayId => { s.port b with
        queue := (s.port b).queue.map fun r => if r.origin = .passthrough then { r with wanted := false } else r } } ∧
    ∀ (i : Instr) (c : ManagementCommand), s.link = .down → s.management = [] → s.taking = some c →
      managementInstr c.code c.payload = i →
      exec i s = exec i { s with management := [c], taking := none } ∧
      ∀ d data, (replied { s with management := [c], taking := none } c [] d data).sent = s.sent

/-- When the link comes UP, one notice goes out for each bay, in ascending order, whose set holds a kind routed to a
channel from 1 to 7: it bears the channel of the lowest-numbered such kind and a snapshot of the whole set (R177). A
link that is UP already does not come up (the model's choice, log 27), and a command left being taken at a link reset is
past (the model's choice, log 32). -/
def Obligations.LinkUpSendsOneNoticePerBay : Prop :=
  ∀ s : State,
    (s.link = .up → exec .linkUp s = .next s) ∧
    (s.link = .down → ∃ chosen : BayId → Option AttentionKind,
      (∀ b k, chosen b = some k ↔
        kindPresent (s.attentionOf b) k = true ∧ channel s k ≠ 0 ∧
        ∀ l, kindPresent (s.attentionOf b) l = true → channel s l ≠ 0 → k.number ≤ l.number) ∧
      exec .linkUp s = .next { s with
        link := .up, taking := none
        sent := s.sent ++ allBays.filterMap fun b =>
          (chosen b).map fun k => .notice b (channel s k) (s.attentionOf b) })

/-! ### The wire -/

/-- DECODE AND ENCODE AGREE: the command that the code and the payload of a well-formed management command spell is that
command, with every operand at every value its field admits (R180, R181). The other way, the header of every frame the
bridge sends reads back as the kind, target, tag, key range, opcode, status, payload length, LBA and count that R180
gives that frame, and what follows the header is its payload (R180). The opcode and the length 0 of a passthrough
response and the LBA 0 of a reply are log 30; the header fields left out here are free values (log 3). -/
def Obligations.ManagementCommandsRoundTrip : Prop :=
  (∀ (i : Instr) (code : Byte) (payload : List Byte), i.wellFormed = true →
    encodeManagement i = some (code, payload) → managementInstr code payload = i) ∧
  (∀ (target : Nat) (tag : Tag) (opcode : Byte) (status : ResponseStatus) (sub : Bool), target < 32 →
    let bytes := (OutFrame.response target tag opcode status sub).bytes
    let code : Nat := match status with
      | .good => 0x00
      | .mediaError => 0x01
      | .deviceError => 0x02
      | .addressError => 0x03
      | .aborted => 0x04
      | .driveTimeout => 0x10
      | .bayAbsent => 0x11
      | .bayReset => 0x12
      | .key => 0x13
      | .policy => 0x14
      | .address => 0x15
      | .exposed => 0x16
      | .busy => 0x17
      | .holdExpired => 0x18
      | .tagInUse => 0x19
      | .absent => 0x1A
    ∃ h, frameHeader bytes = some h ∧ h.kind = 3 ∧ h.target = target ∧ h.tag = tag.val ∧ h.key < 16 ∧
      h.opcode = opcode ∧ h.status = (if sub then code + 0x80 else code) ∧ h.payloadLength = 0 ∧ bytes.drop 16 = []) ∧
  (∀ (tag : Tag) (op : Byte) (d : Disposition) (data : ReplyData), data.bytes.length < 2 ^ 16 →
    let bytes := (OutFrame.reply tag op d data).bytes
    ∃ h, frameHeader bytes = some h ∧ h.kind = 3 ∧ h.target = 31 ∧ h.tag = tag.val ∧ h.key = 0 ∧ h.opcode = op ∧
      h.status = (match d with
        | .accepted => 0x00
        | .busy => 0x17
        | .absent => 0x1A
        | .refused _ => 0x20) ∧
      h.lba = 0 ∧
      h.count = (match d, data with
        | .refused .badSlot, _ => 1
        | .refused .badProgram, _ => 2
        | .refused .range, _ => 3
        | .refused .state, _ => 4
        | .refused .inUse, _ => 5
        | .refused .bayNotReady, _ => 6
        | .refused .foreignDrive, _ => 7
        | .refused .nothingLatched, _ => 8
        | .accepted, .clampedPasses _ => 1
        | .accepted, .clampedActions _ => 1
        | _, _ => 0) ∧
      h.payloadLength = data.bytes.length ∧ bytes.drop 16 = data.bytes) ∧
  (∀ (b : BayId) (tag : Tag) (payload : List Byte), payload.length < 2 ^ 16 →
    let bytes := (OutFrame.data b tag payload).bytes
    ∃ h, frameHeader bytes = some h ∧ h.kind = 2 ∧ h.target = b.val ∧ h.tag = tag.val ∧ h.key < 16 ∧
      h.payloadLength = payload.length ∧ bytes.drop 16 = payload) ∧
  (∀ (b : BayId) (channel : Nat) (set : AttentionSet), channel < 8 →
    let bytes := (OutFrame.notice b channel set).bytes
    ∃ h, frameHeader bytes = some h ∧ h.kind = 4 ∧ h.target = b.val ∧ h.tag = 0 ∧ h.key < 16 ∧
      h.opcode.toNat = channel ∧ h.payloadLength = 2 ∧ bytes.length = 18 ∧ leNat (bytes.drop 16) = set.toNat) ∧
  (∀ set : AttentionSet, (ReplyData.attention set).bytes = leBytes 2 set.toNat) ∧
  (∀ passes : List Nat, (∀ n ∈ passes, n < 256) →
    (ReplyData.clampedPasses passes).bytes.map BitVec.toNat = passes) ∧
  (∀ (before : List ClampedAction) (e : ClampedAction) (after : List ClampedAction),
    ((ReplyData.clampedActions (before ++ e :: after)).bytes.drop (3 * before.length)).take 3 =
      [BitVec.ofNat 8 e.cls.number.val, if e.active then 1 else 0,
        match e.action with
        | .pass => 0
        | .refuse => 1
        | .substitute _ => 2
        | .fence => 3])

/-- A command frame is answered TAG_IN_USE and discarded where its tag is in use; else it takes its tag and is routed by
its target: 31 to the management queue, or BUSY where that holds 8, and 16 to 30 to nothing, answered ABSENT (R146,
R171). While the link is DOWN no frame arrives (R178), and bytes that spell no command frame are discarded (R180; those
shorter than a header by inference, log 19). The target and opcode of a TAG_IN_USE response are log 30. What becomes of
a frame for targets 0 to 15 is stated in PassthroughIsJudgedInFiveStages. -/
def Obligations.CommandFramesAreRouted : Prop :=
  ∀ (s : State) (bytes : List Byte),
    (commandFrameOf bytes = none → exec (.commandFrame bytes) s = .next s) ∧
    ∀ f, commandFrameOf bytes = some f →
      (s.link = .down → exec (.commandFrame bytes) s = .next s) ∧
      (s.link = .up →
        if s.tagInUse f.tag = true then
          exec (.commandFrame bytes) s = .next { s with
            sent := s.sent ++ [.response f.target f.tag f.header.opcode .tagInUse false] }
        else if f.target = 31 then
          if s.management.length < 8 then
            exec (.commandFrame bytes) s = .next { s with
              tags := put s.tags f.tag true
              management := s.management ++ [{ tag := f.tag, code := f.header.opcode, payload := f.payload }] }
          else
            exec (.commandFrame bytes) s = .next { s with
              sent := s.sent ++ [.reply f.tag f.header.opcode .busy .nothing] }
        else if 16 ≤ f.target then
          exec (.commandFrame bytes) s = .next { s with
            sent := s.sent ++ [.response f.target f.tag f.header.opcode .absent false] }
        else ∃ t, exec (.commandFrame bytes) s = .next t)

/-- A passthrough command is judged at its arrival through five stages in order: target, key, class, action, address. A
refusal is answered at once and frees the tag; a command that passes joins the capacity wait; a read that the fence
holds joins the hold queue, or is answered BUSY where that holds 16 (R147 to R157). -/
def Obligations.PassthroughIsJudgedInFiveStages : Prop :=
  ∀ (s : State) (bytes : List Byte) (f : CommandFrame) (b : BayId), commandFrameOf bytes = some f → f.target = b.val →
    s.link = .up → s.tagInUse f.tag = false →
    let c : PassCommand :=
      { tag := f.tag, bay := b, key := f.header.key, opcode := f.header.opcode, lba := f.header.lba,
        count := f.header.count, payload := f.header.payloadLength, arrival := s.stamp, holdTime := none,
        holdPast := false }
    let answered (x : ResponseStatus) : Host.Outcome State Fault Refusal :=
      .next { s with sent := s.sent ++ [.response b.val f.tag f.header.opcode x false], stamp := s.stamp + 1 }
    let waits : Host.Outcome State Fault Refusal :=
      .next { s with tags := put s.tags f.tag true, wait := insertByArrival c s.wait, stamp := s.stamp + 1 }
    let cls := opcodeClass s f.header.opcode
    let checked (o : Host.Outcome State Fault Refusal) : Prop :=
      if (cls = .read ∨ cls = .write ∨ cls = .trim) ∧ bayCapacity s b < f.header.lba + f.header.count then
        o = answered .address
      else o = waits
    let zones := zonesTouched (s.map b).z f.header.lba f.header.count
    if (s.port b).state ≠ .ready then exec (.commandFrame bytes) s = answered .bayAbsent
    else if f.header.key ≠ bayKey s b then exec (.commandFrame bytes) s = answered .key
    else
      match actionFor s b cls with
      | .refuse => exec (.commandFrame bytes) s = answered .policy
      | .substitute _ => exec (.commandFrame bytes) s = waits
      | .pass => checked (exec (.commandFrame bytes) s)
      | .fence =>
        if ∃ i ∈ zones, (zoneAnswer s b i).1 = .untouched ∨ (zoneAnswer s b i).1 = .failed ∨
            (zoneAnswer s b i).1 = .mismatched then exec (.commandFrame bytes) s = answered .exposed
        else if ∃ i ∈ zones, (zoneAnswer s b i).1 = .writing ∨ 0 < (zoneAnswer s b i).2 then
          if s.hold.length < 16 then
            exec (.commandFrame bytes) s = .next { s with
              tags := put s.tags f.tag true, stamp := s.stamp + 2
              hold := insertByArrival { c with holdTime := some (s.stamp + 1) } s.hold }
          else exec (.commandFrame bytes) s = answered .busy
        else checked (exec (.commandFrame bytes) s)

/-- A data frame's payload goes to the slot of the issued command that asked for it on its tag, as far as the announced
number of bytes reaches; on any other tag, and while the link is DOWN, it is discarded (R155, R178). A malformed frame
is discarded without a response and without taking its tag (R180), and the refusal of an abort changes nothing: the
record stays ABORTING with its T2 running (R109, R113). The bytes stand in the slot until the drive takes them (the
model's choice, log 17); a data frame that is too short or bears a tag above 63 is discarded by inference (log 19). -/
def Obligations.DataFramesFillTheirSlot : Prop :=
  ∀ (s : State) (bytes : List Byte),
    exec (.invalidFrame bytes) s = .next s ∧ (∀ (b : BayId) (id : Nat), exec (.abortRefusal b id) s = .next s) ∧
    (dataFrameOf bytes = none → exec (.dataFrame bytes) s = .next s) ∧
    ∀ f, dataFrameOf bytes = some f →
      (s.link = .down → exec (.dataFrame bytes) s = .next s) ∧
      ((∀ b, ∀ r ∈ (s.port b).queue, awaitsPayload f.tag r = false) → exec (.dataFrame bytes) s = .next s) ∧
      ∀ (b : BayId) (r : Record) (k : SlotId), s.link = .up → r ∈ (s.port b).queue → awaitsPayload f.tag r = true →
        r.slot = some k →
        (∀ d, ∀ q ∈ (s.port d).queue, awaitsPayload f.tag q = true → d = b ∧ q = r) →
        let x := s.slot k
        exec (.dataFrame bytes) s = .next (s.putSlot k { x with
          staged := x.staged ++ f.payload.take (r.request.payloadUnits * 512 - (x.moved + x.staged.length)) })

/-- What the filter reads of a bay: with an active job, that job's key, the ACTIVE column of the bay's profile, and its
own map's zones; with none, key 0, the IDLE column, and every zone as UNTOUCHED (R4, R100, R148, R150). -/
def Obligations.FilterReadsTheActiveJob : Prop :=
  ∀ (s : State) (b : BayId),
    (∀ j, OneActiveJob s → (s.job j).state.active = true → (s.job j).bay = b →
      bayKey s b = (s.job j).key ∧
      (∀ cls : OpClass, actionFor s b cls = (bayProfile s b).active[cls.number]) ∧
      ∀ i, zoneAnswer s b i =
        if (s.map b).owner = some j ∧ i < (s.map b).zn then ((s.zone b i).state, (s.zone b i).out)
        else (.untouched, 0)) ∧
    ((∀ j, (s.job j).state.active = true → (s.job j).bay ≠ b) →
      bayKey s b = 0 ∧
      (∀ cls : OpClass, actionFor s b cls = (bayProfile s b).idle[cls.number]) ∧
      ∀ i, zoneAnswer s b i = (.untouched, 0))

/-! ### Tables and settings -/

/-- The clock and the bridge's identity: SET CLOCK sets the clock, a second raises it by 1 and wraps it to 0, IDENTIFY
BRIDGE replies with the bridge's seven fixed figures and its three live values (R173), and a code or payload that spells
no command is refused with RANGE (R172). -/
def Obligations.ClockAndIdentityCommands : Prop :=
  ∀ (s : State) (c : ManagementCommand) (rest : List ManagementCommand),
    (∀ v, AtFront s c rest (.setClock v) → exec (.setClock v) s = .next (accepted { s with clock := v } c rest)) ∧
    (∃ t, exec .clockSecond s = .next t ∧ t = { s with clock := t.clock } ∧
      t.clock.toNat = if s.clock.toNat = 2 ^ 32 - 1 then 0 else s.clock.toNat + 1) ∧
    (AtFront s c rest .identifyBridge →
      exec .identifyBridge s = .next (replied s c rest .accepted
        (.bridge { family := "ULPACE-WX16", revision := 3, bays := 16, jobSlots := 24, programs := 8
                   extentWords := 4096, certificates := 32, clock := s.clock, runCounter := s.runCounter
                   stored := s.store.length }))) ∧
    (∀ code payload, AtFront s c rest (.unknownCommand code payload) →
      exec (.unknownCommand code payload) s = refusal s c rest .range)

/-- LOAD CLASS MAP replaces the entries it carries and no other, or with a first opcode, a count or a class out of range
leaves the map as it was (R149). -/
def Obligations.LoadClassMapReplacesItsEntries : Prop :=
  ∀ (s : State) (c : ManagementCommand) (rest : List ManagementCommand) (first count : Nat) (classes : List Nat),
    AtFront s c rest (.loadClassMap first count classes) →
    if first ≤ 255 ∧ 1 ≤ count ∧ first + count ≤ 256 ∧ ∀ n ∈ classes, n < 12 then
      ∃ m, exec (.loadClassMap first count classes) s =
          .next (accepted { s with tables := { s.tables with classMap := m } } c rest) ∧
        ∀ o : Fin 256,
          if first ≤ o.val ∧ o.val < first + count then classes[o.val - first]? = some m[o].number.val
          else m[o] = s.tables.classMap[o]
    else exec (.loadClassMap first count classes) s = refusal s c rest .range

/-- LOAD POLICY replaces one profile, its entries brought within the protections: FENCE becomes REFUSE for any class but
READ and PASS for READ in the IDLE column, and an ACTIVE PASS or SUBSTITUTE of a write-class class becomes REFUSE. The
clamp note names exactly the entries that were clamped. A profile or an entry out of range is refused (R151). -/
def Obligations.LoadPolicyClampsAndReplaces : Prop :=
  ∀ (s : State) (c : ManagementCommand) (rest : List ManagementCommand) (image : PolicyImage),
    AtFront s c rest (.loadPolicy image) →
    let legal (a : ActionImage) : Prop := a.action < 4 ∧ (a.action = 2 → 2 ≤ a.substitute ∧ a.substitute ≤ 4)
    (¬ (image.profile < 4 ∧ ∀ a ∈ image.actions, legal a) →
      exec (.loadPolicy image) s = refusal s c rest .range) ∧
    ∀ n : Fin 4, n.val = image.profile → (∀ a ∈ image.actions, legal a) →
      ∃ (p : Profile) (sent : OpClass → Bool → Action) (note : List ClampedAction),
        exec (.loadPolicy image) s = .next (replied
          { s with tables := { s.tables with profiles := put s.tables.profiles n p } } c rest .accepted
          (if note = [] then .nothing else .clampedActions note)) ∧
        p.identifyOpcode = image.identifyOpcode ∧ p.healthOpcode = image.healthOpcode ∧
        p.flushOpcode = image.flushOpcode ∧
        (∀ cls active, (image.actions[2 * cls.number.val + if active then 1 else 0]?).bind actionOf =
          some (sent cls active)) ∧
        (∀ cls, p.idle[cls.number] =
          if sent cls false = .fence then (if cls = .read then .pass else .refuse) else sent cls false) ∧
        (∀ cls, p.active[cls.number] =
          if cls.writeClass = true ∨ (sent cls true = .fence ∧ cls ≠ .read) then .refuse else sent cls true) ∧
        ∀ e : ClampedAction, e ∈ note ↔
          e.action = (if e.active then p.active[e.cls.number] else p.idle[e.cls.number]) ∧
          e.action ≠ sent e.cls e.active

/-- ASSIGN PROFILE assigns one bay's profile (R150). SET NOTICE ROUTING replaces the whole routing table (R176). SET BAY
PARAMETERS writes the four values into the named bay, or into every bay for ALL (255), and the debounce time into the
bridge (R141, R174). Each is refused with RANGE where a number is out of range, and nothing changes. -/
def Obligations.SettingsOfTheBays : Prop :=
  ∀ (s : State) (c : ManagementCommand) (rest : List ManagementCommand),
    (∀ (b : BayId) (p : Fin 4), AtFront s c rest (.assignProfile b.val p.val) →
      exec (.assignProfile b.val p.val) s =
        .next (accepted { s with tables := { s.tables with assignment := put s.tables.assignment b p } } c rest)) ∧
    (∀ bay profile, AtFront s c rest (.assignProfile bay profile) → 16 ≤ bay ∨ 4 ≤ profile →
      exec (.assignProfile bay profile) s = refusal s c rest .range) ∧
    (∀ channels, AtFront s c rest (.setNoticeRouting channels) →
      if ∀ n ∈ channels, n ≤ 7 then
        ∃ v : Vector (Fin 8) 10, (∀ k : Fin 10, channels[k.val]? = some v[k].val) ∧
          exec (.setNoticeRouting channels) s =
            .next (accepted { s with tables := { s.tables with routing := v } } c rest)
      else exec (.setNoticeRouting channels) s = refusal s c rest .range) ∧
    ∀ p : ParameterImage,
      AtFront s c rest (.setBayParameters p) →
      if (p.bay < 16 ∨ p.bay = 255) ∧ (1 ≤ p.depth ∧ p.depth ≤ 4) ∧ (500 ≤ p.dataT1 ∧ p.dataT1 ≤ 60000) ∧
          (1 ≤ p.nativeT1 ∧ p.nativeT1 ≤ 1440) ∧ (500 ≤ p.t2 ∧ p.t2 ≤ 60000) ∧ p.debounce ∈ [0, 16, 64, 256] then
        exec (.setBayParameters p) s = .next (accepted { s with tables := { s.tables with
          debounceTime := p.debounce
          parameters := Vector.ofFn fun b : BayId =>
            if p.bay = 255 ∨ b.val = p.bay then
              { depth := p.depth, dataT1 := p.dataT1, nativeT1 := p.nativeT1, t2 := p.t2 }
            else s.tables.parameters[b] } } c rest)
      else exec (.setBayParameters p) s = refusal s c rest .range

/-- A program is well formed exactly when it has 1 to 8 passes, every used field of every pass holds a value its
encoding allows, every retry limit is at most 7, the reference of every VERIFY is the latest writing pass before it (so
that pass 0 is no VERIFY), and a NATIVE_ERASE expects ZERO or ONES (R28, R30; a field unused for the kind is accepted in
any encoding, log 11). -/
def Obligations.WellFormedPrograms : Prop :=
  ∀ passes : List PassImage, programWellFormed passes = true ↔
    (1 ≤ passes.length ∧ passes.length ≤ 8) ∧
    ∀ (i : Nat) (p : PassImage), passes[i]? = some p →
      p.kind ≤ 2 ∧ p.retry ≤ 7 ∧ p.chain ≤ 1 ∧
      (p.kind = 0 → p.pattern ≤ 3 ∧ p.direction ≤ 1 ∧ p.grain ≤ 2) ∧
      (p.kind = 1 → p.direction ≤ 1 ∧ p.grain ≤ 2 ∧ p.reference < i ∧
        (∀ q : PassImage, passes[p.reference]? = some q → q.kind ≠ 1) ∧
        ∀ (k : Nat) (q : PassImage), p.reference < k → k < i → passes[k]? = some q → q.kind = 1) ∧
      (p.kind = 2 → p.pattern ≤ 1)

/-- LOAD PROGRAM checks the program number, then that no active job refers to the program, then that the descriptors
are well formed; accepted, it replaces the program with every VERIFY density above 64 stored as 64, and the clamp note
lists the passes it clamped (R29). -/
def Obligations.LoadProgramChecksAndReplaces : Prop :=
  ∀ (s : State) (c : ManagementCommand) (rest : List ManagementCommand) (program count : Nat)
    (passes : List PassImage), AtFront s c rest (.loadProgram program count passes) →
    let high (p : PassImage) : Bool := decide (p.kind = 1 ∧ 64 < p.density)
    (8 ≤ program → exec (.loadProgram program count passes) s = refusal s c rest .range) ∧
    ∀ n : ProgramId, n.val = program →
      if ∃ j, (s.job j).state.active = true ∧ (s.job j).program = n then
        exec (.loadProgram program count passes) s = refusal s c rest .inUse
      else if programWellFormed passes = false then
        exec (.loadProgram program count passes) s = refusal s c rest .badProgram
      else
        let note := (List.range passes.length).filter fun i => passes[i]?.any high
        exec (.loadProgram program count passes) s = .next (replied
          { s with tables := { s.tables with
            programs := put s.tables.programs n
              (some (passes.map fun p => if high p then { p with density := 64 } else p)) } } c rest .accepted
          (if note = [] then .nothing else .clampedPasses note))

/-- LOAD EXTENTS is refused with RANGE for indices out of range, then with IN_USE where an active job names a word it
would write; accepted, it writes every word it carries at consecutive indices, judging none of them, and no other word
of the canonical memory reads otherwise than before (R53, R54). -/
def Obligations.LoadExtentsWritesItsWords : Prop :=
  ∀ (s : State) (c : ManagementCommand) (rest : List ManagementCommand) (first count : Nat) (words : List ExtentWord),
    AtFront s c rest (.loadExtents first count words) →
    let inUse (i : Nat) : Prop := ∃ j, (s.job j).state.active = true ∧ 1 ≤ (s.job j).extentCount ∧
      (s.job j).extentFirst ≤ i ∧ i ≤ (s.job j).extentFirst + (s.job j).extentCount - 1
    let inRange : Prop := first ≤ 4095 ∧ 1 ≤ count ∧ count ≤ 256 ∧ first + count ≤ 4096
    (¬ inRange → exec (.loadExtents first count words) s = refusal s c rest .range) ∧
    (inRange → (∃ i, first ≤ i ∧ i ≤ first + count - 1 ∧ inUse i) →
      exec (.loadExtents first count words) s = refusal s c rest .inUse) ∧
    (inRange → (∀ i, first ≤ i → i ≤ first + count - 1 → ¬ inUse i) →
      ∃ m, exec (.loadExtents first count words) s =
          .next (accepted { s with tables := { s.tables with extents := m } } c rest) ∧
        (extentsCanonical s.tables.extents = true → ∀ i,
          if first ≤ i ∧ i < first + count then words[i - first]? = some (readExtent m i)
          else readExtent m i = readExtent s.tables.extents i))

/-! ### Jobs -/

/-- LOAD JOB checks its fields in the order of R2's table, the first that fails giving the reason; accepted, the slot is
LOADED with the loaded fields of the command and every runtime field at its load value (R1, R2, R3, R4). That the entry
to LOADED from FREE judges the bay's held reads again is an inference (log 13), and that the reply stands in front of
the responses to them is the model's choice (log 9). -/
def Obligations.LoadJobWritesTheRecord : Prop :=
  ∀ (s : State) (c : ManagementCommand) (rest : List ManagementCommand) (x : JobImage),
    AtFront s c rest (.loadJob x) →
    (24 ≤ x.slot → exec (.loadJob x) s = refusal s c rest .badSlot) ∧
    ∀ j : JobId, j.val = x.slot →
      if (s.job j).state ≠ .free ∧ (s.job j).state ≠ .loaded then exec (.loadJob x) s = refusal s c rest .state
      else if 16 ≤ x.bay ∨ x.key = 0 ∨ 15 < x.key ∨ 8 ≤ x.program then
        exec (.loadJob x) s = refusal s c rest .range
      else if s.tables.programs[x.program]? = some none then exec (.loadJob x) s = refusal s c rest .badProgram
      else if 4095 < x.extentFirst ∨ 4096 < x.extentFirst + x.extentCount ∨ x.stripeRequest = 0 ∨
          65535 < x.stripeRequest ∨ 1024 < x.tolerance ∨ 16 < x.labelLength then
        exec (.loadJob x) s = refusal s c rest .range
      else
        ∃ (t : State) (b : BayId) (p : ProgramId), b.val = x.bay ∧ p.val = x.program ∧
          exec (.loadJob x) s = .next t ∧
          AfterRejudging b ((accepted s c rest).putJob j
            { state := .loaded, bay := b, key := x.key, program := p, extentFirst := x.extentFirst
              extentCount := x.extentCount, stripeRequest := x.stripeRequest, tolerance := x.tolerance
              label := x.label.take x.labelLength, haltReason := none, outcome := none, passIndex := 0
              passComplete := false, latch := false, unitActive := false, run := none, identity := none
              geometry := none, stripeClamped := false, extentClamped := false, badZones := 0, mismatched := 0
              failedStripes := 0, startTime := none, passEnds := List.replicate 8 none, closeTime := none
              startError := none, permille := 0, closeOrder := 0 }) t

/-- START takes a LOADED job into the active group: refused with STATE for a slot that is not LOADED, with BUSY where
the bay has an active job; else the last start error is cleared and the job waits for its bay, or with the bay READY
prepares, and with no write outstanding at the drive goes on through the stages that take no time (R5, R7, R8). The
bay's held reads are judged again at each change of the job's state (R4, R158): once as it begins to wait or to prepare,
and once more as the scan begins or the preparation fails. That the reply stands in front of the responses to them, and
they in front of START_REFUSED, is the model's choice (log 9). -/
def Obligations.StartWaitsOrPrepares : Prop :=
  ∀ (s : State) (c : ManagementCommand) (rest : List ManagementCommand) (slot : Nat), AtFront s c rest (.start slot) →
    (24 ≤ slot → exec (.start slot) s = refusal s c rest .badSlot) ∧
    ∀ j : JobId, j.val = slot →
      let x := s.job j
      if x.state ≠ .loaded then exec (.start slot) s = refusal s c rest .state
      else if ∃ k, (s.job k).state.active = true ∧ (s.job k).bay = x.bay then
        exec (.start slot) s = .next (replied s c rest .busy .nothing)
      else
        ∃ t, exec (.start slot) s = .next t ∧
          if (s.port x.bay).state ≠ .ready then
            Reported x.bay ((accepted s c rest).putJob j { x with startError := none, state := .waitingBay }) t
          else
            let u := (accepted s c rest).putJob j { x with startError := none, state := .preparing .draining }
            if WriteOutstanding (s.port x.bay) ∨ (s.port x.bay).identity = none then Reported x.bay u t
            else ∀ d, (s.port x.bay).identity = some d → PreparationFollows j d u t ∧ JudgedTwice x.bay u t

/-- TRIGGER sets the latch of a job that is RUNNING, DRAINING, PAUSED or HALTED, or finds it set and is answered BUSY.
In WAITING(TRIGGER) the job enters RUNNING and a unit begins, or past the end of a pass a later pass does. In any other
state it is refused with STATE (R11, R12, R14). The unit end is the one the grain gives (R38). That the reply stands in
front of the frames the trigger sets going is the model's choice (log 9). -/
def Obligations.TriggerLatchesOrBegins : Prop :=
  ∀ (s : State) (c : ManagementCommand) (rest : List ManagementCommand) (slot : Nat),
    AtFront s c rest (.trigger slot) →
    (24 ≤ slot → exec (.trigger slot) s = refusal s c rest .badSlot) ∧
    ∀ j : JobId, j.val = slot →
      let x := s.job j
      let latches : Prop :=
        (x.latch = true → exec (.trigger slot) s = .next (replied s c rest .busy .nothing)) ∧
        (x.latch = false → exec (.trigger slot) s = .next ((accepted s c rest).putJob j { x with latch := true }))
      let begins : Prop :=
        ∃ t, exec (.trigger slot) s = .next t ∧ (∀ k, k ≠ j → t.job k = s.job k) ∧
          (accepted s c rest).sent <+: t.sent ∧
          (x.passComplete = false →
            AfterRejudging x.bay { (accepted s c rest).putJob j { x with state := .running, unitActive := true } with
              walk := t.walk } t ∧
            (∀ b, b ≠ x.bay → t.context b = s.context b) ∧
            t.context x.bay = (s.context x.bay).map fun w => { w with unitEnd := unitEndNow s x w }) ∧
          (x.passComplete = true → (s.program x.program).length ≤ 8 →
            x.passIndex + 1 < (s.program x.program).length →
            x.passIndex < (t.job j).passIndex ∧ (t.job j).passIndex < (s.program x.program).length ∧
            (((t.job j).state = .running ∧ (t.job j).unitActive = true ∧ (t.job j).passComplete = false) ∨
              ((t.job j).passComplete = true ∧
                ((t.job j).state = .waitingTrigger ∨ (t.job j).state = .finishing))))
      let refused : Prop := exec (.trigger slot) s = refusal s c rest .state
      match x.state with
      | .waitingTrigger => begins
      | .running => latches
      | .draining _ => latches
      | .paused => latches
      | .halted => latches
      | .free => refused
      | .loaded => refused
      | .waitingBay => refused
      | .preparing _ => refused
      | .finishing => refused
      | .closed => refused

/-- CANCEL TRIGGER clears a set latch in RUNNING, DRAINING, PAUSED and HALTED; with the latch clear it is refused with
NOTHING_LATCHED, and in any other state with STATE (R13). RELEASE makes a CLOSED job FREE and touches neither the map
nor the store; in any other state it is refused with STATE (R24). The values of the FREE job's record are the model's
(log 24), and that its bay's held reads are judged again is an inference (log 13); that the reply stands in front of the
responses to them is the model's choice (log 9). -/
def Obligations.CancelTriggerAndRelease : Prop :=
  ∀ (s : State) (c : ManagementCommand) (rest : List ManagementCommand) (slot : Nat),
    (AtFront s c rest (.release slot) →
      (24 ≤ slot → exec (.release slot) s = refusal s c rest .badSlot) ∧
      ∀ j : JobId, j.val = slot →
        if (s.job j).state = .closed then
          ∃ t, exec (.release slot) s = .next t ∧
            Reported (s.job j).bay ((accepted s c rest).putJob j Job.free) t
        else exec (.release slot) s = refusal s c rest .state) ∧
    (AtFront s c rest (.cancelTrigger slot) →
      (24 ≤ slot → exec (.cancelTrigger slot) s = refusal s c rest .badSlot) ∧
      ∀ j : JobId, j.val = slot →
        let x := s.job j
        let withdraws : Prop :=
          (x.latch = true →
            exec (.cancelTrigger slot) s = .next ((accepted s c rest).putJob j { x with latch := false })) ∧
          (x.latch = false → exec (.cancelTrigger slot) s = refusal s c rest .nothingLatched)
        let refused : Prop := exec (.cancelTrigger slot) s = refusal s c rest .state
        match x.state with
        | .running => withdraws
        | .draining _ => withdraws
        | .paused => withdraws
        | .halted => withdraws
        | .free => refused
        | .loaded => refused
        | .waitingBay => refused
        | .waitingTrigger => refused
        | .preparing _ => refused
        | .finishing => refused
        | .closed => refused)

/-- PAUSE takes a RUNNING job into DRAINING(PAUSED), or with nothing in flight into PAUSED at once, and a
WAITING(TRIGGER) job into PAUSED at once; the position to restart at is recorded at the entry to PAUSED. In any other
state it is refused with STATE (R15, R16, R47). That the reply stands in front of the responses to held reads judged
again is the model's choice (log 9). -/
def Obligations.PauseDrainsOrStops : Prop :=
  ∀ (s : State) (c : ManagementCommand) (rest : List ManagementCommand) (slot : Nat), AtFront s c rest (.pause slot) →
    (24 ≤ slot → exec (.pause slot) s = refusal s c rest .badSlot) ∧
    ∀ j : JobId, j.val = slot →
      let x := s.job j
      if x.state = .running ∧ s.list x.bay ≠ [] then
        ∃ t, exec (.pause slot) s = .next t ∧
          Reported x.bay ((accepted s c rest).putJob j { x with state := .draining .paused }) t
      else if x.state = .running ∨ x.state = .waitingTrigger then
        ∃ t, exec (.pause slot) s = .next t ∧
          Reported x.bay (((accepted s c rest).putJob j { x with state := .paused }).putContext x.bay
            ((s.context x.bay).map fun w => { w with resumeCursor := some (restartAt s x w) })) t
      else exec (.pause slot) s = refusal s c rest .state

/-- RESUME checks that the job is PAUSED or HALTED, that its bay is READY and that the drive is the recorded one. The
job then continues its unit from the resume cursor, or begins on a latched trigger with the unit end its grain gives, or
waits for one (R19, R38, R48). That the reply stands in front of the frames the resumption sets going is the model's
choice (log 9). -/
def Obligations.ResumeRestartsTheJob : Prop :=
  ∀ (s : State) (c : ManagementCommand) (rest : List ManagementCommand) (slot : Nat), AtFront s c rest (.resume slot) →
    (24 ≤ slot → exec (.resume slot) s = refusal s c rest .badSlot) ∧
    ∀ j : JobId, j.val = slot →
      let x := s.job j
      let resumed (w : WalkContext) : WalkContext :=
        { w with cursor := w.resumeCursor.getD w.cursor, resumeCursor := none }
      if x.state ≠ .paused ∧ x.state ≠ .halted then exec (.resume slot) s = refusal s c rest .state
      else if (s.port x.bay).state ≠ .ready then exec (.resume slot) s = refusal s c rest .bayNotReady
      else if ¬ ∃ d ∈ (s.port x.bay).identity, x.identity =
          some { serial := d.serial, capacity := d.capacity, sectorSize := d.sectorSize } then
        exec (.resume slot) s = refusal s c rest .foreignDrive
      else
        ∃ t, exec (.resume slot) s = .next t ∧ (∀ k, k ≠ j → t.job k = s.job k) ∧
          (accepted s c rest).sent <+: t.sent ∧
          (x.unitActive = true →
            AfterRejudging x.bay (((accepted s c rest).putJob j
              { x with state := .running, haltReason := none }).putContext x.bay
                ((s.context x.bay).map resumed)) t) ∧
          (x.unitActive = false → x.latch = false →
            AfterRejudging x.bay ((accepted s c rest).putJob j
              { x with state := .waitingTrigger, haltReason := none }) t) ∧
          (x.unitActive = false → x.latch = true → x.passComplete = false →
            AfterRejudging x.bay { (accepted s c rest).putJob j
              { x with state := .running, haltReason := none, latch := false, unitActive := true } with
                walk := t.walk } t ∧
            (∀ b, b ≠ x.bay → t.context b = s.context b) ∧
            t.context x.bay = (s.context x.bay).map fun w =>
              { resumed w with unitEnd := unitEndNow s x (resumed w) }) ∧
          (x.unitActive = false → x.latch = true → x.passComplete = true → (s.program x.program).length ≤ 8 →
            x.passIndex + 1 < (s.program x.program).length →
            (t.job j).haltReason = none ∧ (t.job j).latch = false ∧ x.passIndex < (t.job j).passIndex ∧
            (((t.job j).state = .running ∧ (t.job j).unitActive = true ∧ (t.job j).passComplete = false) ∨
              ((t.job j).passComplete = true ∧
                ((t.job j).state = .waitingTrigger ∨ (t.job j).state = .finishing))))

/-- CANCEL frees a job that has no run, closes one that has stopped with outcome CANCELLED, and lets a running or
draining one drain into FINISHING; it is refused with STATE in FREE, FINISHING, CLOSED and where an outcome is already
fixed. A scan that had begun leaves the map cleared (R9, R16, R17, R20, R166). What a drain toward HALTED does is
log 31, the record of the freed job log 24, and the reply in front of the answers and notices log 9. -/
def Obligations.CancelEndsTheJob : Prop :=
  ∀ (s : State) (c : ManagementCommand) (rest : List ManagementCommand) (slot : Nat), AtFront s c rest (.cancel slot) →
    (24 ≤ slot → exec (.cancel slot) s = refusal s c rest .badSlot) ∧
    ∀ j : JobId, j.val = slot →
      let x := s.job j
      let ok := accepted s c rest
      let finished : State := ((ok.putJob j (closing x .cancelled)).putContext x.bay none).putBuilding
        (s.building ++ [{ slot := j, record := none }])
      let becomes (u : State) : Prop := ∃ t, exec (.cancel slot) s = .next t ∧ AfterRejudging x.bay u t
      match x.state with
      | .loaded => becomes (ok.putJob j Job.free)
      | .waitingBay => becomes (disown (ok.putJob j Job.free) x.bay j)
      | .preparing .draining => becomes (disown (ok.putJob j Job.free) x.bay j)
      | .preparing (.scanning _ _) => becomes ((ok.putJob j Job.free).putMap x.bay CoverageMap.cleared)
      | .running =>
        if s.list x.bay = [] then becomes finished
        else becomes (ok.putJob j { x with state := .draining (.finishing .cancelled) })
      | .draining .paused =>
        if s.list x.bay = [] then becomes finished
        else becomes (ok.putJob j { x with state := .draining (.finishing .cancelled) })
      | .draining (.halted _) =>
        if s.list x.bay = [] then becomes finished
        else becomes (ok.putJob j { x with state := .draining (.finishing .cancelled) })
      | .draining (.finishing _) => exec (.cancel slot) s = refusal s c rest .state
      | .waitingTrigger => becomes finished
      | .paused => becomes finished
      | .halted => becomes finished
      | .free => exec (.cancel slot) s = refusal s c rest .state
      | .finishing => exec (.cancel slot) s = refusal s c rest .state
      | .closed => exec (.cancel slot) s = refusal s c rest .state

/-! ### Reading -/

/-- READ JOB STATUS and READ BAY STATUS are accepted in every state, carry what their rules list as it stands at that
moment, the number of slots each bay owns in either part of the pool among it, and change nothing else; a slot above 23
is refused with BAD_SLOT, a bay above 15 with RANGE (R1, R26, R111, R129, R145). That one reply carries the queue and
slot figures of all sixteen bays is log 29. -/
def Obligations.StatusRepliesCarryTheRecords : Prop :=
  ∀ (s : State) (c : ManagementCommand) (rest : List ManagementCommand) (n : Nat),
    (AtFront s c rest (.readJobStatus n) →
      (24 ≤ n → exec (.readJobStatus n) s = refusal s c rest .badSlot) ∧
      ∀ j : JobId, j.val = n → exec (.readJobStatus n) s = .next (replied s c rest .accepted (.jobStatus
        (if (s.job j).state = .free then { state := .free, record := none, inFlight := none }
         else { state := (s.job j).state, record := some (s.job j)
                inFlight := some (s.list (s.job j).bay).length })))) ∧
    (AtFront s c rest (.readBayStatus n) →
      (16 ≤ n → exec (.readBayStatus n) s = refusal s c rest .range) ∧
      ∀ b : BayId, b.val = n → ∃ r : BayReport,
        exec (.readBayStatus n) s = .next (replied s c rest .accepted (.bayStatus r)) ∧
        let p := s.port b
        r.state = p.state ∧ r.fault = p.fault ∧ r.rejected = p.rejected ∧
        (r.present = true ↔ p.state ≠ .empty ∧ p.state ≠ .seating) ∧ (r.debouncing = true ↔ p.debounce ≠ none) ∧
        r.identity = p.identity ∧ r.attempts = p.attempts ∧ r.lastReset = p.lastReset ∧
        r.parameters = s.parameters b ∧ r.debounceTime = s.tables.debounceTime ∧ r.shown = p.shown ∧
        (r.overridden = true ↔ p.override ≠ none) ∧ r.grantPointer = s.grantPointer ∧
        (∀ d : BayId, ∃ q : QueueReport, r.queues[d.val]? = some q ∧
          q.engineRecords = ((s.port d).queue.filter fun x => decide (x.origin = .engine)).length ∧
          q.passthroughRecords = ((s.port d).queue.filter fun x => decide (x.origin = .passthrough)).length ∧
          q.abortingRecords = ((s.port d).queue.filter fun x => decide (x.status = .aborting)).length ∧
          (q.stalled = true ↔ q.abortingRecords ≠ 0)) ∧
        r.freePassthroughSlots = ((List.finRange 32).filter fun k : SlotId =>
          decide (k.val < 8 ∧ (s.slot k).owner = .free)).length ∧
        r.freeEngineSlots = ((List.finRange 32).filter fun k : SlotId =>
          decide (8 ≤ k.val ∧ (s.slot k).owner = .free)).length ∧
        r.queues.length = 16 ∧ r.ownedSlots.length = 16 ∧
        ∀ d : BayId, r.ownedSlots[d.val]? = some
          (((List.finRange 32).filter fun k : SlotId => decide (8 ≤ k.val) && match (s.slot k).owner with
              | .engine c _ => decide (c = d)
              | .passthrough _ _ _ => false
              | .free => false).length,
           ((List.finRange 32).filter fun k : SlotId => decide (k.val < 8) && match (s.slot k).owner with
              | .passthrough c _ _ => decide (c = d)
              | .engine _ _ => false
              | .free => false).length))

/-- READ COVERAGE refuses a bay above 15, a first index above 1023 and a count of 0 or above 64 with RANGE. Otherwise it
is accepted in every state and carries the header and, in ascending order, the entries from the first index up to the
lesser of first index + count and Zn; reading changes nothing (R101). READ CERTIFICATE returns the record with the
lowest run number, or the one that bears the run number named, with the number of stored and of waiting records; with no
such record in the store, or another selector, it is refused with RANGE. Reading removes nothing (R169). The bytes of
the two replies carry every field at its offset in the layouts of R182; a number field that the record has none for (an
end time, a close time, the run number of a cleared map) is left out here (log 3). -/
def Obligations.ReadsOfMapsAndCertificates : Prop :=
  (∀ (stored waiting : Nat) (r : CertificateRecord), stored < 256 → waiting < 256 →
    r.label.length ≤ 16 → r.serial.length ≤ 20 → r.capacity < 2 ^ 48 → r.sectorSize < 2 ^ 16 → r.passes.length ≤ 8 →
    r.extentCount < 2 ^ 16 → r.z < 256 → r.sEff < 2 ^ 16 → r.zn < 2 ^ 16 → r.zoneCounts.length = 7 →
    (∀ n ∈ r.zoneCounts, n < 2 ^ 16) → r.mismatched < 2 ^ 32 → r.failedStripes < 2 ^ 32 →
    (∀ p ∈ r.passes, p.pattern < 256 ∧ p.direction < 256 ∧ p.density < 256) →
    let reply := (ReplyData.certificate stored waiting r).bytes
    let bytes := reply.drop 2
    reply.length = 194 ∧ field reply 0 1 = stored ∧ field reply 1 1 = waiting ∧
    field bytes 0 4 = r.run.toNat ∧ field bytes 4 1 = r.slot.val ∧ field bytes 5 1 = r.bay.val ∧
    field bytes 6 1 = (match r.outcome with
      | .certified => 0
      | .unverified => 1
      | .rejected => 2
      | .cancelled => 3) ∧
    field bytes 7 1 = r.label.length ∧
    (bytes.drop 8).take 16 = r.label ++ List.replicate (16 - r.label.length) 0 ∧
    (bytes.drop 24).take 20 = r.serial ++ List.replicate (20 - r.serial.length) 0 ∧
    field bytes 44 6 = r.capacity ∧ field bytes 50 2 = r.sectorSize ∧ field bytes 52 1 = r.program.val ∧
    field bytes 53 1 = r.passes.length ∧ field bytes 54 2 = r.extentCount ∧
    field bytes 56 1 = (if r.extentClamped then 1 else 0) + (if r.stripeClamped then 2 else 0) ∧
    field bytes 57 1 = r.z ∧ field bytes 58 2 = r.sEff ∧ field bytes 60 2 = r.zn ∧
    (∀ i n, r.zoneCounts[i]? = some n → field bytes (62 + 2 * i) 2 = n) ∧
    field bytes 76 4 = r.mismatched ∧ field bytes 80 4 = r.failedStripes ∧ field bytes 84 4 = r.startTime.toNat ∧
    (∀ t, r.closeTime = some t → field bytes 88 4 = t.toNat) ∧ field bytes 92 4 = r.digest.toNat ∧
    (∀ i p, r.passes[i]? = some p →
      field bytes (96 + 12 * i) 1 = (match p.kind with
        | .overwrite => 0
        | .verify => 1
        | .nativeErase => 2) + (if p.endTime = none then 0 else 0x80) ∧
      field bytes (97 + 12 * i) 1 = p.pattern ∧ field bytes (98 + 12 * i) 1 = p.direction ∧
      field bytes (99 + 12 * i) 1 = p.density ∧ field bytes (100 + 12 * i) 4 = p.parameter.toNat ∧
      ∀ t, p.endTime = some t → field bytes (104 + 12 * i) 4 = t.toNat) ∧
    ∀ i, r.passes.length ≤ i → i < 8 → (bytes.drop (96 + 12 * i)).take 12 = List.replicate 12 0) ∧
  (∀ r : CoverageReport, r.z < 256 → r.zn < 2 ^ 16 → r.entries.length < 2 ^ 16 →
    (∀ e ∈ r.entries, e.mismatch < 256 ∧ e.fails < 256 ∧ ∀ p, e.pass = some p → p < 8) →
    let bytes := (ReplyData.coverage r).bytes
    bytes.length = 12 + 4 * r.entries.length ∧ field bytes 0 1 = r.bay.val ∧
    (∀ j, r.owner = some j → field bytes 1 1 = j.val) ∧ (r.owner = none → field bytes 1 1 = 0xFF) ∧
    (∀ n, r.run = some n → field bytes 2 1 = 1 ∧ field bytes 4 4 = n.toNat) ∧ (r.run = none → field bytes 2 1 = 0) ∧
    field bytes 3 1 = r.z ∧ field bytes 8 2 = r.zn ∧ field bytes 10 2 = r.entries.length ∧
    ∀ i e, r.entries[i]? = some e →
      field bytes (12 + 4 * i) 1 = (match e.state with
        | .untouched => 0
        | .writing => 1
        | .written => 2
        | .verified => 3
        | .mismatched => 4
        | .failed => 5
        | .excluded => 6) ∧
      field bytes (13 + 4 * i) 1 = e.pass.getD 0xFF ∧ field bytes (14 + 4 * i) 1 = e.mismatch ∧
      field bytes (15 + 4 * i) 1 = e.fails) ∧
  ∀ (s : State) (c : ManagementCommand) (rest : List ManagementCommand),
    (∀ bay first count, AtFront s c rest (.readCoverage bay first count) →
      (15 < bay ∨ 1023 < first ∨ count = 0 ∨ 64 < count →
        exec (.readCoverage bay first count) s = refusal s c rest .range) ∧
      ∀ b : BayId, b.val = bay → first ≤ 1023 → 1 ≤ count → count ≤ 64 → ∃ r : CoverageReport,
        exec (.readCoverage bay first count) s = .next (replied s c rest .accepted (.coverage r)) ∧
        r.bay = b ∧ r.owner = (s.map b).owner ∧ r.run = (s.map b).run ∧ r.z = (s.map b).z ∧ r.zn = (s.map b).zn ∧
        ((s.map b).entries.length = (s.map b).zn →
          r.entries.length = min (first + count) (s.map b).zn - first ∧
          ∀ i, first ≤ i → i < min (first + count) (s.map b).zn → r.entries[i - first]? = some (s.zone b i))) ∧
    ∀ (selector : Nat) (run : Word),
      AtFront s c rest (.readCertificate selector run) →
      let returns (r : CertificateRecord) : Prop :=
        exec (.readCertificate selector run) s = .next (replied s c rest .accepted
          (.certificate s.store.length (s.building.filter fun p => p.record.isSome).length r))
      (selector = 0 → s.store ≠ [] → ∃ r ∈ s.store, (∀ q ∈ s.store, r.run.toNat ≤ q.run.toNat) ∧ returns r) ∧
      (selector = 1 → (∃ r ∈ s.store, r.run = run) → ∃ r ∈ s.store, r.run = run ∧ returns r) ∧
      (s.store = [] ∨ (selector = 1 ∧ ∀ r ∈ s.store, r.run ≠ run) ∨ 2 ≤ selector →
        exec (.readCertificate selector run) s = refusal s c rest .range)

/-! ### Certificates -/

/-- DISCARD CERTIFICATE removes the record that bears the run number, or is refused with RANGE. The place it frees goes
to the waiting record with the lowest run number among those whose number the store does not bear: that record is
placed, its pending record released and its job CLOSED at that moment, with JOB_CLOSED raised (R167, R168, R170). That
the reply stands in front of JOB_CLOSED and the other frames of the placing is log 9; closeOrder, which numbers the job
among the closed ones, is log 6. -/
def Obligations.DiscardFreesAPlace : Prop :=
  ∀ (s : State) (c : ManagementCommand) (rest : List ManagementCommand) (run : Word),
    AtFront s c rest (.discardCertificate run) →
    let kept := s.store.filter fun r => decide (r.run ≠ run)
    let fits (r : CertificateRecord) : Prop := (∃ p ∈ s.building, p.record = some r) ∧ ∀ q ∈ kept, q.run ≠ r.run
    ((∀ r ∈ s.store, r.run ≠ run) → exec (.discardCertificate run) s = refusal s c rest .range) ∧
    ((∃ r ∈ s.store, r.run = run) → (∀ r, ¬ fits r) →
      exec (.discardCertificate run) s = .next ((accepted s c rest).putStore kept)) ∧
    ((∃ r ∈ s.store, r.run = run) → (∃ r, fits r) → kept.length < 32 →
      ∃ t r, exec (.discardCertificate run) s = .next t ∧ fits r ∧ (∀ q, fits q → r.run.toNat ≤ q.run.toNat) ∧
        t.store.Perm ({ r with closeTime := some s.clock } :: kept) ∧
        t.building = s.building.filter (fun p => decide (p.slot ≠ r.slot)) ∧
        (∀ j, t.job j = if j = r.slot then
          { s.job j with
            state := .closed, closeTime := some s.clock, permille := 1000, closeOrder := s.stamp } else s.job j) ∧
        kindPresent (t.attentionOf (s.job r.slot).bay) .jobClosed = true ∧
        (accepted s c rest).sent <+: t.sent)

/-- At the end of a build the record holds what R163 takes from the job, its program and its bay's map, a pass entry for
every pass of the program with the fields its kind uses and its end time, 0 for the fields it does not use, and the
digest. The digest is the CRC-32 over five bytes a zone, computed as R165 describes it: over any bytes, it is the
register shifted once for each bit, least significant bit of each byte first. With room in the store and no record of
the same run number it is placed, and the job is CLOSED with JOB_CLOSED raised; else it stays pending with CERT_PENDING
raised (R163, R164, R165, R167). The parameter of ZERO and ONES is log 21, closeOrder log 6. Of a job that builds
nothing no build ends (log 1). -/
def Obligations.BuildCompletePlacesTheRecord : Prop :=
  (∀ bytes : List Byte,
    crc32 bytes = ~~~ ((bytes.flatMap fun b => (List.range 8).map b.getLsbD).foldl
      (fun (r : Word) bit => if r.getLsbD 0 = bit then r >>> 1 else (r >>> 1) ^^^ 0xEDB88320) 0xFFFFFFFF)) ∧
  (∀ zones : List ZoneEntry,
    (mapDigestBytes 0 zones).length = 5 * zones.length ∧
    ∀ i z, zones[i]? = some z → i < 2 ^ 16 →
      ((mapDigestBytes 0 zones).drop (5 * i)).take 5 =
        [BitVec.ofNat 8 (i % 256), BitVec.ofNat 8 (i / 256), BitVec.ofNat 8 z.state.code,
          BitVec.ofNat 8 (z.pass.getD 0xFF), BitVec.ofNat 8 z.mismatch]) ∧
  ∀ (s : State) (j : JobId),
    let x := s.job j
    ((∀ p ∈ s.building, p.slot = j → p.record ≠ none) → exec (.buildComplete j) s = .next s) ∧
    ({ slot := j, record := none } ∈ s.building → ∃ t r, exec (.buildComplete j) s = .next t ∧
      (r.slot = j ∧ r.bay = x.bay ∧ r.label = x.label ∧ r.program = x.program ∧ r.extentCount = x.extentCount ∧
        r.extentClamped = x.extentClamped ∧ r.stripeClamped = x.stripeClamped ∧ r.mismatched = x.mismatched ∧
        r.failedStripes = x.failedStripes ∧ x.run = (x.run.map fun _ => r.run) ∧
        x.outcome = (x.outcome.map fun _ => r.outcome) ∧ x.startTime = (x.startTime.map fun _ => r.startTime) ∧
        x.identity = (x.identity.map fun _ =>
          { serial := r.serial, capacity := r.capacity, sectorSize := r.sectorSize }) ∧
        x.geometry = (x.geometry.map fun _ => { sEff := r.sEff, z := r.z, zn := r.zn }) ∧
        r.passes.length = (s.program x.program).length ∧
        (∀ i p, (s.program x.program)[i]? = some p → ∃ q, r.passes[i]? = some q ∧
          q.kind = kindOfPass p ∧ q.endTime = x.passEnds.getD i none ∧
          q.direction = (if kindOfPass p ≠ .nativeErase ∧ directionOfPass p = .descending then 1 else 0) ∧
          q.density = (if kindOfPass p = .verify then p.density else 0) ∧
          (q.pattern, q.parameter) =
            if kindOfPass p = .verify then (0, 0)
            else match patternOfPass p with
              | .zero => (0, 0)
              | .ones => (1, 0)
              | .byte v => (2, v.setWidth 32)
              | .location seed => (3, seed)) ∧
        r.zoneCounts = [ZoneState.untouched, .writing, .written, .verified, .mismatched, .failed, .excluded].map
          (fun st => ((s.map x.bay).entries.filter fun e => decide (e.state = st)).length) ∧
        r.digest = crc32 (mapDigestBytes 0 (s.map x.bay).entries)) ∧
      s.sent <+: t.sent ∧
      if s.store.length < 32 ∧ ∀ q ∈ s.store, q.run ≠ r.run then
        r.closeTime = some s.clock ∧ t.store.Perm (r :: s.store) ∧
        t.building = s.building.filter (fun p => decide (p.slot ≠ j)) ∧
        (∀ k, t.job k = if k = j then
          { x with state := .closed, closeTime := some s.clock, permille := 1000, closeOrder := s.stamp }
          else s.job k) ∧
        kindPresent (t.attentionOf x.bay) .jobClosed = true
      else
        t = { s with
          building := s.building.map fun p => if p.slot = j then { p with record := some r } else p
          attention := t.attention, sent := t.sent } ∧
        kindPresent (t.attentionOf x.bay) .certPending = true)

/-! ### Attention, indicators and resets of a bay -/

/-- Raising a kind: present already, nothing changes; absent, it joins the set, and where it is routed to a channel from
1 to 7 and the link is UP one notice with a snapshot is sent. CLEAR ATTENTION removes the kinds of its mask, replies
with the set as it then stands and sends no notice; a bay above 15 or a kind above 9 is refused with RANGE (R175). -/
def Obligations.AttentionKindsAreRaisedAndCleared : Prop :=
  ∀ s : State,
    (∀ (b : BayId) (k : AttentionKind), kindPresent (s.attentionOf b) k = true → raise s b k = s) ∧
    (∀ (b : BayId) (k : AttentionKind), kindPresent (s.attentionOf b) k = false → ∃ set : AttentionSet,
      (∀ l, kindPresent set l = true ↔ kindPresent (s.attentionOf b) l = true ∨ l = k) ∧
      raise s b k = { s with
        attention := put s.attention b set
        sent := if channel s k ≠ 0 ∧ s.link = .up then s.sent ++ [.notice b (channel s k) set] else s.sent }) ∧
    ∀ (c : ManagementCommand) (rest : List ManagementCommand) (bay : Nat) (mask : BitVec 16),
      AtFront s c rest (.clearAttention bay mask) →
      (16 ≤ bay ∨ 1024 ≤ mask.toNat → exec (.clearAttention bay mask) s = refusal s c rest .range) ∧
      ∀ b : BayId, b.val = bay → mask.toNat < 1024 → ∃ set : AttentionSet,
        (∀ l, kindPresent set l = (kindPresent (s.attentionOf b) l && !mask.getLsbD l.number.val)) ∧
        exec (.clearAttention bay mask) s =
          .next (replied { s with attention := put s.attention b set } c rest .accepted (.attention set))

/-- SET INDICATOR sets a bay's override, or with AUTO clears it, and the indicator shows the override or the automatic
pattern at once; a bay above 15 or a pattern byte above 6 is refused with RANGE. The end of a phase takes the indicator
to the next phase of its cycle, and the cycles are those of R142. The automatic pattern follows the bay's state, and in
READY its shown job: the active job, else the CLOSED job of the bay that closed last, else none (R142, R143, R144). -/
def Obligations.IndicatorsShowTheirPattern : Prop :=
  ∀ s : State,
    (∀ (c : ManagementCommand) (rest : List ManagementCommand) (bay pattern : Nat),
      AtFront s c rest (.setIndicator bay pattern) →
      (16 ≤ bay ∨ 7 ≤ pattern → exec (.setIndicator bay pattern) s = refusal s c rest .range) ∧
      ∀ b : BayId, b.val = bay → pattern < 7 →
        exec (.setIndicator bay pattern) s = .next ((accepted s c rest).putPort b (showing (autoPattern s b)
          { s.port b with
            override := [some .off, some .on, some .slow, some .fast, some .wink, some .double, none].getD
              pattern none }))) ∧
    (∀ b : BayId, ∃ t, exec (.indicatorPhase b) s = .next t ∧
      t = s.putPort b { s.port b with phase := (t.port b).phase } ∧
      ((s.port b).phase < (s.port b).shown.cycle.length →
        (t.port b).phase = if (s.port b).phase + 1 = (s.port b).shown.cycle.length then 0
          else (s.port b).phase + 1)) ∧
    IndicatorPattern.cycle .slow = [(true, 500), (false, 500)] ∧
    IndicatorPattern.cycle .fast = [(true, 125), (false, 125)] ∧
    IndicatorPattern.cycle .wink = [(true, 100), (false, 900)] ∧
    IndicatorPattern.cycle .double = [(true, 100), (false, 100), (true, 100), (false, 700)] ∧
    ∀ b : BayId,
      let p := autoPattern s b
      ((s.port b).state = .empty → p = .off) ∧
      ((s.port b).state = .seating ∨ (s.port b).state = .identifying ∨ (s.port b).state = .resetting → p = .fast) ∧
      ((s.port b).state = .faulted → p = .double) ∧
      ((s.port b).state = .ready →
        (∀ j, OneActiveJob s → (s.job j).state.active = true → (s.job j).bay = b →
          p = match (s.job j).state with
            | .waitingBay => .wink
            | .waitingTrigger => .wink
            | .paused => .wink
            | .halted => .double
            | _ => .slow) ∧
        ((∀ j, (s.job j).state.active = true → (s.job j).bay ≠ b) →
          (∀ j, (s.job j).state = .closed → (s.job j).bay = b →
            (∀ k, k ≠ j → (s.job k).state = .closed → (s.job k).bay = b → (s.job k).closeOrder < (s.job j).closeOrder) →
            p = match (s.job j).outcome with
              | some .certified => .on
              | some .rejected => .double
              | _ => .wink) ∧
          ((∀ j, (s.job j).state = .closed → (s.job j).bay ≠ b) → p = .on)))

/-- The three causes of a selective reset: a device fault indication is taken in IDENTIFYING and READY and ignored
elsewhere; a T2 that expires resets the bay; RESET BAY is answered ABSENT in EMPTY and SEATING, restarts the reset timer
in RESETTING, and elsewhere is accepted with the count set to 0. Its job halts with JOB_HALTED raised and the resume
cursor recorded, a drain toward PAUSED among them, or enters its target FINISHING (R17, R47, R114, R139, R140). The
fault reason and the rejected identity are cleared at the entry to RESETTING (log 20), the reply stands in front of the
answers and notices (log 9), and a RESET BAY in RESETTING resets the interface no second time (log 35). A timer that
does not run does not expire (log 1). -/
def Obligations.SelectiveResetsAreTaken : Prop :=
  ∀ s : State,
    (∀ b : BayId,
      if (s.port b).state = .identifying ∨ (s.port b).state = .ready then
        ∃ t, exec (.deviceFaultIndication b) s = .next t ∧ SelectivelyReset b .deviceFault s t
      else exec (.deviceFaultIndication b) s = .next s) ∧
    (∀ (b : BayId) (id : Nat),
      (∀ r, findRecord s b id = some r → r.status = .aborting →
        ∃ t, exec (.t2Expiry b id) s = .next t ∧ SelectivelyReset b .t2Expiry s t) ∧
      ((∀ r, findRecord s b id = some r → r.status ≠ .aborting) → exec (.t2Expiry b id) s = .next s)) ∧
    ∀ (c : ManagementCommand) (rest : List ManagementCommand) (bay : Nat), AtFront s c rest (.resetBay bay) →
      (16 ≤ bay → exec (.resetBay bay) s = refusal s c rest .range) ∧
      ∀ b : BayId, b.val = bay →
        if (s.port b).state = .empty ∨ (s.port b).state = .seating then
          exec (.resetBay bay) s = .next (replied s c rest .absent .nothing)
        else if (s.port b).state = .resetting then
          exec (.resetBay bay) s = .next ((accepted s c rest).putPort b
            { s.port b with attempts := 0, resetTimer := some 500, lastReset := some .resetBay })
        else
          ∃ t, exec (.resetBay bay) s = .next t ∧
            SelectivelyReset b .resetBay ((accepted s c rest).putPort b { s.port b with attempts := 0 }) t

/-- At the end of a selective reset the bay is IDENTIFYING with the next IDENTIFY issued while its attempt count is
below 3; with the attempts spent it is FAULTED with reason NO_RESPONSE, and FAULTED is raised (R134, R140). A reset
timer that does not run does not expire (log 1). -/
def Obligations.ResetTimerEndsTheReset : Prop :=
  ∀ (s : State) (b : BayId),
    let p := s.port b
    if p.state = .resetting ∧ p.resetTimer ≠ none then
      if p.attempts < 3 then
        exec (.resetTimerExpiry b) s =
          .next (identifying s b (showing .fast { p with state := .identifying, resetTimer := none }))
      else
        exec (.resetTimerExpiry b) s = .next (raise (s.putPort b (showing .double { p with
          state := .faulted, resetTimer := none, fault := some .noResponse, rejected := none })) b .faulted)
    else exec (.resetTimerExpiry b) s = .next s

/-! ### Presence -/

/-- An EMPTY bay whose presence is asserted enters SEATING with its debounce timer running; when the timer expires with
presence still asserted, or at once with a debounce time of 0, it is IDENTIFYING, INSERTED is raised and the first
IDENTIFY issued. In an occupied bay, returning presence stops a removal's timer (R131, R132, R134). Presence that is
asserted already is not asserted again (log 1). -/
def Obligations.InsertionIsDebounced : Prop :=
  ∀ (s : State) (b : BayId),
    let p := s.port b
    let inserted (q : BayPort) : State :=
      identifying (raise s b .inserted) b (showing .fast { q with
        state := .identifying, debounce := none, attempts := 0 })
    (p.presence = true → exec (.presenceAsserted b) s = .next s) ∧
    (p.presence = false →
      match p.state with
      | .empty =>
        exec (.presenceAsserted b) s = .next
          (if s.tables.debounceTime = 0 then inserted { p with presence := true }
           else s.putPort b (showing .fast { p with
             presence := true, state := .seating, debounce := some s.tables.debounceTime }))
      | .seating => exec (.presenceAsserted b) s = .next (s.putPort b { p with presence := true })
      | _ => exec (.presenceAsserted b) s = .next (s.putPort b { p with presence := true, debounce := none })) ∧
    (p.state = .seating → p.debounce ≠ none →
      exec (.debounceExpiry b) s = .next (if p.presence = true then inserted p else s))

/-- A drop of presence in SEATING takes the bay back to EMPTY with nothing raised; in an occupied bay it starts the
debounce timer, and when that expires with presence still absent, or at once with a debounce time of 0, the drive is
removed (R131, R132). Presence that is absent already does not drop, and a debounce that does not run does not expire
(log 1). -/
def Obligations.RemovalIsDebounced : Prop :=
  ∀ (s : State) (b : BayId),
    let p := s.port b
    let occupied : Prop := p.state ≠ .empty ∧ p.state ≠ .seating
    (p.presence = false → exec (.presenceDropped b) s = .next s) ∧
    (p.presence = true →
      (p.state = .empty → exec (.presenceDropped b) s = .next (s.putPort b { p with presence := false })) ∧
      (p.state = .seating → exec (.presenceDropped b) s = .next (s.putPort b (showing .off { p with
        presence := false, debounce := none, state := .empty }))) ∧
      (occupied → s.tables.debounceTime ≠ 0 → exec (.presenceDropped b) s = .next (s.putPort b { p with
        presence := false, debounce := some s.tables.debounceTime })) ∧
      (occupied → s.tables.debounceTime = 0 → ∃ t, exec (.presenceDropped b) s = .next t ∧
        DriveRemoved b (s.putPort b { p with presence := false }) t)) ∧
    (p.debounce = none ∨ p.state = .empty → exec (.debounceExpiry b) s = .next s) ∧
    (p.debounce ≠ none → occupied → p.presence = true → exec (.debounceExpiry b) s = .next s) ∧
    (p.debounce ≠ none → occupied → p.presence = false →
      ∃ t, exec (.debounceExpiry b) s = .next t ∧ DriveRemoved b s t)

/-! ### Drive requests -/

/-- When the T1 of an ISSUED record expires, ABORT is sent, the record becomes ABORTING with its T2 running, the bay is
stalled, and an engine record's entry becomes ABORTING as well (R110, R111). Of a record that is not ISSUED no T1 runs
(log 1). -/
def Obligations.T1ExpirySendsAbort : Prop :=
  ∀ (s : State) (b : BayId) (id : Nat),
    (∀ r, findRecord s b id = some r → r.status = .issued → ∃ t, exec (.t1Expiry b id) s = .next t ∧
      t = { s with
        toDrive := s.toDrive ++ [.abort b id]
        ports := put s.ports b { s.port b with
          queue := (s.port b).queue.map fun q =>
            if q.id = id then { q with status := .aborting, timer := (s.parameters b).t2 } else q }
        inFlight := if r.link = .entry then
          put s.inFlight b ((s.list b).map fun e => if e.request = id then { e with status := .aborting } else e)
          else s.inFlight } ∧
      stalled t b = true) ∧
    ((∀ r, findRecord s b id = some r → r.status ≠ .issued) → exec (.t1Expiry b id) s = .next s)

/-- A passthrough record ends with the drive's completion, or with the abort confirmation of an ABORTING record: it
leaves the queue, its slot is freed, and where its result is wanted the command is answered by R116 and its tag freed. A
preparation that waited for it in stage 1 then goes on (R7, R108, R112, R113, R116, R119). That the command's response
stands in front of what the preparation sends is the model's choice (log 9). -/
def Obligations.PassthroughCompletionIsAnswered : Prop :=
  ∀ (s : State) (b : BayId) (id : Nat) (r : Record) (cmd : PassCommand) (sub : Bool),
    findRecord s b id = some r → r.link = .command cmd sub →
    let rest := (s.port b).queue.filter fun q => decide (q.id ≠ id)
    let ended (x : ResponseStatus) : State := { s with
      ports := put s.ports b { s.port b with queue := rest }
      slots := match r.slot with
        | some k => put s.slots k Slot.empty
        | none => s.slots
      tags := if r.wanted = true then put s.tags cmd.tag false else s.tags
      sent := if r.wanted = true ∧ s.link = .up then s.sent ++ [.response b.val cmd.tag cmd.opcode x sub] else s.sent }
    let completes (i : Instr) (x : ResponseStatus) : Prop :=
      ((∀ j, activeJob s b = some j → (s.job j).state ≠ .preparing .draining ∨
        WriteOutstanding { s.port b with queue := rest }) → exec i s = .next (ended x)) ∧
      ∀ j d, activeJob s b = some j → (s.job j).state = .preparing .draining → (s.port b).identity = some d →
        ¬ WriteOutstanding { s.port b with queue := rest } →
        ∃ t, exec i s = .next t ∧ PreparationFollows j d (ended x) t
    (∀ status d, completes (.requestCompletion b id status d)
      (match status with
        | .good => .good
        | .mediaError => .mediaError
        | .deviceError => .deviceError
        | .addressError => .addressError
        | .aborted => if r.status = .aborting then .driveTimeout else .aborted)) ∧
    (r.status = .aborting → completes (.abortConfirmation b id) .driveTimeout)

/-- The completion of the bay port's IDENTIFY: a usable drive makes the bay READY, a GOOD answer that describes none
makes it FAULTED with reason FORMAT, and a failed attempt, an abort confirmation among them, issues the next attempt
while the count is below 3 or else makes the bay FAULTED with reason NO_RESPONSE. READY starts the job that waits for
the bay, and raises FOREIGN_DRIVE for a HALTED job of another drive (R6, R113, R135, R136, R137). That the rejected
identity keeps all the values reported, native-erase support beside the capacity, sector size and serial that R138
lists, is an inference (log 36); that READY is announced in front of the responses to held reads judged again is the
model's choice (log 9). -/
def Obligations.IdentifyDecidesTheBay : Prop :=
  ∀ (s : State) (b : BayId) (id : Nat) (r : Record), findRecord s b id = some r → r.link = .port →
    let p : BayPort := { s.port b with queue := (s.port b).queue.filter fun q => decide (q.id ≠ id) }
    let failed : State :=
      if p.attempts < 3 then identifying s b p
      else raise (s.putPort b (showing .double { p with
        state := .faulted, fault := some .noResponse, rejected := none })) b .faulted
    let usable (d : DriveIdentity) : Prop := (d.sectorSize = 512 ∨ d.sectorSize = 4096) ∧ 1 ≤ d.capacity
    let ready (d : DriveIdentity) : State :=
      let v := s.putPort b { p with identity := some d, attempts := 0, state := .ready }
      raise (v.putPort b (showing (autoPattern v b) (v.port b))) b .ready
    (∀ status d, status ≠ .good → exec (.requestCompletion b id status d) s = .next failed) ∧
    (r.status = .aborting → exec (.abortConfirmation b id) s = .next failed) ∧
    (∀ d, ¬ usable d → exec (.requestCompletion b id .good d) s = .next (raise (s.putPort b (showing .double { p with
      state := .faulted, fault := some .format, rejected := some d })) b .faulted)) ∧
    (∀ d, usable d →
      (∀ j, activeJob s b = some j → (s.job j).state = .halted →
        ∀ x, (s.job j).identity = some x → exec (.requestCompletion b id .good d) s = .next
          (if d.serial = x.serial ∧ d.capacity = x.capacity ∧ d.sectorSize = x.sectorSize then ready d
           else raise (ready d) b .foreignDrive)) ∧
      ((∀ j, activeJob s b = some j → (s.job j).state ≠ .waitingBay ∧
        ((s.job j).state = .halted → (s.job j).identity = none)) →
        exec (.requestCompletion b id .good d) s = .next (ready d)) ∧
      ∀ j, activeJob s b = some j → (s.job j).state = .waitingBay → ∃ t,
        exec (.requestCompletion b id .good d) s = .next t ∧
        let u := (ready d).putJob j { s.job j with state := .preparing .draining }
        if WriteOutstanding p then AfterRejudging b u t else PreparationFollows j d u t)

/-- Data of a drive. A verify read's data is compared in its slot, and a passthrough command's goes on to the server in
data frames of its tag, but for a substitute's and for one whose result is not wanted. A write's data comes from its
slot's generator, and a passthrough command's from the payload its slot holds. Data for a request that has no record, or
holds no slot, is discarded (R74, R75, R109, R119, R120, R128, R152, R155). That the count rises in the slot's own
direction and that the drive takes at most the bytes that stand there is log 17; the pieces of at most 65,535 bytes,
with no frame for no bytes, are log 18. -/
def Obligations.DriveDataPassesThroughTheSlot : Prop :=
  ∀ (s : State) (b : BayId) (id : Nat) (bytes : List Byte) (n : Nat),
    ((∀ r, findRecord s b id = some r → r.slot = none) →
      exec (.driveDataIn b id bytes) s = .next s ∧ exec (.driveDataOut b id n) s = .next s) ∧
    ∀ r k, findRecord s b id = some r → r.slot = some k →
      let x := s.slot k
      (r.link = .entry → x.mode = .compare →
        exec (.driveDataIn b id bytes) s = .next (s.putSlot k (compareBytes x bytes))) ∧
      (r.link = .entry → x.mode = .generate →
        exec (.driveDataOut b id n) s =
          .next ((s.putSlot k (generateBytes n x).2).signal (.data b id (generateBytes n x).1))) ∧
      ∀ cmd sub, r.link = .command cmd sub →
        exec (.driveDataOut b id n) s = .next ((s.putSlot k { x with
          staged := x.staged.drop n, moved := x.moved + (x.staged.take n).length }).signal
            (.data b id (x.staged.take n))) ∧
        ∃ pieces : List (List Byte), pieces.flatten = bytes ∧ (∀ q ∈ pieces, q ≠ [] ∧ q.length ≤ 65535) ∧
          exec (.driveDataIn b id bytes) s = .next { s.putSlot k { x with
            moved := if x.direction = .towardServer then x.moved + bytes.length else x.moved } with
              sent := if r.wanted = true ∧ sub = false ∧ s.link = .up then
                s.sent ++ pieces.map fun q => .data b cmd.tag q else s.sent }

/-- An engine completion is taken: the record leaves the queue, the slot is freed, and its entry becomes DONE_GOOD with
the mismatched sectors its slot counted, or DONE_ERROR. While the head of the list is neither DONE_GOOD nor failed
nothing retires, whatever stands behind it. Where it is, it retires, and so does every entry behind it up to the first
that is neither: the zones and the totals take them all, head first, and the tolerance is compared, in RUNNING and in
DRAINING (R21, R25, R42, R43, R44, R76, R77, R108, R113). Where they empty the list, the unit, the pass, the run or the
drain ends with the last of them, in the state the comparisons behind the earlier ones have left (R11, R14, R16,
R45). -/
def Obligations.EngineCompletionMarksItsEntry : Prop :=
  ∀ (s : State) (b : BayId) (id : Nat) (r : Record), findRecord s b id = some r → r.link = .entry →
    let marked (good : Bool) : List Entry := (s.list b).map fun e =>
      if e.request = id then { e with
        slot := none
        status := if good then .doneGood else .doneError
        mismatched := match r.slot with
          | some k => if good = true ∧ (s.slot k).mode = .compare then finalMismatches (s.slot k) else 0
          | none => 0 }
      else e
    let stands (e : Entry) : Prop := e.status ≠ .doneGood ∧
      ∀ w, s.context b = some w → e.status = .doneError → e.attempt ≤ w.retryLimit
    let completes (i : Instr) (good : Bool) : Prop :=
      (∀ e, (marked good).head? = some e → stands e) →
      exec i s = .next { s with
        ports := put s.ports b { s.port b with queue := (s.port b).queue.filter fun q => decide (q.id ≠ id) }
        slots := match r.slot with
          | some k => put s.slots k Slot.empty
          | none => s.slots
        inFlight := put s.inFlight b (marked good) }
    let chain (command : Instr) (good : Bool) : Prop :=
      ∀ (j : JobId) (w : WalkContext), activeJob s b = some j → s.context b = some w → (s.map b).owner = some j →
        (s.job j).state = .running ∨ (∃ q, (s.job j).state = .draining q) →
        let x := s.job j
        let bad (m : CoverageMap) : Nat := (m.entries.filter fun z => z.state.bad).length
        x.badZones = bad (s.map b) →
        let retires (e : Entry) : Bool :=
          decide (e.status = .doneGood) || decide (e.status = .doneError ∧ w.retryLimit < e.attempt)
        let gone := (marked good).takeWhile retires
        let left := (marked good).dropWhile retires
        gone ≠ [] →
        (∀ e ∈ gone, e.kind ≠ .nativeErase ∧ ∃ i, e.zone = some i ∧ i < (s.map b).entries.length) →
        ∃ t, exec command s = .next t ∧ t.list b = left ∧ (∀ k, k ≠ j → t.job k = s.job k) ∧
          (∀ i, i < (s.map b).entries.length →
            let z := zoneAfterAll s b w i gone
            ((t.job j).passIndex = x.passIndex → t.zone b i = z) ∧
            t.zone b i = { z with done := (t.zone b i).done }) ∧
          (∀ i, i < (s.map b).entries.length → (s.zone b i).fails ≤ 255 →
            let here := gone.filter fun e => decide (e.zone = some i)
            let failed := here.filter fun e => decide (e.status = .doneError)
            (t.zone b i).out = (s.zone b i).out - here.length ∧
            ((t.job j).passIndex = x.passIndex → (t.zone b i).done = (s.zone b i).done + here.length) ∧
            (t.zone b i).fails = min 255 ((s.zone b i).fails + failed.length) ∧
            (failed ≠ [] → (t.zone b i).state = .failed)) ∧
          (x.failedStripes < 2 ^ 32 → (t.job j).failedStripes =
            min (2 ^ 32 - 1) (x.failedStripes + (gone.filter fun e => decide (e.status = .doneError)).length)) ∧
          (x.mismatched < 2 ^ 32 → (t.job j).mismatched = min (2 ^ 32 - 1) (x.mismatched +
            ((gone.filter fun e => decide (e.status = .doneGood)).map Entry.mismatched).sum)) ∧
          (t.job j).badZones = bad (t.map b) ∧
          (left ≠ [] → t.context b = some w ∧ (t.job j).permille = permilleOf t b w ∧
            (t.job j).passIndex = x.passIndex ∧
            (t.job j).state =
              (if x.tolerance < (t.job j).badZones ∧ (x.state = .running ∨ x.state = .draining .paused)
               then .draining (.finishing .rejected) else x.state)) ∧
          (left = [] → w.kind ≠ .nativeErase → (s.program x.program).length ≤ 8 → x.passIndex < x.passEnds.length →
            RetirementFollowed b j w (stateBeforeLast s b w x gone) [] s t)
    (∀ status d, completes (.requestCompletion b id status d) (decide (status = .good)) ∧
      chain (.requestCompletion b id status d) (decide (status = .good))) ∧
    (r.status = .aborting → completes (.abortConfirmation b id) false ∧ chain (.abortConfirmation b id) false)

/-- The head of the in-flight list retires when its completion makes it DONE_GOOD, or when a completion or the
confirmation of its abort makes it DONE_ERROR with its attempts spent: the list loses it, its zone's done count rises
and its out count falls by 1, the zone changes by R92 or R93, the job's totals grow, the permille is recomputed, and the
bay's held reads are judged again where the zone's state changed or its out count fell to 0 (R25, R44, R92, R93, R98,
R99, R113). With the unit's last stripe retired the unit ends: a RUNNING job with work left in its pass begins the next
unit on a set latch or waits for a trigger (R11, R38). With no work left the pass ends, with its end time, PASS_DONE and
permille 1000, and the job finishes with the outcome of R22, begins the next pass, or waits (R14, R22). The tolerance
comparison follows: a RUNNING job with more bad zones than its tolerance ends its run with outcome REJECTED, at once
where nothing else is in flight (R17, R21). A DRAINING job whose list is empty enters its drain target, begins neither a
unit nor a pass, and keeps its latch (R16). What follows the retirement is Safety.RetirementFollowed. -/
def Obligations.RetirementUpdatesZoneAndJob : Prop :=
  ∀ (s : State) (b : BayId) (id : Nat) (r : Record) (j : JobId) (w : WalkContext) (e : Entry) (rest : List Entry)
    (i : Nat),
    findRecord s b id = some r → r.link = .entry → activeJob s b = some j → s.context b = some w →
    s.list b = e :: rest → e.request = id → (∀ q ∈ rest, q.request ≠ id) → e.kind ≠ .nativeErase → e.zone = some i →
    w.kind ≠ .nativeErase → i < (s.map b).entries.length → (s.map b).owner = some j →
    (s.job j).badZones = ((s.map b).entries.filter fun z => z.state.bad).length →
    (∀ q, rest.head? = some q → q.status = .issued ∨ q.status = .aborting) →
    (s.program (s.job j).program).length ≤ 8 → (s.job j).passIndex < (s.job j).passEnds.length →
    let x := s.job j
    x.state = .running ∨ (∃ q, x.state = .draining q) →
    let retires (command : Instr) (good : Bool) : Prop :=
      let m := match r.slot with
        | some k => if good = true ∧ (s.slot k).mode = .compare then finalMismatches (s.slot k) else 0
        | none => 0
      ∃ t, exec command s = .next t ∧ t.list b = rest ∧ HeadRetired b j w e i good m s t ∧
        ((t.job j).passIndex = x.passIndex →
          (t.zone b i).done = (s.zone b i).done + 1 ∧ ∀ k, k ≠ i → (t.zone b k).done = (s.zone b k).done) ∧
        (((t.zone b i).state ≠ (s.zone b i).state ∨ (s.zone b i).out = 1) → (t.job j).state = x.state →
          JudgedAgain b s t) ∧
        RetirementFollowed b j w x.state rest s t
    (∀ d, retires (.requestCompletion b id .good d) true) ∧
    (w.retryLimit < e.attempt →
      (∀ status d, status ≠ .good → retires (.requestCompletion b id status d) false) ∧
      (r.status = .aborting → retires (.abortConfirmation b id) false))

/-- A native erase is issued for the whole drive when its unit begins or a retry is due, with the bay READY and not
stalled and no slot taken, under the native T1; every zone that is neither EXCLUDED nor FAILED turns WRITING. Its GOOD
completion makes those zones WRITTEN, in RUNNING and in DRAINING. With its retries spent, any other completion, the
confirmation of its abort among them, abandons the list: a RUNNING job halts with NATIVE_ERASE_FAILED, and a DRAINING
one halts so or enters its target FINISHING (R17, R49, R50, R51, R94; a drain toward HALTED is log 31). With retries
left the entry stands awaiting reissue (R43, R51). -/
def Obligations.NativeEraseIsOneRequest : Prop :=
  ∀ (s : State) (b : BayId) (j : JobId) (w : WalkContext), activeJob s b = some j → s.context b = some w →
    w.kind = .nativeErase →
    let x := s.job j
    let untouchable (z : ZoneEntry) : Prop := z.state = .excluded ∨ z.state = .failed
    (s.list b ≠ [] → (∀ e, (s.list b).head? = some e → e.status ≠ .doneError) →
      exec (.nativeEraseIssue b) s = .next s) ∧
    ((s.port b).state ≠ .ready ∨ stalled s b = true → exec (.nativeEraseIssue b) s = .next s) ∧
    ((s.port b).state = .ready → stalled s b = false →
      (s.list b = [] → x.state = .running → x.unitActive = true → w.unitEnd = some (passEnd s x w) →
        w.cursor ≠ passEnd s x w → ∃ t, exec (.nativeEraseIssue b) s = .next t ∧
        t.list b = [{ request := s.nextRequest, stripe := { first := 0, length := jobCapacity x }, zone := none
                      kind := .nativeErase, pass := w.pass, attempt := 1, slot := none, status := .issued
                      mismatched := 0 }] ∧
        t.toDrive = s.toDrive ++ [.request b s.nextRequest (.nativeErase w.pattern)] ∧
        (t.port b).queue = (s.port b).queue ++ [{ id := s.nextRequest, origin := .engine, link := .entry, cls := none
                                                  request := .nativeErase w.pattern, slot := none, status := .issued
                                                  timer := (s.parameters b).nativeT1 * 60000, wanted := true }] ∧
        t.slots = s.slots ∧ (t.context b).map WalkContext.cursor = some (passEnd s x w) ∧
        ∀ i, i < (s.map b).entries.length →
          (untouchable (s.zone b i) → t.zone b i = s.zone b i) ∧
          (¬ untouchable (s.zone b i) → t.zone b i = { s.zone b i with state := .writing })) ∧
      (∀ e rest, s.list b = e :: rest → e.status = .doneError → e.attempt ≤ w.retryLimit →
        x.state = .running ∨ (∃ q, x.state = .draining q) → (∀ q ∈ rest, q.request ≠ e.request) →
        ∃ t, exec (.nativeEraseIssue b) s = .next t ∧
          t.list b = { e with request := s.nextRequest, attempt := e.attempt + 1, status := .issued } :: rest ∧
          t.toDrive = s.toDrive ++ [.request b s.nextRequest (.nativeErase w.pattern)] ∧ t.slots = s.slots)) ∧
    ∀ id r e d, findRecord s b id = some r → r.link = .entry → s.list b = [e] → e.request = id →
      e.kind = .nativeErase → e.zone = none → x.state = .running ∨ (∃ q, x.state = .draining q) →
      (∃ t, exec (.requestCompletion b id .good d) s = .next t ∧ t.list b = [] ∧
        ∀ i, i < (s.map b).entries.length →
          (untouchable (s.zone b i) → (t.zone b i).state = (s.zone b i).state ∧
            (t.zone b i).pass = (s.zone b i).pass) ∧
          (¬ untouchable (s.zone b i) → (t.zone b i).state = .written ∧ (t.zone b i).pass = some w.pass)) ∧
      let fails (i : Instr) : Prop :=
        (e.attempt ≤ w.retryLimit → ∃ t, exec i s = .next t ∧
          t.list b = [{ e with status := .doneError, slot := none, mismatched := 0 }] ∧ t.jobs = s.jobs) ∧
        (w.retryLimit < e.attempt → ∃ t, exec i s = .next t ∧ t.list b = [] ∧
          t.job j = jobAfterLoss .nativeEraseFailed x ∧
          (x.state = .running ∨ x.state = .draining .paused → kindPresent (t.attentionOf b) .jobHalted = true ∧
            t.context b = some { w with resumeCursor := some (restartAt s x w) }) ∧
          (∀ o, x.state = .draining (.finishing o) → t.context b = none ∧
            { slot := j, record := none } ∈ t.building) ∧
          ∀ i, t.zone b i = s.zone b i)
      (∀ status, status ≠ .good → fails (.requestCompletion b id status d)) ∧
      (r.status = .aborting → fails (.abortConfirmation b id))

/-! ### Preparation and grants -/

/-- One word of the extent list is put through its five checks, in their order: an error ends preparation with the map
cleared, the error as the last start error and START_REFUSED raised; a word that passes is counted into the due of every
zone it reaches (R8, R59, R60, R63, R65). That the responses to held reads judged again stand in front of START_REFUSED
is the model's choice (log 9). -/
def Obligations.ScanChecksAndCountsAWord : Prop :=
  ∀ (s : State) (b : BayId) (j : JobId) (g : Geometry) (next previousEnd : Nat), activeJob s b = some j →
    (s.job j).state = .preparing (.scanning next previousEnd) → (s.job j).geometry = some g →
    (s.job j).extentCount ≠ 0 →
    let x := s.job j
    let C := jobCapacity x
    let word := readExtent s.tables.extents (x.extentFirst + next)
    let fails (kind : ExtentError) : Prop :=
      ∃ t v, exec (.extentScanWord b) s = .next t ∧ t = raise v b .startRefused ∧
        AfterRejudging b ((s.putMap b CoverageMap.cleared).putJob j { unprepared x with
          state := .loaded, startError := some (.extentCheck (x.extentFirst + next) kind) }) v
    if word.length = 0 then fails .length
    else if C ≤ word.start then fails .beyond
    else if next ≠ 0 ∧ word.start % g.sEff ≠ 0 then fails .align
    else if next ≠ 0 ∧ word.start < previousEnd then fails .order
    else
      let e : Extent := { start := word.start, stop := min (word.start + word.length) C }
      next + 1 < x.extentCount →
      exec (.extentScanWord b) s = .next ((s.putJob j { x with
        extentClamped := x.extentClamped || decide (C < word.start + word.length)
        state := .preparing (.scanning (next + 1) e.stop) }).putMap b { s.map b with
          entries := (s.map b).entries.mapIdx fun i z =>
            { z with due := z.due + stripesWithin e (i * 2 ^ g.z) ((i + 1) * 2 ^ g.z) g.sEff } })

/-- When the last word has passed its checks, or the one implicit extent of a whole-drive job has been counted, every
zone with due 0 is EXCLUDED, the run counter rises by 1 and numbers the run, the clock is the start time, and pass 0, an
OVERWRITE in either direction or a NATIVE_ERASE, begins with its walk at its first position and its first unit with the
unit end of its grain (R7, R14, R34, R38, R49, R58, R64, R173). That a whole-drive scan is one EXTENT_SCAN_WORD, and
that the step of the last word also completes the scan and begins the run, is an inference (log 14). The words behind
the scan have passed their checks, in every scan and after every step (R54, R59). -/
def Obligations.ScanEndsAndTheRunBegins : Prop :=
  (∀ s t : State, step s = .next t → ScansChecked s → ScansChecked t) ∧
  ∀ (s : State) (b : BayId) (j : JobId) (g : Geometry) (next previousEnd : Nat), activeJob s b = some j →
    (s.job j).state = .preparing (.scanning next previousEnd) → (s.job j).geometry = some g →
    scanChecked s (s.job j) = true →
    let x := s.job j
    let C := jobCapacity x
    let word := readExtent s.tables.extents (x.extentFirst + next)
    let whole : Prop := x.extentCount = 0
    let last : Prop := next + 1 = x.extentCount ∧ word.length ≠ 0 ∧ word.start < C ∧
      (next = 0 ∨ (word.start % g.sEff = 0 ∧ previousEnd ≤ word.start))
    let e : Extent :=
      if x.extentCount = 0 then { start := 0, stop := C }
      else { start := word.start, stop := min (word.start + word.length) C }
    let due (i : Nat) : Nat :=
      (s.zone b i).due + stripesWithin e (i * 2 ^ g.z) ((i + 1) * 2 ^ g.z) g.sEff
    whole ∨ last → ∃ t, exec (.extentScanWord b) s = .next t ∧
      t.runCounter = s.runCounter + 1 ∧ (t.job j).run = some (s.runCounter + 1) ∧
      (t.job j).startTime = some s.clock ∧ (t.map b).run = some (s.runCounter + 1) ∧
      (t.map b).owner = (s.map b).owner ∧ (t.map b).z = (s.map b).z ∧ (t.map b).zn = (s.map b).zn ∧
      ((t.job j).extentClamped = true ↔ x.extentClamped = true ∨ (x.extentCount ≠ 0 ∧ C < word.start + word.length)) ∧
      (∀ k, k ≠ j → t.job k = s.job k) ∧
      (t.map b).entries.length = (s.map b).entries.length ∧
      (∀ i, i < (s.map b).entries.length →
        (t.zone b i).due = due i ∧ (t.zone b i).state = if due i = 0 then .excluded else (s.zone b i).state) ∧
      ∀ p passes, s.program x.program = p :: passes → kindOfPass p ≠ .verify → 0 < C →
        (kindOfPass p = .nativeErase → whole) →
        (t.job j).state = .running ∧ (t.job j).unitActive = true ∧ (t.job j).passIndex = 0 ∧
        (t.job j).passComplete = false ∧ (t.job j).permille = 0 ∧
        let w := contextOfPass t x 0 p
        t.context b = some { w with unitEnd := unitEndNow t x w }

/-- A bay has work for an engine slot exactly when it is READY and not stalled and its job either has an entry awaiting
reissue in RUNNING or DRAINING, or is RUNNING a unit that has a stripe left to issue with its list below its depth; a
native erase takes no slot (R39, R41, R49, R51). R39's words leave out neither kind of entry; that a native-erase entry
awaiting reissue makes its bay eligible for no slot is an inference from R51 (log 16). -/
def Obligations.EligibleBaysHaveWork : Prop :=
  ∀ (s : State) (b : BayId) (j : JobId) (w : WalkContext), activeJob s b = some j → s.context b = some w →
    let x := s.job j
    (eligible s b = true ↔
      (s.port b).state = .ready ∧ stalled s b = false ∧
      (((x.state = .running ∨ ∃ q, x.state = .draining q) ∧
          ∃ e ∈ s.list b, e.status = .doneError ∧ e.attempt ≤ w.retryLimit ∧ e.kind ≠ .nativeErase) ∨
        (x.state = .running ∧ x.unitActive = true ∧ w.kind ≠ .nativeErase ∧
          (s.list b).length < (s.parameters b).depth ∧ ∃ t q u, nextStripe s x w = some (t, q) ∧ w.unitEnd = some u ∧
            (w.direction = .ascending → t.first < u.lba) ∧
            (w.direction = .descending → u.lba < t.first + t.length))))

/-- An engine grant gives the lowest-numbered FREE slot of 8 to 31 to the first eligible bay after the grant pointer,
which becomes the pointer. The bay issues at once: its oldest entry awaiting reissue keeps its place with its attempt
count raised, or else the next stripe of the unit joins its list, its zone's out count rises, and under an OVERWRITE the
zone turns WRITING unless it is FAILED. The cursor moves beyond the stripe, or to the unit end where the unit has no
stripe left (R38). The slot is loaded from the walk context, and T1 runs (R40, R73, R91, R106, R124). With no FREE slot
or no eligible bay no grant is made. The work a bay is granted is its oldest entry awaiting reissue, and only with none
in its list the next stripe the pass would issue (R40). -/
def Obligations.EngineGrantServesTheNextBay : Prop :=
  ∀ s : State,
    (∀ (b : BayId) (j : JobId) (w : WalkContext) (work : GrantWork), grantWork s b = some (j, w, work) →
      let x := s.job j
      let awaits (e : Entry) : Prop := e.status = .doneError ∧ e.attempt ≤ w.retryLimit ∧ e.kind ≠ .nativeErase
      activeJob s b = some j ∧ s.context b = some w ∧ (s.port b).state = .ready ∧ stalled s b = false ∧
      match work with
      | .reissue e => (x.state = .running ∨ ∃ q, x.state = .draining q) ∧
        ∃ before after, s.list b = before ++ e :: after ∧ awaits e ∧ ∀ d ∈ before, ¬ awaits d
      | .stripe t beyond => x.state = .running ∧ x.unitActive = true ∧ w.kind ≠ .nativeErase ∧
        (∀ d ∈ s.list b, ¬ awaits d) ∧ (s.list b).length < (s.parameters b).depth ∧
        nextStripe s x w = some (t, beyond) ∧ unitLeft s x w = true) ∧
    ((∀ k : SlotId, 8 ≤ k.val → (s.slot k).owner ≠ .free) ∨ (∀ b, eligible s b = false) →
      exec .engineGrant s = .next s) ∧
    ∀ (k : SlotId) (b : BayId) (j : JobId) (w : WalkContext) (work : GrantWork),
      8 ≤ k.val → (s.slot k).owner = .free → (∀ l : SlotId, 8 ≤ l.val → l < k → (s.slot l).owner ≠ .free) →
      grantWork s b = some (j, w, work) →
      (∀ c : BayId, (c - s.grantPointer - 1).val < (b - s.grantPointer - 1).val → eligible s c = false) →
      let id := s.nextRequest
      let request (x : Stripe) : Request := if w.kind = .verify then .readStripe x else .writeStripe x
      let record (x : Stripe) : Record :=
        { id := id, origin := .engine, request := request x, cls := none, link := .entry, slot := some k
          status := .issued, timer := (s.parameters b).dataT1, wanted := true }
      let loaded (x : Stripe) : Slot :=
        { owner := .engine b id, pattern := w.pattern, stripe := x, sectorWords := jobSectorSize (s.job j) / 4
          mode := match w.kind with
            | .overwrite => .generate
            | .verify => .compare
            | .nativeErase => .none
          lba := x.first, word := 0, inWord := [], differing := false, mismatches := 0, direction := .towardServer
          moved := 0, staged := [] }
      match work with
      | .reissue e => exec .engineGrant s = .next { s with
          grantPointer := b, slots := put s.slots k (loaded e.stripe), nextRequest := id + 1
          ports := put s.ports b { s.port b with queue := (s.port b).queue ++ [record e.stripe] }
          toDrive := s.toDrive ++ [.request b id (request e.stripe)]
          inFlight := put s.inFlight b ((s.list b).map fun q =>
            if q.request = e.request then { q with
              request := id, attempt := q.attempt + 1, slot := some k, status := .issued, mismatched := 0 } else q) }
      | .stripe x after => ∃ t, exec .engineGrant s = .next t ∧
          let i := zoneOf (s.map b).z x.first
          t.grantPointer = b ∧ t.slots = put s.slots k (loaded x) ∧ t.nextRequest = id + 1 ∧
          t.ports = put s.ports b { s.port b with queue := (s.port b).queue ++ [record x] } ∧
          t.toDrive = s.toDrive ++ [.request b id (request x)] ∧
          t.inFlight = put s.inFlight b (s.list b ++ [{
            request := id, stripe := x, zone := some i, kind := w.kind, pass := w.pass, attempt := 1, slot := some k
            status := .issued, mismatched := 0 }]) ∧
          (∃ c, t.context b = some { w with cursor := c } ∧
            some c = if unitLeft s (s.job j) { w with cursor := after } = true then some after else w.unitEnd) ∧
          (∀ c, c ≠ b → t.context c = s.context c ∧ t.map c = s.map c) ∧
          (∀ l, l ≠ i → t.zone b l = s.zone b l) ∧
          (i < (s.map b).entries.length → t.zone b i = { s.zone b i with
            out := (s.zone b i).out + 1
            state := if w.kind = .overwrite ∧ (s.zone b i).state ≠ .failed then .writing else (s.zone b i).state }) ∧
          s.sent <+: t.sent

/-- A passthrough grant gives the lowest-numbered FREE slot of 0 to 7 to the oldest waiting command (the first of the
capacity wait, which QueuesAndSlotsStayInBounds says stays in the order of arrival) whose bay is READY, not stalled and
holds fewer than 4 passthrough records. Its grant check judges it anew: issued, it takes its position and its T1, and a
command with payload asks the server for it; refused, it is answered and leaves the wait (R126, R128, R152, R154, R155).
With no FREE slot or no ready command no grant is made. A read that the fence holds returns to the hold queue, or is
answered HOLD_EXPIRED where its hold time is past and BUSY where the queue is full (R157; which comes first is log 10).
Where the check gives no grant, the slot goes on to the next ready command, as if the refused one had not been waiting
(R154). The address stage of the grant check is log 12, the direction recorded for a command without a payload log
34. -/
def Obligations.PassthroughGrantServesTheOldestReady : Prop :=
  ∀ s : State,
    let full (d : PassCommand) : Prop := (s.port d.bay).state ≠ .ready ∨ stalled s d.bay = true ∨
      4 ≤ ((s.port d.bay).queue.filter fun r => decide (r.origin = .passthrough)).length
    ((∀ k : SlotId, k.val < 8 → (s.slot k).owner ≠ .free) ∨ (∀ d ∈ s.wait, full d) →
      exec .passthroughGrant s = .next s) ∧
    ∀ (k : SlotId) (c : PassCommand) (before after : List PassCommand),
      k.val < 8 → (s.slot k).owner = .free → (∀ l : SlotId, l < k → (s.slot l).owner ≠ .free) →
      s.wait = before ++ c :: after → (∀ d ∈ before, full d) → ¬ full c →
      let b := c.bay
      let id := s.nextRequest
      let issued (opcode : Byte) (lba count payload : Nat) (cls : OpClass) (sub : Bool) : State :=
        let request := Request.passthrough opcode lba count payload
        { s with
          wait := s.wait.filter fun d => decide (d.tag ≠ c.tag), nextRequest := id + 1
          slots := put s.slots k { Slot.empty with
            owner := .passthrough b id c.tag, direction := if payload = 0 then .towardServer else .towardDrive }
          ports := put s.ports b { s.port b with queue := (s.port b).queue ++ [
            { id := id, origin := .passthrough, request := request, cls := some cls, link := .command c sub
              slot := some k, status := .issued, timer := (s.parameters b).dataT1, wanted := true }] }
          toDrive := s.toDrive ++ [.request b id request]
          sent := if payload ≠ 0 ∧ s.link = .up then s.sent ++ [.data b c.tag []] else s.sent }
      let goesOn (u : State) : Prop := (∀ d ∈ before ++ after, d.tag ≠ c.tag) →
        exec .passthroughGrant s = exec .passthroughGrant { u with wait := before ++ after }
      let refused (x : ResponseStatus) : State := { s with
        tags := put s.tags c.tag false
        sent := if s.link = .up then s.sent ++ [.response b.val c.tag c.opcode x false] else s.sent }
      (∀ x, judge s c = .answered x → goesOn (refused x)) ∧
      (judge s c = .hold → goesOn
        (if c.holdPast = true then refused .holdExpired
         else if s.hold.length < 16 then { s with
           hold := insertByArrival { c with holdTime := some (c.holdTime.getD s.stamp) } s.hold, stamp := s.stamp + 1 }
         else refused .busy)) ∧
      (∀ x, judge s c = .answered x → ∃ t, exec .passthroughGrant s = .next t ∧ c ∉ t.wait ∧
        t.tagInUse c.tag = false ∧ (s.link = .up → s.sent ++ [.response b.val c.tag c.opcode x false] <+: t.sent)) ∧
      (judge s c = .hold → ∃ t, exec .passthroughGrant s = .next t ∧ c ∉ t.wait ∧
        let answered (x : ResponseStatus) : Prop := t.tagInUse c.tag = false ∧
          (s.link = .up → s.sent ++ [.response b.val c.tag c.opcode x false] <+: t.sent)
        if c.holdPast = true then answered .holdExpired
        else if s.hold.length < 16 then { c with holdTime := some (c.holdTime.getD s.stamp) } ∈ t.hold
        else answered .busy) ∧
      (judge s c = .wait →
        match actionFor s b (opcodeClass s c.opcode) with
        | .substitute cls => exec .passthroughGrant s =
            .next (issued ((bayProfile s b).substituteOpcode cls) 0 0 0 cls.cls true)
        | _ => exec .passthroughGrant s =
            .next (issued c.opcode c.lba c.count c.payload (opcodeClass s c.opcode) false))

/-- When the 2,000 ms of a held read have passed, it is answered HOLD_EXPIRED, frees its tag and leaves the queue. A
read that had left the queue for the capacity wait is marked, so that it is not held again (R157, R159; log 6). Before
that, a re-evaluation event for its bay judges every held read of the bay again: by its bay's state, by its key while
the bay is ACTIVE, and then by class, action, fence and address as at its arrival (R148, R156, R158; the address stage
is log 12). A read still held keeps its place, one that passes joins the capacity wait, and one that is refused leaves
with its response; other bays' reads stay. -/
def Obligations.HoldTimeExpires : Prop :=
  (∀ (s : State) (c : PassCommand),
    let b := c.bay
    let cls := opcodeClass s c.opcode
    let zones := zonesTouched (s.map b).z c.lba c.count
    let checked : Verdict :=
      if (cls = .read ∨ cls = .write ∨ cls = .trim) ∧ bayCapacity s b < c.lba + c.count then .answered .address
      else .wait
    judgeHeld s c =
      if (s.port b).state = .resetting then .answered .bayReset
      else if (s.port b).state ≠ .ready then .answered .bayAbsent
      else if activeJob s b ≠ none ∧ c.key ≠ bayKey s b then .answered .key
      else match actionFor s b cls with
        | .refuse => .answered .policy
        | .substitute _ => .wait
        | .pass => checked
        | .fence =>
          if ∃ i ∈ zones, (zoneAnswer s b i).1 = .untouched ∨ (zoneAnswer s b i).1 = .failed ∨
              (zoneAnswer s b i).1 = .mismatched then .answered .exposed
          else if ∃ i ∈ zones, (zoneAnswer s b i).1 = .writing ∨ 0 < (zoneAnswer s b i).2 then .hold
          else checked) ∧
  (∀ (s : State) (b : BayId),
    let t := reevaluate s b
    t = { s with hold := t.hold, wait := t.wait, tags := t.tags, sent := t.sent } ∧
    s.sent <+: t.sent ∧ (∀ c ∈ s.wait, c ∈ t.wait) ∧ (∀ c ∈ t.hold, c ∈ s.hold) ∧
    (∀ c ∈ s.hold, c.bay ≠ b → (∀ d ∈ s.hold, d.tag = c.tag → d = c) → c ∈ t.hold) ∧
    JudgedAgain b s t) ∧
  ∀ (s : State) (x : Tag),
    (∀ c, s.hold.find? (fun c => decide (c.tag = x)) = some c →
      exec (.holdExpiry x) s = .next { s with
        hold := s.hold.filter fun d => decide (d.tag ≠ x), tags := put s.tags x false
        sent := if s.link = .up then s.sent ++ [.response c.bay.val x c.opcode .holdExpired false] else s.sent }) ∧
    ((∀ c ∈ s.hold, c.tag ≠ x) →
      exec (.holdExpiry x) s = .next { s with
        wait := s.wait.map fun c => if c.tag = x ∧ c.holdTime.isSome = true then { c with holdPast := true } else c })

/-! ### Geometry, walks and patterns -/

/-- S_eff, z and Zn of a job: the request rounded down to a power of two, raised to 8 and limited by the sector size
(R31); the smallest z of at least 11 for which 1024 zones reach the capacity (R55); and the zones that cover the drive,
the zone of every sector among them (R56). -/
def Obligations.GeometryOfAJob : Prop :=
  ∀ request capacity sectorSize : Nat, 1 ≤ request → request ≤ 65535 → 1 ≤ capacity → capacity < 2 ^ 48 →
    sectorSize = 512 ∨ sectorSize = 4096 →
    let g := geometryOf request capacity sectorSize
    (∃ p, 2 ^ p ≤ request ∧ request < 2 ^ (p + 1) ∧
      g.sEff = min (max 8 (2 ^ p)) (if sectorSize = 512 then 512 else 64)) ∧
    (∃ k, 3 ≤ k ∧ k ≤ 9 ∧ g.sEff = 2 ^ k) ∧
    (11 ≤ g.z ∧ g.z ≤ 38) ∧ capacity ≤ 1024 * 2 ^ g.z ∧ (∀ y, 11 ≤ y → y < g.z → 1024 * 2 ^ y < capacity) ∧
    (1 ≤ g.zn ∧ g.zn ≤ 1024) ∧ (11 < g.z → 513 ≤ g.zn) ∧
    (g.zn - 1) * 2 ^ g.z < capacity ∧ capacity ≤ g.zn * 2 ^ g.z ∧
    ∀ lba, lba < capacity → zoneOf g.z lba < g.zn ∧ zoneOf g.z lba * 2 ^ g.z ≤ lba ∧
      lba < (zoneOf g.z lba + 1) * 2 ^ g.z

/-- The samples of a zone with n stripes at density k: every stripe where k is 0 or at least n; else exactly the k
ordinals floor((2j + 1) × n ÷ (2k)), which rise strictly and stay below n. Their number is the verify due (R79,
R80). -/
def Obligations.SamplesFollowTheFormula : Prop :=
  ∀ n k : Nat,
    (k = 0 ∨ n ≤ k → ∀ m, isSample n k m = true ↔ m < n) ∧
    (0 < k → k < n →
      (∀ m, isSample n k m = true ↔ ∃ j, j < k ∧ m = (2 * j + 1) * n / (2 * k)) ∧
      (∀ i j, i < j → j < k → (2 * i + 1) * n / (2 * k) < (2 * j + 1) * n / (2 * k)) ∧
      ∀ j, j < k → (2 * j + 1) * n / (2 * k) < n) ∧
    ((List.range n).filter (isSample n k)).length = verifyDue n k

/-- A walk over a list of extents in ascending order steps over stripes that hold every sector of the list once, in
ascending order, none of them reaching over a multiple of S; there are as many as the stripes of the list, and the walk
is then at the end of the pass. A descending walk steps over the same stripes in the opposite order (R32, R34, R35,
R68). -/
def Obligations.WalksCoverEverySectorOnce : Prop :=
  ∀ (xs : List Extent) (S capacity : Nat), 0 < S → xs ≠ [] → (∀ x ∈ xs, x.start < x.stop ∧ x.stop ≤ capacity) →
    xs.Pairwise (fun x y => x.stop ≤ y.start) →
    ∀ n, totalStripes xs S < n →
      let up := walkFrom .ascending xs S n (startPosition .ascending xs capacity)
      let down := walkFrom .descending xs S n (startPosition .descending xs capacity)
      up.flatMap stripeSectors = xs.flatMap extentSectors ∧
      (∀ t ∈ up, 1 ≤ t.length ∧ t.first / S = (t.first + t.length - 1) / S) ∧
      up.length = totalStripes xs S ∧ down = up.reverse ∧
      (∀ t, up.getLast? = some t → ∃ p, p.lba = t.first ∧ p.extent + 1 = xs.length ∧
        stepWalk .ascending xs S p = some (t, endPosition .ascending xs capacity)) ∧
      ∀ t, down.getLast? = some t → ∃ p, p.lba = t.first + t.length ∧ p.extent = 0 ∧
        stepWalk .descending xs S p = some (t, endPosition .descending xs capacity)

/-- The value of word w of sector L is 0, all ones, the byte in each of the four bytes, or the seed plus 40,503 × (L mod
2^32) plus 257 × w, reduced modulo 2^32 (R69). However the drive takes it in pieces, the data a GENERATE slot gives for
a stripe is the stripe's image: its sectors in ascending order, their words in ascending order, each least significant
byte first. Past the last word it gives nothing, and it counts no mismatch (R70, R73, R74). -/
def Obligations.GeneratorsWriteTheStripeImage : Prop :=
  (∀ (lba w : Nat) (b : Byte) (seed : Word),
    (patternWord .zero lba w).toNat = 0 ∧ (patternWord .ones lba w).toNat = 0xFFFFFFFF ∧
    (patternWord (.byte b) lba w).toNat = b.toNat * 0x01010101 ∧
    (patternWord (.location seed) lba w).toNat = (seed.toNat + 40503 * (lba % 2 ^ 32) + 257 * w) % 2 ^ 32) ∧
  (∀ (b : BayId) (id : Nat) (p : Pattern) (t : Stripe) (size n : Nat), 4 ≤ size →
    let out := generateBytes n (loadedSlot b id .generate p t size)
    out.1 = (stripeImage p t (size / 4)).take n ∧ out.2.mismatches = 0) ∧
  ∀ (m n : Nat) (x : Slot),
    generateBytes (m + n) x =
      ((generateBytes m x).1 ++ (generateBytes n (generateBytes m x).2).1, (generateBytes n (generateBytes m x).2).2)

/-- However the drive returns it in pieces, the data a COMPARE slot receives for a stripe gives, at a GOOD completion,
the number of the stripe's sectors whose bytes are not their image: a sector that differs in any word counts once, a
sector not wholly received counts, and data beyond the stripe does not (R70, R73, R75, R76). -/
def Obligations.ComparatorsCountMismatchedSectors : Prop :=
  (∀ (b : BayId) (id : Nat) (p : Pattern) (t : Stripe) (size : Nat) (data : List Byte), 4 ≤ size →
    let sector (i : Nat) : List Byte := (data.drop (i * (4 * (size / 4)))).take (4 * (size / 4))
    finalMismatches (compareBytes (loadedSlot b id .compare p t size) data) =
      ((List.range t.length).filter fun i => decide (sector i ≠ sectorImage p (t.first + i) (size / 4))).length) ∧
  ∀ (x : Slot) (first second : List Byte), compareBytes x (first ++ second) = compareBytes (compareBytes x first) second

end
end

