-- ==== Sys2Proof/Laws/State.lean ====
section
/-! SUPPORT. One lemma per field of State for each named update, and one per accessor the update does not reach, all
true by rfl. Reads of the updated table itself stand in Laws/Ops.lean. -/

namespace Sys2Proof.Machine

variable (s : State)

section
variable (j : JobId) (x : Job)
@[simp] theorem State.putJob_pending : (s.putJob j x).pending = s.pending := rfl
@[simp] theorem State.putJob_link : (s.putJob j x).link = s.link := rfl
@[simp] theorem State.putJob_tags : (s.putJob j x).tags = s.tags := rfl
@[simp] theorem State.putJob_sent : (s.putJob j x).sent = s.sent := rfl
@[simp] theorem State.putJob_toDrive : (s.putJob j x).toDrive = s.toDrive := rfl
@[simp] theorem State.putJob_tables : (s.putJob j x).tables = s.tables := rfl
@[simp] theorem State.putJob_wait : (s.putJob j x).wait = s.wait := rfl
@[simp] theorem State.putJob_hold : (s.putJob j x).hold = s.hold := rfl
@[simp] theorem State.putJob_management : (s.putJob j x).management = s.management := rfl
@[simp] theorem State.putJob_taking : (s.putJob j x).taking = s.taking := rfl
@[simp] theorem State.putJob_clock : (s.putJob j x).clock = s.clock := rfl
@[simp] theorem State.putJob_runCounter : (s.putJob j x).runCounter = s.runCounter := rfl
@[simp] theorem State.putJob_attention : (s.putJob j x).attention = s.attention := rfl
@[simp] theorem State.putJob_jobs : (s.putJob j x).jobs = put s.jobs j x := rfl
@[simp] theorem State.putJob_walk : (s.putJob j x).walk = s.walk := rfl
@[simp] theorem State.putJob_inFlight : (s.putJob j x).inFlight = s.inFlight := rfl
@[simp] theorem State.putJob_slots : (s.putJob j x).slots = s.slots := rfl
@[simp] theorem State.putJob_grantPointer : (s.putJob j x).grantPointer = s.grantPointer := rfl
@[simp] theorem State.putJob_coverage : (s.putJob j x).coverage = s.coverage := rfl
@[simp] theorem State.putJob_ports : (s.putJob j x).ports = s.ports := rfl
@[simp] theorem State.putJob_store : (s.putJob j x).store = s.store := rfl
@[simp] theorem State.putJob_building : (s.putJob j x).building = s.building := rfl
@[simp] theorem State.putJob_nextRequest : (s.putJob j x).nextRequest = s.nextRequest := rfl
@[simp] theorem State.putJob_stamp : (s.putJob j x).stamp = s.stamp := rfl
@[simp] theorem State.putJob_port (i : BayId) : (s.putJob j x).port i = s.port i := rfl
@[simp] theorem State.putJob_map (i : BayId) : (s.putJob j x).map i = s.map i := rfl
@[simp] theorem State.putJob_context (i : BayId) : (s.putJob j x).context i = s.context i := rfl
@[simp] theorem State.putJob_list (i : BayId) : (s.putJob j x).list i = s.list i := rfl
@[simp] theorem State.putJob_slot (i : SlotId) : (s.putJob j x).slot i = s.slot i := rfl
@[simp] theorem State.putJob_attentionOf (i : BayId) : (s.putJob j x).attentionOf i = s.attentionOf i := rfl
@[simp] theorem State.putJob_tagInUse (i : Tag) : (s.putJob j x).tagInUse i = s.tagInUse i := rfl
@[simp] theorem State.putJob_parameters (i : BayId) : (s.putJob j x).parameters i = s.parameters i := rfl
@[simp] theorem State.putJob_program (i : ProgramId) : (s.putJob j x).program i = s.program i := rfl
end

section
variable (b : BayId) (x : BayPort)
@[simp] theorem State.putPort_pending : (s.putPort b x).pending = s.pending := rfl
@[simp] theorem State.putPort_link : (s.putPort b x).link = s.link := rfl
@[simp] theorem State.putPort_tags : (s.putPort b x).tags = s.tags := rfl
@[simp] theorem State.putPort_sent : (s.putPort b x).sent = s.sent := rfl
@[simp] theorem State.putPort_toDrive : (s.putPort b x).toDrive = s.toDrive := rfl
@[simp] theorem State.putPort_tables : (s.putPort b x).tables = s.tables := rfl
@[simp] theorem State.putPort_wait : (s.putPort b x).wait = s.wait := rfl
@[simp] theorem State.putPort_hold : (s.putPort b x).hold = s.hold := rfl
@[simp] theorem State.putPort_management : (s.putPort b x).management = s.management := rfl
@[simp] theorem State.putPort_taking : (s.putPort b x).taking = s.taking := rfl
@[simp] theorem State.putPort_clock : (s.putPort b x).clock = s.clock := rfl
@[simp] theorem State.putPort_runCounter : (s.putPort b x).runCounter = s.runCounter := rfl
@[simp] theorem State.putPort_attention : (s.putPort b x).attention = s.attention := rfl
@[simp] theorem State.putPort_jobs : (s.putPort b x).jobs = s.jobs := rfl
@[simp] theorem State.putPort_walk : (s.putPort b x).walk = s.walk := rfl
@[simp] theorem State.putPort_inFlight : (s.putPort b x).inFlight = s.inFlight := rfl
@[simp] theorem State.putPort_slots : (s.putPort b x).slots = s.slots := rfl
@[simp] theorem State.putPort_grantPointer : (s.putPort b x).grantPointer = s.grantPointer := rfl
@[simp] theorem State.putPort_coverage : (s.putPort b x).coverage = s.coverage := rfl
@[simp] theorem State.putPort_ports : (s.putPort b x).ports = put s.ports b x := rfl
@[simp] theorem State.putPort_store : (s.putPort b x).store = s.store := rfl
@[simp] theorem State.putPort_building : (s.putPort b x).building = s.building := rfl
@[simp] theorem State.putPort_nextRequest : (s.putPort b x).nextRequest = s.nextRequest := rfl
@[simp] theorem State.putPort_stamp : (s.putPort b x).stamp = s.stamp := rfl
@[simp] theorem State.putPort_job (i : JobId) : (s.putPort b x).job i = s.job i := rfl
@[simp] theorem State.putPort_map (i : BayId) : (s.putPort b x).map i = s.map i := rfl
@[simp] theorem State.putPort_context (i : BayId) : (s.putPort b x).context i = s.context i := rfl
@[simp] theorem State.putPort_list (i : BayId) : (s.putPort b x).list i = s.list i := rfl
@[simp] theorem State.putPort_slot (i : SlotId) : (s.putPort b x).slot i = s.slot i := rfl
@[simp] theorem State.putPort_attentionOf (i : BayId) : (s.putPort b x).attentionOf i = s.attentionOf i := rfl
@[simp] theorem State.putPort_tagInUse (i : Tag) : (s.putPort b x).tagInUse i = s.tagInUse i := rfl
@[simp] theorem State.putPort_parameters (i : BayId) : (s.putPort b x).parameters i = s.parameters i := rfl
@[simp] theorem State.putPort_program (i : ProgramId) : (s.putPort b x).program i = s.program i := rfl
end

section
variable (b : BayId) (x : CoverageMap)
@[simp] theorem State.putMap_pending : (s.putMap b x).pending = s.pending := rfl
@[simp] theorem State.putMap_link : (s.putMap b x).link = s.link := rfl
@[simp] theorem State.putMap_tags : (s.putMap b x).tags = s.tags := rfl
@[simp] theorem State.putMap_sent : (s.putMap b x).sent = s.sent := rfl
@[simp] theorem State.putMap_toDrive : (s.putMap b x).toDrive = s.toDrive := rfl
@[simp] theorem State.putMap_tables : (s.putMap b x).tables = s.tables := rfl
@[simp] theorem State.putMap_wait : (s.putMap b x).wait = s.wait := rfl
@[simp] theorem State.putMap_hold : (s.putMap b x).hold = s.hold := rfl
@[simp] theorem State.putMap_management : (s.putMap b x).management = s.management := rfl
@[simp] theorem State.putMap_taking : (s.putMap b x).taking = s.taking := rfl
@[simp] theorem State.putMap_clock : (s.putMap b x).clock = s.clock := rfl
@[simp] theorem State.putMap_runCounter : (s.putMap b x).runCounter = s.runCounter := rfl
@[simp] theorem State.putMap_attention : (s.putMap b x).attention = s.attention := rfl
@[simp] theorem State.putMap_jobs : (s.putMap b x).jobs = s.jobs := rfl
@[simp] theorem State.putMap_walk : (s.putMap b x).walk = s.walk := rfl
@[simp] theorem State.putMap_inFlight : (s.putMap b x).inFlight = s.inFlight := rfl
@[simp] theorem State.putMap_slots : (s.putMap b x).slots = s.slots := rfl
@[simp] theorem State.putMap_grantPointer : (s.putMap b x).grantPointer = s.grantPointer := rfl
@[simp] theorem State.putMap_coverage : (s.putMap b x).coverage = put s.coverage b x := rfl
@[simp] theorem State.putMap_ports : (s.putMap b x).ports = s.ports := rfl
@[simp] theorem State.putMap_store : (s.putMap b x).store = s.store := rfl
@[simp] theorem State.putMap_building : (s.putMap b x).building = s.building := rfl
@[simp] theorem State.putMap_nextRequest : (s.putMap b x).nextRequest = s.nextRequest := rfl
@[simp] theorem State.putMap_stamp : (s.putMap b x).stamp = s.stamp := rfl
@[simp] theorem State.putMap_job (i : JobId) : (s.putMap b x).job i = s.job i := rfl
@[simp] theorem State.putMap_port (i : BayId) : (s.putMap b x).port i = s.port i := rfl
@[simp] theorem State.putMap_context (i : BayId) : (s.putMap b x).context i = s.context i := rfl
@[simp] theorem State.putMap_list (i : BayId) : (s.putMap b x).list i = s.list i := rfl
@[simp] theorem State.putMap_slot (i : SlotId) : (s.putMap b x).slot i = s.slot i := rfl
@[simp] theorem State.putMap_attentionOf (i : BayId) : (s.putMap b x).attentionOf i = s.attentionOf i := rfl
@[simp] theorem State.putMap_tagInUse (i : Tag) : (s.putMap b x).tagInUse i = s.tagInUse i := rfl
@[simp] theorem State.putMap_parameters (i : BayId) : (s.putMap b x).parameters i = s.parameters i := rfl
@[simp] theorem State.putMap_program (i : ProgramId) : (s.putMap b x).program i = s.program i := rfl
end

section
variable (b : BayId) (x : Option WalkContext)
@[simp] theorem State.putContext_pending : (s.putContext b x).pending = s.pending := rfl
@[simp] theorem State.putContext_link : (s.putContext b x).link = s.link := rfl
@[simp] theorem State.putContext_tags : (s.putContext b x).tags = s.tags := rfl
@[simp] theorem State.putContext_sent : (s.putContext b x).sent = s.sent := rfl
@[simp] theorem State.putContext_toDrive : (s.putContext b x).toDrive = s.toDrive := rfl
@[simp] theorem State.putContext_tables : (s.putContext b x).tables = s.tables := rfl
@[simp] theorem State.putContext_wait : (s.putContext b x).wait = s.wait := rfl
@[simp] theorem State.putContext_hold : (s.putContext b x).hold = s.hold := rfl
@[simp] theorem State.putContext_management : (s.putContext b x).management = s.management := rfl
@[simp] theorem State.putContext_taking : (s.putContext b x).taking = s.taking := rfl
@[simp] theorem State.putContext_clock : (s.putContext b x).clock = s.clock := rfl
@[simp] theorem State.putContext_runCounter : (s.putContext b x).runCounter = s.runCounter := rfl
@[simp] theorem State.putContext_attention : (s.putContext b x).attention = s.attention := rfl
@[simp] theorem State.putContext_jobs : (s.putContext b x).jobs = s.jobs := rfl
@[simp] theorem State.putContext_walk : (s.putContext b x).walk = put s.walk b x := rfl
@[simp] theorem State.putContext_inFlight : (s.putContext b x).inFlight = s.inFlight := rfl
@[simp] theorem State.putContext_slots : (s.putContext b x).slots = s.slots := rfl
@[simp] theorem State.putContext_grantPointer : (s.putContext b x).grantPointer = s.grantPointer := rfl
@[simp] theorem State.putContext_coverage : (s.putContext b x).coverage = s.coverage := rfl
@[simp] theorem State.putContext_ports : (s.putContext b x).ports = s.ports := rfl
@[simp] theorem State.putContext_store : (s.putContext b x).store = s.store := rfl
@[simp] theorem State.putContext_building : (s.putContext b x).building = s.building := rfl
@[simp] theorem State.putContext_nextRequest : (s.putContext b x).nextRequest = s.nextRequest := rfl
@[simp] theorem State.putContext_stamp : (s.putContext b x).stamp = s.stamp := rfl
@[simp] theorem State.putContext_job (i : JobId) : (s.putContext b x).job i = s.job i := rfl
@[simp] theorem State.putContext_port (i : BayId) : (s.putContext b x).port i = s.port i := rfl
@[simp] theorem State.putContext_map (i : BayId) : (s.putContext b x).map i = s.map i := rfl
@[simp] theorem State.putContext_list (i : BayId) : (s.putContext b x).list i = s.list i := rfl
@[simp] theorem State.putContext_slot (i : SlotId) : (s.putContext b x).slot i = s.slot i := rfl
@[simp] theorem State.putContext_attentionOf (i : BayId) : (s.putContext b x).attentionOf i = s.attentionOf i := rfl
@[simp] theorem State.putContext_tagInUse (i : Tag) : (s.putContext b x).tagInUse i = s.tagInUse i := rfl
@[simp] theorem State.putContext_parameters (i : BayId) : (s.putContext b x).parameters i = s.parameters i := rfl
@[simp] theorem State.putContext_program (i : ProgramId) : (s.putContext b x).program i = s.program i := rfl
end

section
variable (b : BayId) (x : List Entry)
@[simp] theorem State.putList_pending : (s.putList b x).pending = s.pending := rfl
@[simp] theorem State.putList_link : (s.putList b x).link = s.link := rfl
@[simp] theorem State.putList_tags : (s.putList b x).tags = s.tags := rfl
@[simp] theorem State.putList_sent : (s.putList b x).sent = s.sent := rfl
@[simp] theorem State.putList_toDrive : (s.putList b x).toDrive = s.toDrive := rfl
@[simp] theorem State.putList_tables : (s.putList b x).tables = s.tables := rfl
@[simp] theorem State.putList_wait : (s.putList b x).wait = s.wait := rfl
@[simp] theorem State.putList_hold : (s.putList b x).hold = s.hold := rfl
@[simp] theorem State.putList_management : (s.putList b x).management = s.management := rfl
@[simp] theorem State.putList_taking : (s.putList b x).taking = s.taking := rfl
@[simp] theorem State.putList_clock : (s.putList b x).clock = s.clock := rfl
@[simp] theorem State.putList_runCounter : (s.putList b x).runCounter = s.runCounter := rfl
@[simp] theorem State.putList_attention : (s.putList b x).attention = s.attention := rfl
@[simp] theorem State.putList_jobs : (s.putList b x).jobs = s.jobs := rfl
@[simp] theorem State.putList_walk : (s.putList b x).walk = s.walk := rfl
@[simp] theorem State.putList_inFlight : (s.putList b x).inFlight = put s.inFlight b x := rfl
@[simp] theorem State.putList_slots : (s.putList b x).slots = s.slots := rfl
@[simp] theorem State.putList_grantPointer : (s.putList b x).grantPointer = s.grantPointer := rfl
@[simp] theorem State.putList_coverage : (s.putList b x).coverage = s.coverage := rfl
@[simp] theorem State.putList_ports : (s.putList b x).ports = s.ports := rfl
@[simp] theorem State.putList_store : (s.putList b x).store = s.store := rfl
@[simp] theorem State.putList_building : (s.putList b x).building = s.building := rfl
@[simp] theorem State.putList_nextRequest : (s.putList b x).nextRequest = s.nextRequest := rfl
@[simp] theorem State.putList_stamp : (s.putList b x).stamp = s.stamp := rfl
@[simp] theorem State.putList_job (i : JobId) : (s.putList b x).job i = s.job i := rfl
@[simp] theorem State.putList_port (i : BayId) : (s.putList b x).port i = s.port i := rfl
@[simp] theorem State.putList_map (i : BayId) : (s.putList b x).map i = s.map i := rfl
@[simp] theorem State.putList_context (i : BayId) : (s.putList b x).context i = s.context i := rfl
@[simp] theorem State.putList_slot (i : SlotId) : (s.putList b x).slot i = s.slot i := rfl
@[simp] theorem State.putList_attentionOf (i : BayId) : (s.putList b x).attentionOf i = s.attentionOf i := rfl
@[simp] theorem State.putList_tagInUse (i : Tag) : (s.putList b x).tagInUse i = s.tagInUse i := rfl
@[simp] theorem State.putList_parameters (i : BayId) : (s.putList b x).parameters i = s.parameters i := rfl
@[simp] theorem State.putList_program (i : ProgramId) : (s.putList b x).program i = s.program i := rfl
end

section
variable (k : SlotId) (x : Slot)
@[simp] theorem State.putSlot_pending : (s.putSlot k x).pending = s.pending := rfl
@[simp] theorem State.putSlot_link : (s.putSlot k x).link = s.link := rfl
@[simp] theorem State.putSlot_tags : (s.putSlot k x).tags = s.tags := rfl
@[simp] theorem State.putSlot_sent : (s.putSlot k x).sent = s.sent := rfl
@[simp] theorem State.putSlot_toDrive : (s.putSlot k x).toDrive = s.toDrive := rfl
@[simp] theorem State.putSlot_tables : (s.putSlot k x).tables = s.tables := rfl
@[simp] theorem State.putSlot_wait : (s.putSlot k x).wait = s.wait := rfl
@[simp] theorem State.putSlot_hold : (s.putSlot k x).hold = s.hold := rfl
@[simp] theorem State.putSlot_management : (s.putSlot k x).management = s.management := rfl
@[simp] theorem State.putSlot_taking : (s.putSlot k x).taking = s.taking := rfl
@[simp] theorem State.putSlot_clock : (s.putSlot k x).clock = s.clock := rfl
@[simp] theorem State.putSlot_runCounter : (s.putSlot k x).runCounter = s.runCounter := rfl
@[simp] theorem State.putSlot_attention : (s.putSlot k x).attention = s.attention := rfl
@[simp] theorem State.putSlot_jobs : (s.putSlot k x).jobs = s.jobs := rfl
@[simp] theorem State.putSlot_walk : (s.putSlot k x).walk = s.walk := rfl
@[simp] theorem State.putSlot_inFlight : (s.putSlot k x).inFlight = s.inFlight := rfl
@[simp] theorem State.putSlot_slots : (s.putSlot k x).slots = put s.slots k x := rfl
@[simp] theorem State.putSlot_grantPointer : (s.putSlot k x).grantPointer = s.grantPointer := rfl
@[simp] theorem State.putSlot_coverage : (s.putSlot k x).coverage = s.coverage := rfl
@[simp] theorem State.putSlot_ports : (s.putSlot k x).ports = s.ports := rfl
@[simp] theorem State.putSlot_store : (s.putSlot k x).store = s.store := rfl
@[simp] theorem State.putSlot_building : (s.putSlot k x).building = s.building := rfl
@[simp] theorem State.putSlot_nextRequest : (s.putSlot k x).nextRequest = s.nextRequest := rfl
@[simp] theorem State.putSlot_stamp : (s.putSlot k x).stamp = s.stamp := rfl
@[simp] theorem State.putSlot_job (i : JobId) : (s.putSlot k x).job i = s.job i := rfl
@[simp] theorem State.putSlot_port (i : BayId) : (s.putSlot k x).port i = s.port i := rfl
@[simp] theorem State.putSlot_map (i : BayId) : (s.putSlot k x).map i = s.map i := rfl
@[simp] theorem State.putSlot_context (i : BayId) : (s.putSlot k x).context i = s.context i := rfl
@[simp] theorem State.putSlot_list (i : BayId) : (s.putSlot k x).list i = s.list i := rfl
@[simp] theorem State.putSlot_attentionOf (i : BayId) : (s.putSlot k x).attentionOf i = s.attentionOf i := rfl
@[simp] theorem State.putSlot_tagInUse (i : Tag) : (s.putSlot k x).tagInUse i = s.tagInUse i := rfl
@[simp] theorem State.putSlot_parameters (i : BayId) : (s.putSlot k x).parameters i = s.parameters i := rfl
@[simp] theorem State.putSlot_program (i : ProgramId) : (s.putSlot k x).program i = s.program i := rfl
end

section
variable (b : BayId) (x : AttentionSet)
@[simp] theorem State.putAttention_pending : (s.putAttention b x).pending = s.pending := rfl
@[simp] theorem State.putAttention_link : (s.putAttention b x).link = s.link := rfl
@[simp] theorem State.putAttention_tags : (s.putAttention b x).tags = s.tags := rfl
@[simp] theorem State.putAttention_sent : (s.putAttention b x).sent = s.sent := rfl
@[simp] theorem State.putAttention_toDrive : (s.putAttention b x).toDrive = s.toDrive := rfl
@[simp] theorem State.putAttention_tables : (s.putAttention b x).tables = s.tables := rfl
@[simp] theorem State.putAttention_wait : (s.putAttention b x).wait = s.wait := rfl
@[simp] theorem State.putAttention_hold : (s.putAttention b x).hold = s.hold := rfl
@[simp] theorem State.putAttention_management : (s.putAttention b x).management = s.management := rfl
@[simp] theorem State.putAttention_taking : (s.putAttention b x).taking = s.taking := rfl
@[simp] theorem State.putAttention_clock : (s.putAttention b x).clock = s.clock := rfl
@[simp] theorem State.putAttention_runCounter : (s.putAttention b x).runCounter = s.runCounter := rfl
@[simp] theorem State.putAttention_attention : (s.putAttention b x).attention = put s.attention b x := rfl
@[simp] theorem State.putAttention_jobs : (s.putAttention b x).jobs = s.jobs := rfl
@[simp] theorem State.putAttention_walk : (s.putAttention b x).walk = s.walk := rfl
@[simp] theorem State.putAttention_inFlight : (s.putAttention b x).inFlight = s.inFlight := rfl
@[simp] theorem State.putAttention_slots : (s.putAttention b x).slots = s.slots := rfl
@[simp] theorem State.putAttention_grantPointer : (s.putAttention b x).grantPointer = s.grantPointer := rfl
@[simp] theorem State.putAttention_coverage : (s.putAttention b x).coverage = s.coverage := rfl
@[simp] theorem State.putAttention_ports : (s.putAttention b x).ports = s.ports := rfl
@[simp] theorem State.putAttention_store : (s.putAttention b x).store = s.store := rfl
@[simp] theorem State.putAttention_building : (s.putAttention b x).building = s.building := rfl
@[simp] theorem State.putAttention_nextRequest : (s.putAttention b x).nextRequest = s.nextRequest := rfl
@[simp] theorem State.putAttention_stamp : (s.putAttention b x).stamp = s.stamp := rfl
@[simp] theorem State.putAttention_job (i : JobId) : (s.putAttention b x).job i = s.job i := rfl
@[simp] theorem State.putAttention_port (i : BayId) : (s.putAttention b x).port i = s.port i := rfl
@[simp] theorem State.putAttention_map (i : BayId) : (s.putAttention b x).map i = s.map i := rfl
@[simp] theorem State.putAttention_context (i : BayId) : (s.putAttention b x).context i = s.context i := rfl
@[simp] theorem State.putAttention_list (i : BayId) : (s.putAttention b x).list i = s.list i := rfl
@[simp] theorem State.putAttention_slot (i : SlotId) : (s.putAttention b x).slot i = s.slot i := rfl
@[simp] theorem State.putAttention_tagInUse (i : Tag) : (s.putAttention b x).tagInUse i = s.tagInUse i := rfl
@[simp] theorem State.putAttention_parameters (i : BayId) : (s.putAttention b x).parameters i = s.parameters i := rfl
@[simp] theorem State.putAttention_program (i : ProgramId) : (s.putAttention b x).program i = s.program i := rfl
end

section
variable (t : Tag) (x : Bool)
@[simp] theorem State.putTag_pending : (s.putTag t x).pending = s.pending := rfl
@[simp] theorem State.putTag_link : (s.putTag t x).link = s.link := rfl
@[simp] theorem State.putTag_tags : (s.putTag t x).tags = put s.tags t x := rfl
@[simp] theorem State.putTag_sent : (s.putTag t x).sent = s.sent := rfl
@[simp] theorem State.putTag_toDrive : (s.putTag t x).toDrive = s.toDrive := rfl
@[simp] theorem State.putTag_tables : (s.putTag t x).tables = s.tables := rfl
@[simp] theorem State.putTag_wait : (s.putTag t x).wait = s.wait := rfl
@[simp] theorem State.putTag_hold : (s.putTag t x).hold = s.hold := rfl
@[simp] theorem State.putTag_management : (s.putTag t x).management = s.management := rfl
@[simp] theorem State.putTag_taking : (s.putTag t x).taking = s.taking := rfl
@[simp] theorem State.putTag_clock : (s.putTag t x).clock = s.clock := rfl
@[simp] theorem State.putTag_runCounter : (s.putTag t x).runCounter = s.runCounter := rfl
@[simp] theorem State.putTag_attention : (s.putTag t x).attention = s.attention := rfl
@[simp] theorem State.putTag_jobs : (s.putTag t x).jobs = s.jobs := rfl
@[simp] theorem State.putTag_walk : (s.putTag t x).walk = s.walk := rfl
@[simp] theorem State.putTag_inFlight : (s.putTag t x).inFlight = s.inFlight := rfl
@[simp] theorem State.putTag_slots : (s.putTag t x).slots = s.slots := rfl
@[simp] theorem State.putTag_grantPointer : (s.putTag t x).grantPointer = s.grantPointer := rfl
@[simp] theorem State.putTag_coverage : (s.putTag t x).coverage = s.coverage := rfl
@[simp] theorem State.putTag_ports : (s.putTag t x).ports = s.ports := rfl
@[simp] theorem State.putTag_store : (s.putTag t x).store = s.store := rfl
@[simp] theorem State.putTag_building : (s.putTag t x).building = s.building := rfl
@[simp] theorem State.putTag_nextRequest : (s.putTag t x).nextRequest = s.nextRequest := rfl
@[simp] theorem State.putTag_stamp : (s.putTag t x).stamp = s.stamp := rfl
@[simp] theorem State.putTag_job (i : JobId) : (s.putTag t x).job i = s.job i := rfl
@[simp] theorem State.putTag_port (i : BayId) : (s.putTag t x).port i = s.port i := rfl
@[simp] theorem State.putTag_map (i : BayId) : (s.putTag t x).map i = s.map i := rfl
@[simp] theorem State.putTag_context (i : BayId) : (s.putTag t x).context i = s.context i := rfl
@[simp] theorem State.putTag_list (i : BayId) : (s.putTag t x).list i = s.list i := rfl
@[simp] theorem State.putTag_slot (i : SlotId) : (s.putTag t x).slot i = s.slot i := rfl
@[simp] theorem State.putTag_attentionOf (i : BayId) : (s.putTag t x).attentionOf i = s.attentionOf i := rfl
@[simp] theorem State.putTag_parameters (i : BayId) : (s.putTag t x).parameters i = s.parameters i := rfl
@[simp] theorem State.putTag_program (i : ProgramId) : (s.putTag t x).program i = s.program i := rfl
end

section
variable (f : OutFrame)
@[simp] theorem State.emit_pending : (s.emit f).pending = s.pending := rfl
@[simp] theorem State.emit_link : (s.emit f).link = s.link := rfl
@[simp] theorem State.emit_tags : (s.emit f).tags = s.tags := rfl
@[simp] theorem State.emit_sent : (s.emit f).sent = s.sent ++ [f] := rfl
@[simp] theorem State.emit_toDrive : (s.emit f).toDrive = s.toDrive := rfl
@[simp] theorem State.emit_tables : (s.emit f).tables = s.tables := rfl
@[simp] theorem State.emit_wait : (s.emit f).wait = s.wait := rfl
@[simp] theorem State.emit_hold : (s.emit f).hold = s.hold := rfl
@[simp] theorem State.emit_management : (s.emit f).management = s.management := rfl
@[simp] theorem State.emit_taking : (s.emit f).taking = s.taking := rfl
@[simp] theorem State.emit_clock : (s.emit f).clock = s.clock := rfl
@[simp] theorem State.emit_runCounter : (s.emit f).runCounter = s.runCounter := rfl
@[simp] theorem State.emit_attention : (s.emit f).attention = s.attention := rfl
@[simp] theorem State.emit_jobs : (s.emit f).jobs = s.jobs := rfl
@[simp] theorem State.emit_walk : (s.emit f).walk = s.walk := rfl
@[simp] theorem State.emit_inFlight : (s.emit f).inFlight = s.inFlight := rfl
@[simp] theorem State.emit_slots : (s.emit f).slots = s.slots := rfl
@[simp] theorem State.emit_grantPointer : (s.emit f).grantPointer = s.grantPointer := rfl
@[simp] theorem State.emit_coverage : (s.emit f).coverage = s.coverage := rfl
@[simp] theorem State.emit_ports : (s.emit f).ports = s.ports := rfl
@[simp] theorem State.emit_store : (s.emit f).store = s.store := rfl
@[simp] theorem State.emit_building : (s.emit f).building = s.building := rfl
@[simp] theorem State.emit_nextRequest : (s.emit f).nextRequest = s.nextRequest := rfl
@[simp] theorem State.emit_stamp : (s.emit f).stamp = s.stamp := rfl
@[simp] theorem State.emit_job (i : JobId) : (s.emit f).job i = s.job i := rfl
@[simp] theorem State.emit_port (i : BayId) : (s.emit f).port i = s.port i := rfl
@[simp] theorem State.emit_map (i : BayId) : (s.emit f).map i = s.map i := rfl
@[simp] theorem State.emit_context (i : BayId) : (s.emit f).context i = s.context i := rfl
@[simp] theorem State.emit_list (i : BayId) : (s.emit f).list i = s.list i := rfl
@[simp] theorem State.emit_slot (i : SlotId) : (s.emit f).slot i = s.slot i := rfl
@[simp] theorem State.emit_attentionOf (i : BayId) : (s.emit f).attentionOf i = s.attentionOf i := rfl
@[simp] theorem State.emit_tagInUse (i : Tag) : (s.emit f).tagInUse i = s.tagInUse i := rfl
@[simp] theorem State.emit_parameters (i : BayId) : (s.emit f).parameters i = s.parameters i := rfl
@[simp] theorem State.emit_program (i : ProgramId) : (s.emit f).program i = s.program i := rfl
end

section
variable (d : DriveSignal)
@[simp] theorem State.signal_pending : (s.signal d).pending = s.pending := rfl
@[simp] theorem State.signal_link : (s.signal d).link = s.link := rfl
@[simp] theorem State.signal_tags : (s.signal d).tags = s.tags := rfl
@[simp] theorem State.signal_sent : (s.signal d).sent = s.sent := rfl
@[simp] theorem State.signal_toDrive : (s.signal d).toDrive = s.toDrive ++ [d] := rfl
@[simp] theorem State.signal_tables : (s.signal d).tables = s.tables := rfl
@[simp] theorem State.signal_wait : (s.signal d).wait = s.wait := rfl
@[simp] theorem State.signal_hold : (s.signal d).hold = s.hold := rfl
@[simp] theorem State.signal_management : (s.signal d).management = s.management := rfl
@[simp] theorem State.signal_taking : (s.signal d).taking = s.taking := rfl
@[simp] theorem State.signal_clock : (s.signal d).clock = s.clock := rfl
@[simp] theorem State.signal_runCounter : (s.signal d).runCounter = s.runCounter := rfl
@[simp] theorem State.signal_attention : (s.signal d).attention = s.attention := rfl
@[simp] theorem State.signal_jobs : (s.signal d).jobs = s.jobs := rfl
@[simp] theorem State.signal_walk : (s.signal d).walk = s.walk := rfl
@[simp] theorem State.signal_inFlight : (s.signal d).inFlight = s.inFlight := rfl
@[simp] theorem State.signal_slots : (s.signal d).slots = s.slots := rfl
@[simp] theorem State.signal_grantPointer : (s.signal d).grantPointer = s.grantPointer := rfl
@[simp] theorem State.signal_coverage : (s.signal d).coverage = s.coverage := rfl
@[simp] theorem State.signal_ports : (s.signal d).ports = s.ports := rfl
@[simp] theorem State.signal_store : (s.signal d).store = s.store := rfl
@[simp] theorem State.signal_building : (s.signal d).building = s.building := rfl
@[simp] theorem State.signal_nextRequest : (s.signal d).nextRequest = s.nextRequest := rfl
@[simp] theorem State.signal_stamp : (s.signal d).stamp = s.stamp := rfl
@[simp] theorem State.signal_job (i : JobId) : (s.signal d).job i = s.job i := rfl
@[simp] theorem State.signal_port (i : BayId) : (s.signal d).port i = s.port i := rfl
@[simp] theorem State.signal_map (i : BayId) : (s.signal d).map i = s.map i := rfl
@[simp] theorem State.signal_context (i : BayId) : (s.signal d).context i = s.context i := rfl
@[simp] theorem State.signal_list (i : BayId) : (s.signal d).list i = s.list i := rfl
@[simp] theorem State.signal_slot (i : SlotId) : (s.signal d).slot i = s.slot i := rfl
@[simp] theorem State.signal_attentionOf (i : BayId) : (s.signal d).attentionOf i = s.attentionOf i := rfl
@[simp] theorem State.signal_tagInUse (i : Tag) : (s.signal d).tagInUse i = s.tagInUse i := rfl
@[simp] theorem State.signal_parameters (i : BayId) : (s.signal d).parameters i = s.parameters i := rfl
@[simp] theorem State.signal_program (i : ProgramId) : (s.signal d).program i = s.program i := rfl
end

section
variable (x : Tables)
@[simp] theorem State.putTables_pending : (s.putTables x).pending = s.pending := rfl
@[simp] theorem State.putTables_link : (s.putTables x).link = s.link := rfl
@[simp] theorem State.putTables_tags : (s.putTables x).tags = s.tags := rfl
@[simp] theorem State.putTables_sent : (s.putTables x).sent = s.sent := rfl
@[simp] theorem State.putTables_toDrive : (s.putTables x).toDrive = s.toDrive := rfl
@[simp] theorem State.putTables_tables : (s.putTables x).tables = x := rfl
@[simp] theorem State.putTables_wait : (s.putTables x).wait = s.wait := rfl
@[simp] theorem State.putTables_hold : (s.putTables x).hold = s.hold := rfl
@[simp] theorem State.putTables_management : (s.putTables x).management = s.management := rfl
@[simp] theorem State.putTables_taking : (s.putTables x).taking = s.taking := rfl
@[simp] theorem State.putTables_clock : (s.putTables x).clock = s.clock := rfl
@[simp] theorem State.putTables_runCounter : (s.putTables x).runCounter = s.runCounter := rfl
@[simp] theorem State.putTables_attention : (s.putTables x).attention = s.attention := rfl
@[simp] theorem State.putTables_jobs : (s.putTables x).jobs = s.jobs := rfl
@[simp] theorem State.putTables_walk : (s.putTables x).walk = s.walk := rfl
@[simp] theorem State.putTables_inFlight : (s.putTables x).inFlight = s.inFlight := rfl
@[simp] theorem State.putTables_slots : (s.putTables x).slots = s.slots := rfl
@[simp] theorem State.putTables_grantPointer : (s.putTables x).grantPointer = s.grantPointer := rfl
@[simp] theorem State.putTables_coverage : (s.putTables x).coverage = s.coverage := rfl
@[simp] theorem State.putTables_ports : (s.putTables x).ports = s.ports := rfl
@[simp] theorem State.putTables_store : (s.putTables x).store = s.store := rfl
@[simp] theorem State.putTables_building : (s.putTables x).building = s.building := rfl
@[simp] theorem State.putTables_nextRequest : (s.putTables x).nextRequest = s.nextRequest := rfl
@[simp] theorem State.putTables_stamp : (s.putTables x).stamp = s.stamp := rfl
@[simp] theorem State.putTables_job (i : JobId) : (s.putTables x).job i = s.job i := rfl
@[simp] theorem State.putTables_port (i : BayId) : (s.putTables x).port i = s.port i := rfl
@[simp] theorem State.putTables_map (i : BayId) : (s.putTables x).map i = s.map i := rfl
@[simp] theorem State.putTables_context (i : BayId) : (s.putTables x).context i = s.context i := rfl
@[simp] theorem State.putTables_list (i : BayId) : (s.putTables x).list i = s.list i := rfl
@[simp] theorem State.putTables_slot (i : SlotId) : (s.putTables x).slot i = s.slot i := rfl
@[simp] theorem State.putTables_attentionOf (i : BayId) : (s.putTables x).attentionOf i = s.attentionOf i := rfl
@[simp] theorem State.putTables_tagInUse (i : Tag) : (s.putTables x).tagInUse i = s.tagInUse i := rfl
end

section
variable (x : List PassCommand)
@[simp] theorem State.putWait_pending : (s.putWait x).pending = s.pending := rfl
@[simp] theorem State.putWait_link : (s.putWait x).link = s.link := rfl
@[simp] theorem State.putWait_tags : (s.putWait x).tags = s.tags := rfl
@[simp] theorem State.putWait_sent : (s.putWait x).sent = s.sent := rfl
@[simp] theorem State.putWait_toDrive : (s.putWait x).toDrive = s.toDrive := rfl
@[simp] theorem State.putWait_tables : (s.putWait x).tables = s.tables := rfl
@[simp] theorem State.putWait_wait : (s.putWait x).wait = x := rfl
@[simp] theorem State.putWait_hold : (s.putWait x).hold = s.hold := rfl
@[simp] theorem State.putWait_management : (s.putWait x).management = s.management := rfl
@[simp] theorem State.putWait_taking : (s.putWait x).taking = s.taking := rfl
@[simp] theorem State.putWait_clock : (s.putWait x).clock = s.clock := rfl
@[simp] theorem State.putWait_runCounter : (s.putWait x).runCounter = s.runCounter := rfl
@[simp] theorem State.putWait_attention : (s.putWait x).attention = s.attention := rfl
@[simp] theorem State.putWait_jobs : (s.putWait x).jobs = s.jobs := rfl
@[simp] theorem State.putWait_walk : (s.putWait x).walk = s.walk := rfl
@[simp] theorem State.putWait_inFlight : (s.putWait x).inFlight = s.inFlight := rfl
@[simp] theorem State.putWait_slots : (s.putWait x).slots = s.slots := rfl
@[simp] theorem State.putWait_grantPointer : (s.putWait x).grantPointer = s.grantPointer := rfl
@[simp] theorem State.putWait_coverage : (s.putWait x).coverage = s.coverage := rfl
@[simp] theorem State.putWait_ports : (s.putWait x).ports = s.ports := rfl
@[simp] theorem State.putWait_store : (s.putWait x).store = s.store := rfl
@[simp] theorem State.putWait_building : (s.putWait x).building = s.building := rfl
@[simp] theorem State.putWait_nextRequest : (s.putWait x).nextRequest = s.nextRequest := rfl
@[simp] theorem State.putWait_stamp : (s.putWait x).stamp = s.stamp := rfl
@[simp] theorem State.putWait_job (i : JobId) : (s.putWait x).job i = s.job i := rfl
@[simp] theorem State.putWait_port (i : BayId) : (s.putWait x).port i = s.port i := rfl
@[simp] theorem State.putWait_map (i : BayId) : (s.putWait x).map i = s.map i := rfl
@[simp] theorem State.putWait_context (i : BayId) : (s.putWait x).context i = s.context i := rfl
@[simp] theorem State.putWait_list (i : BayId) : (s.putWait x).list i = s.list i := rfl
@[simp] theorem State.putWait_slot (i : SlotId) : (s.putWait x).slot i = s.slot i := rfl
@[simp] theorem State.putWait_attentionOf (i : BayId) : (s.putWait x).attentionOf i = s.attentionOf i := rfl
@[simp] theorem State.putWait_tagInUse (i : Tag) : (s.putWait x).tagInUse i = s.tagInUse i := rfl
@[simp] theorem State.putWait_parameters (i : BayId) : (s.putWait x).parameters i = s.parameters i := rfl
@[simp] theorem State.putWait_program (i : ProgramId) : (s.putWait x).program i = s.program i := rfl
end

section
variable (x : List PassCommand)
@[simp] theorem State.putHold_pending : (s.putHold x).pending = s.pending := rfl
@[simp] theorem State.putHold_link : (s.putHold x).link = s.link := rfl
@[simp] theorem State.putHold_tags : (s.putHold x).tags = s.tags := rfl
@[simp] theorem State.putHold_sent : (s.putHold x).sent = s.sent := rfl
@[simp] theorem State.putHold_toDrive : (s.putHold x).toDrive = s.toDrive := rfl
@[simp] theorem State.putHold_tables : (s.putHold x).tables = s.tables := rfl
@[simp] theorem State.putHold_wait : (s.putHold x).wait = s.wait := rfl
@[simp] theorem State.putHold_hold : (s.putHold x).hold = x := rfl
@[simp] theorem State.putHold_management : (s.putHold x).management = s.management := rfl
@[simp] theorem State.putHold_taking : (s.putHold x).taking = s.taking := rfl
@[simp] theorem State.putHold_clock : (s.putHold x).clock = s.clock := rfl
@[simp] theorem State.putHold_runCounter : (s.putHold x).runCounter = s.runCounter := rfl
@[simp] theorem State.putHold_attention : (s.putHold x).attention = s.attention := rfl
@[simp] theorem State.putHold_jobs : (s.putHold x).jobs = s.jobs := rfl
@[simp] theorem State.putHold_walk : (s.putHold x).walk = s.walk := rfl
@[simp] theorem State.putHold_inFlight : (s.putHold x).inFlight = s.inFlight := rfl
@[simp] theorem State.putHold_slots : (s.putHold x).slots = s.slots := rfl
@[simp] theorem State.putHold_grantPointer : (s.putHold x).grantPointer = s.grantPointer := rfl
@[simp] theorem State.putHold_coverage : (s.putHold x).coverage = s.coverage := rfl
@[simp] theorem State.putHold_ports : (s.putHold x).ports = s.ports := rfl
@[simp] theorem State.putHold_store : (s.putHold x).store = s.store := rfl
@[simp] theorem State.putHold_building : (s.putHold x).building = s.building := rfl
@[simp] theorem State.putHold_nextRequest : (s.putHold x).nextRequest = s.nextRequest := rfl
@[simp] theorem State.putHold_stamp : (s.putHold x).stamp = s.stamp := rfl
@[simp] theorem State.putHold_job (i : JobId) : (s.putHold x).job i = s.job i := rfl
@[simp] theorem State.putHold_port (i : BayId) : (s.putHold x).port i = s.port i := rfl
@[simp] theorem State.putHold_map (i : BayId) : (s.putHold x).map i = s.map i := rfl
@[simp] theorem State.putHold_context (i : BayId) : (s.putHold x).context i = s.context i := rfl
@[simp] theorem State.putHold_list (i : BayId) : (s.putHold x).list i = s.list i := rfl
@[simp] theorem State.putHold_slot (i : SlotId) : (s.putHold x).slot i = s.slot i := rfl
@[simp] theorem State.putHold_attentionOf (i : BayId) : (s.putHold x).attentionOf i = s.attentionOf i := rfl
@[simp] theorem State.putHold_tagInUse (i : Tag) : (s.putHold x).tagInUse i = s.tagInUse i := rfl
@[simp] theorem State.putHold_parameters (i : BayId) : (s.putHold x).parameters i = s.parameters i := rfl
@[simp] theorem State.putHold_program (i : ProgramId) : (s.putHold x).program i = s.program i := rfl
end

section
variable (x : List ManagementCommand)
@[simp] theorem State.putManagement_pending : (s.putManagement x).pending = s.pending := rfl
@[simp] theorem State.putManagement_link : (s.putManagement x).link = s.link := rfl
@[simp] theorem State.putManagement_tags : (s.putManagement x).tags = s.tags := rfl
@[simp] theorem State.putManagement_sent : (s.putManagement x).sent = s.sent := rfl
@[simp] theorem State.putManagement_toDrive : (s.putManagement x).toDrive = s.toDrive := rfl
@[simp] theorem State.putManagement_tables : (s.putManagement x).tables = s.tables := rfl
@[simp] theorem State.putManagement_wait : (s.putManagement x).wait = s.wait := rfl
@[simp] theorem State.putManagement_hold : (s.putManagement x).hold = s.hold := rfl
@[simp] theorem State.putManagement_management : (s.putManagement x).management = x := rfl
@[simp] theorem State.putManagement_taking : (s.putManagement x).taking = s.taking := rfl
@[simp] theorem State.putManagement_clock : (s.putManagement x).clock = s.clock := rfl
@[simp] theorem State.putManagement_runCounter : (s.putManagement x).runCounter = s.runCounter := rfl
@[simp] theorem State.putManagement_attention : (s.putManagement x).attention = s.attention := rfl
@[simp] theorem State.putManagement_jobs : (s.putManagement x).jobs = s.jobs := rfl
@[simp] theorem State.putManagement_walk : (s.putManagement x).walk = s.walk := rfl
@[simp] theorem State.putManagement_inFlight : (s.putManagement x).inFlight = s.inFlight := rfl
@[simp] theorem State.putManagement_slots : (s.putManagement x).slots = s.slots := rfl
@[simp] theorem State.putManagement_grantPointer : (s.putManagement x).grantPointer = s.grantPointer := rfl
@[simp] theorem State.putManagement_coverage : (s.putManagement x).coverage = s.coverage := rfl
@[simp] theorem State.putManagement_ports : (s.putManagement x).ports = s.ports := rfl
@[simp] theorem State.putManagement_store : (s.putManagement x).store = s.store := rfl
@[simp] theorem State.putManagement_building : (s.putManagement x).building = s.building := rfl
@[simp] theorem State.putManagement_nextRequest : (s.putManagement x).nextRequest = s.nextRequest := rfl
@[simp] theorem State.putManagement_stamp : (s.putManagement x).stamp = s.stamp := rfl
@[simp] theorem State.putManagement_job (i : JobId) : (s.putManagement x).job i = s.job i := rfl
@[simp] theorem State.putManagement_port (i : BayId) : (s.putManagement x).port i = s.port i := rfl
@[simp] theorem State.putManagement_map (i : BayId) : (s.putManagement x).map i = s.map i := rfl
@[simp] theorem State.putManagement_context (i : BayId) : (s.putManagement x).context i = s.context i := rfl
@[simp] theorem State.putManagement_list (i : BayId) : (s.putManagement x).list i = s.list i := rfl
@[simp] theorem State.putManagement_slot (i : SlotId) : (s.putManagement x).slot i = s.slot i := rfl
@[simp] theorem State.putManagement_attentionOf (i : BayId) : (s.putManagement x).attentionOf i = s.attentionOf i := rfl
@[simp] theorem State.putManagement_tagInUse (i : Tag) : (s.putManagement x).tagInUse i = s.tagInUse i := rfl
@[simp] theorem State.putManagement_parameters (i : BayId) : (s.putManagement x).parameters i = s.parameters i := rfl
@[simp] theorem State.putManagement_program (i : ProgramId) : (s.putManagement x).program i = s.program i := rfl
end

section
variable (x : Option ManagementCommand)
@[simp] theorem State.putTaking_pending : (s.putTaking x).pending = s.pending := rfl
@[simp] theorem State.putTaking_link : (s.putTaking x).link = s.link := rfl
@[simp] theorem State.putTaking_tags : (s.putTaking x).tags = s.tags := rfl
@[simp] theorem State.putTaking_sent : (s.putTaking x).sent = s.sent := rfl
@[simp] theorem State.putTaking_toDrive : (s.putTaking x).toDrive = s.toDrive := rfl
@[simp] theorem State.putTaking_tables : (s.putTaking x).tables = s.tables := rfl
@[simp] theorem State.putTaking_wait : (s.putTaking x).wait = s.wait := rfl
@[simp] theorem State.putTaking_hold : (s.putTaking x).hold = s.hold := rfl
@[simp] theorem State.putTaking_management : (s.putTaking x).management = s.management := rfl
@[simp] theorem State.putTaking_taking : (s.putTaking x).taking = x := rfl
@[simp] theorem State.putTaking_clock : (s.putTaking x).clock = s.clock := rfl
@[simp] theorem State.putTaking_runCounter : (s.putTaking x).runCounter = s.runCounter := rfl
@[simp] theorem State.putTaking_attention : (s.putTaking x).attention = s.attention := rfl
@[simp] theorem State.putTaking_jobs : (s.putTaking x).jobs = s.jobs := rfl
@[simp] theorem State.putTaking_walk : (s.putTaking x).walk = s.walk := rfl
@[simp] theorem State.putTaking_inFlight : (s.putTaking x).inFlight = s.inFlight := rfl
@[simp] theorem State.putTaking_slots : (s.putTaking x).slots = s.slots := rfl
@[simp] theorem State.putTaking_grantPointer : (s.putTaking x).grantPointer = s.grantPointer := rfl
@[simp] theorem State.putTaking_coverage : (s.putTaking x).coverage = s.coverage := rfl
@[simp] theorem State.putTaking_ports : (s.putTaking x).ports = s.ports := rfl
@[simp] theorem State.putTaking_store : (s.putTaking x).store = s.store := rfl
@[simp] theorem State.putTaking_building : (s.putTaking x).building = s.building := rfl
@[simp] theorem State.putTaking_nextRequest : (s.putTaking x).nextRequest = s.nextRequest := rfl
@[simp] theorem State.putTaking_stamp : (s.putTaking x).stamp = s.stamp := rfl
@[simp] theorem State.putTaking_job (i : JobId) : (s.putTaking x).job i = s.job i := rfl
@[simp] theorem State.putTaking_port (i : BayId) : (s.putTaking x).port i = s.port i := rfl
@[simp] theorem State.putTaking_map (i : BayId) : (s.putTaking x).map i = s.map i := rfl
@[simp] theorem State.putTaking_context (i : BayId) : (s.putTaking x).context i = s.context i := rfl
@[simp] theorem State.putTaking_list (i : BayId) : (s.putTaking x).list i = s.list i := rfl
@[simp] theorem State.putTaking_slot (i : SlotId) : (s.putTaking x).slot i = s.slot i := rfl
@[simp] theorem State.putTaking_attentionOf (i : BayId) : (s.putTaking x).attentionOf i = s.attentionOf i := rfl
@[simp] theorem State.putTaking_tagInUse (i : Tag) : (s.putTaking x).tagInUse i = s.tagInUse i := rfl
@[simp] theorem State.putTaking_parameters (i : BayId) : (s.putTaking x).parameters i = s.parameters i := rfl
@[simp] theorem State.putTaking_program (i : ProgramId) : (s.putTaking x).program i = s.program i := rfl
end

section
variable (x : Word)
@[simp] theorem State.putClock_pending : (s.putClock x).pending = s.pending := rfl
@[simp] theorem State.putClock_link : (s.putClock x).link = s.link := rfl
@[simp] theorem State.putClock_tags : (s.putClock x).tags = s.tags := rfl
@[simp] theorem State.putClock_sent : (s.putClock x).sent = s.sent := rfl
@[simp] theorem State.putClock_toDrive : (s.putClock x).toDrive = s.toDrive := rfl
@[simp] theorem State.putClock_tables : (s.putClock x).tables = s.tables := rfl
@[simp] theorem State.putClock_wait : (s.putClock x).wait = s.wait := rfl
@[simp] theorem State.putClock_hold : (s.putClock x).hold = s.hold := rfl
@[simp] theorem State.putClock_management : (s.putClock x).management = s.management := rfl
@[simp] theorem State.putClock_taking : (s.putClock x).taking = s.taking := rfl
@[simp] theorem State.putClock_clock : (s.putClock x).clock = x := rfl
@[simp] theorem State.putClock_runCounter : (s.putClock x).runCounter = s.runCounter := rfl
@[simp] theorem State.putClock_attention : (s.putClock x).attention = s.attention := rfl
@[simp] theorem State.putClock_jobs : (s.putClock x).jobs = s.jobs := rfl
@[simp] theorem State.putClock_walk : (s.putClock x).walk = s.walk := rfl
@[simp] theorem State.putClock_inFlight : (s.putClock x).inFlight = s.inFlight := rfl
@[simp] theorem State.putClock_slots : (s.putClock x).slots = s.slots := rfl
@[simp] theorem State.putClock_grantPointer : (s.putClock x).grantPointer = s.grantPointer := rfl
@[simp] theorem State.putClock_coverage : (s.putClock x).coverage = s.coverage := rfl
@[simp] theorem State.putClock_ports : (s.putClock x).ports = s.ports := rfl
@[simp] theorem State.putClock_store : (s.putClock x).store = s.store := rfl
@[simp] theorem State.putClock_building : (s.putClock x).building = s.building := rfl
@[simp] theorem State.putClock_nextRequest : (s.putClock x).nextRequest = s.nextRequest := rfl
@[simp] theorem State.putClock_stamp : (s.putClock x).stamp = s.stamp := rfl
@[simp] theorem State.putClock_job (i : JobId) : (s.putClock x).job i = s.job i := rfl
@[simp] theorem State.putClock_port (i : BayId) : (s.putClock x).port i = s.port i := rfl
@[simp] theorem State.putClock_map (i : BayId) : (s.putClock x).map i = s.map i := rfl
@[simp] theorem State.putClock_context (i : BayId) : (s.putClock x).context i = s.context i := rfl
@[simp] theorem State.putClock_list (i : BayId) : (s.putClock x).list i = s.list i := rfl
@[simp] theorem State.putClock_slot (i : SlotId) : (s.putClock x).slot i = s.slot i := rfl
@[simp] theorem State.putClock_attentionOf (i : BayId) : (s.putClock x).attentionOf i = s.attentionOf i := rfl
@[simp] theorem State.putClock_tagInUse (i : Tag) : (s.putClock x).tagInUse i = s.tagInUse i := rfl
@[simp] theorem State.putClock_parameters (i : BayId) : (s.putClock x).parameters i = s.parameters i := rfl
@[simp] theorem State.putClock_program (i : ProgramId) : (s.putClock x).program i = s.program i := rfl
end

section
variable (x : Word)
@[simp] theorem State.putRunCounter_pending : (s.putRunCounter x).pending = s.pending := rfl
@[simp] theorem State.putRunCounter_link : (s.putRunCounter x).link = s.link := rfl
@[simp] theorem State.putRunCounter_tags : (s.putRunCounter x).tags = s.tags := rfl
@[simp] theorem State.putRunCounter_sent : (s.putRunCounter x).sent = s.sent := rfl
@[simp] theorem State.putRunCounter_toDrive : (s.putRunCounter x).toDrive = s.toDrive := rfl
@[simp] theorem State.putRunCounter_tables : (s.putRunCounter x).tables = s.tables := rfl
@[simp] theorem State.putRunCounter_wait : (s.putRunCounter x).wait = s.wait := rfl
@[simp] theorem State.putRunCounter_hold : (s.putRunCounter x).hold = s.hold := rfl
@[simp] theorem State.putRunCounter_management : (s.putRunCounter x).management = s.management := rfl
@[simp] theorem State.putRunCounter_taking : (s.putRunCounter x).taking = s.taking := rfl
@[simp] theorem State.putRunCounter_clock : (s.putRunCounter x).clock = s.clock := rfl
@[simp] theorem State.putRunCounter_runCounter : (s.putRunCounter x).runCounter = x := rfl
@[simp] theorem State.putRunCounter_attention : (s.putRunCounter x).attention = s.attention := rfl
@[simp] theorem State.putRunCounter_jobs : (s.putRunCounter x).jobs = s.jobs := rfl
@[simp] theorem State.putRunCounter_walk : (s.putRunCounter x).walk = s.walk := rfl
@[simp] theorem State.putRunCounter_inFlight : (s.putRunCounter x).inFlight = s.inFlight := rfl
@[simp] theorem State.putRunCounter_slots : (s.putRunCounter x).slots = s.slots := rfl
@[simp] theorem State.putRunCounter_grantPointer : (s.putRunCounter x).grantPointer = s.grantPointer := rfl
@[simp] theorem State.putRunCounter_coverage : (s.putRunCounter x).coverage = s.coverage := rfl
@[simp] theorem State.putRunCounter_ports : (s.putRunCounter x).ports = s.ports := rfl
@[simp] theorem State.putRunCounter_store : (s.putRunCounter x).store = s.store := rfl
@[simp] theorem State.putRunCounter_building : (s.putRunCounter x).building = s.building := rfl
@[simp] theorem State.putRunCounter_nextRequest : (s.putRunCounter x).nextRequest = s.nextRequest := rfl
@[simp] theorem State.putRunCounter_stamp : (s.putRunCounter x).stamp = s.stamp := rfl
@[simp] theorem State.putRunCounter_job (i : JobId) : (s.putRunCounter x).job i = s.job i := rfl
@[simp] theorem State.putRunCounter_port (i : BayId) : (s.putRunCounter x).port i = s.port i := rfl
@[simp] theorem State.putRunCounter_map (i : BayId) : (s.putRunCounter x).map i = s.map i := rfl
@[simp] theorem State.putRunCounter_context (i : BayId) : (s.putRunCounter x).context i = s.context i := rfl
@[simp] theorem State.putRunCounter_list (i : BayId) : (s.putRunCounter x).list i = s.list i := rfl
@[simp] theorem State.putRunCounter_slot (i : SlotId) : (s.putRunCounter x).slot i = s.slot i := rfl
@[simp] theorem State.putRunCounter_attentionOf (i : BayId) : (s.putRunCounter x).attentionOf i = s.attentionOf i := rfl
@[simp] theorem State.putRunCounter_tagInUse (i : Tag) : (s.putRunCounter x).tagInUse i = s.tagInUse i := rfl
@[simp] theorem State.putRunCounter_parameters (i : BayId) : (s.putRunCounter x).parameters i = s.parameters i := rfl
@[simp] theorem State.putRunCounter_program (i : ProgramId) : (s.putRunCounter x).program i = s.program i := rfl
end

section
variable (x : BayId)
@[simp] theorem State.putGrantPointer_pending : (s.putGrantPointer x).pending = s.pending := rfl
@[simp] theorem State.putGrantPointer_link : (s.putGrantPointer x).link = s.link := rfl
@[simp] theorem State.putGrantPointer_tags : (s.putGrantPointer x).tags = s.tags := rfl
@[simp] theorem State.putGrantPointer_sent : (s.putGrantPointer x).sent = s.sent := rfl
@[simp] theorem State.putGrantPointer_toDrive : (s.putGrantPointer x).toDrive = s.toDrive := rfl
@[simp] theorem State.putGrantPointer_tables : (s.putGrantPointer x).tables = s.tables := rfl
@[simp] theorem State.putGrantPointer_wait : (s.putGrantPointer x).wait = s.wait := rfl
@[simp] theorem State.putGrantPointer_hold : (s.putGrantPointer x).hold = s.hold := rfl
@[simp] theorem State.putGrantPointer_management : (s.putGrantPointer x).management = s.management := rfl
@[simp] theorem State.putGrantPointer_taking : (s.putGrantPointer x).taking = s.taking := rfl
@[simp] theorem State.putGrantPointer_clock : (s.putGrantPointer x).clock = s.clock := rfl
@[simp] theorem State.putGrantPointer_runCounter : (s.putGrantPointer x).runCounter = s.runCounter := rfl
@[simp] theorem State.putGrantPointer_attention : (s.putGrantPointer x).attention = s.attention := rfl
@[simp] theorem State.putGrantPointer_jobs : (s.putGrantPointer x).jobs = s.jobs := rfl
@[simp] theorem State.putGrantPointer_walk : (s.putGrantPointer x).walk = s.walk := rfl
@[simp] theorem State.putGrantPointer_inFlight : (s.putGrantPointer x).inFlight = s.inFlight := rfl
@[simp] theorem State.putGrantPointer_slots : (s.putGrantPointer x).slots = s.slots := rfl
@[simp] theorem State.putGrantPointer_grantPointer : (s.putGrantPointer x).grantPointer = x := rfl
@[simp] theorem State.putGrantPointer_coverage : (s.putGrantPointer x).coverage = s.coverage := rfl
@[simp] theorem State.putGrantPointer_ports : (s.putGrantPointer x).ports = s.ports := rfl
@[simp] theorem State.putGrantPointer_store : (s.putGrantPointer x).store = s.store := rfl
@[simp] theorem State.putGrantPointer_building : (s.putGrantPointer x).building = s.building := rfl
@[simp] theorem State.putGrantPointer_nextRequest : (s.putGrantPointer x).nextRequest = s.nextRequest := rfl
@[simp] theorem State.putGrantPointer_stamp : (s.putGrantPointer x).stamp = s.stamp := rfl
@[simp] theorem State.putGrantPointer_job (i : JobId) : (s.putGrantPointer x).job i = s.job i := rfl
@[simp] theorem State.putGrantPointer_port (i : BayId) : (s.putGrantPointer x).port i = s.port i := rfl
@[simp] theorem State.putGrantPointer_map (i : BayId) : (s.putGrantPointer x).map i = s.map i := rfl
@[simp] theorem State.putGrantPointer_context (i : BayId) : (s.putGrantPointer x).context i = s.context i := rfl
@[simp] theorem State.putGrantPointer_list (i : BayId) : (s.putGrantPointer x).list i = s.list i := rfl
@[simp] theorem State.putGrantPointer_slot (i : SlotId) : (s.putGrantPointer x).slot i = s.slot i := rfl
@[simp] theorem State.putGrantPointer_attentionOf (i : BayId) : (s.putGrantPointer x).attentionOf i = s.attentionOf i := rfl
@[simp] theorem State.putGrantPointer_tagInUse (i : Tag) : (s.putGrantPointer x).tagInUse i = s.tagInUse i := rfl
@[simp] theorem State.putGrantPointer_parameters (i : BayId) : (s.putGrantPointer x).parameters i = s.parameters i := rfl
@[simp] theorem State.putGrantPointer_program (i : ProgramId) : (s.putGrantPointer x).program i = s.program i := rfl
end

section
variable (x : List CertificateRecord)
@[simp] theorem State.putStore_pending : (s.putStore x).pending = s.pending := rfl
@[simp] theorem State.putStore_link : (s.putStore x).link = s.link := rfl
@[simp] theorem State.putStore_tags : (s.putStore x).tags = s.tags := rfl
@[simp] theorem State.putStore_sent : (s.putStore x).sent = s.sent := rfl
@[simp] theorem State.putStore_toDrive : (s.putStore x).toDrive = s.toDrive := rfl
@[simp] theorem State.putStore_tables : (s.putStore x).tables = s.tables := rfl
@[simp] theorem State.putStore_wait : (s.putStore x).wait = s.wait := rfl
@[simp] theorem State.putStore_hold : (s.putStore x).hold = s.hold := rfl
@[simp] theorem State.putStore_management : (s.putStore x).management = s.management := rfl
@[simp] theorem State.putStore_taking : (s.putStore x).taking = s.taking := rfl
@[simp] theorem State.putStore_clock : (s.putStore x).clock = s.clock := rfl
@[simp] theorem State.putStore_runCounter : (s.putStore x).runCounter = s.runCounter := rfl
@[simp] theorem State.putStore_attention : (s.putStore x).attention = s.attention := rfl
@[simp] theorem State.putStore_jobs : (s.putStore x).jobs = s.jobs := rfl
@[simp] theorem State.putStore_walk : (s.putStore x).walk = s.walk := rfl
@[simp] theorem State.putStore_inFlight : (s.putStore x).inFlight = s.inFlight := rfl
@[simp] theorem State.putStore_slots : (s.putStore x).slots = s.slots := rfl
@[simp] theorem State.putStore_grantPointer : (s.putStore x).grantPointer = s.grantPointer := rfl
@[simp] theorem State.putStore_coverage : (s.putStore x).coverage = s.coverage := rfl
@[simp] theorem State.putStore_ports : (s.putStore x).ports = s.ports := rfl
@[simp] theorem State.putStore_store : (s.putStore x).store = x := rfl
@[simp] theorem State.putStore_building : (s.putStore x).building = s.building := rfl
@[simp] theorem State.putStore_nextRequest : (s.putStore x).nextRequest = s.nextRequest := rfl
@[simp] theorem State.putStore_stamp : (s.putStore x).stamp = s.stamp := rfl
@[simp] theorem State.putStore_job (i : JobId) : (s.putStore x).job i = s.job i := rfl
@[simp] theorem State.putStore_port (i : BayId) : (s.putStore x).port i = s.port i := rfl
@[simp] theorem State.putStore_map (i : BayId) : (s.putStore x).map i = s.map i := rfl
@[simp] theorem State.putStore_context (i : BayId) : (s.putStore x).context i = s.context i := rfl
@[simp] theorem State.putStore_list (i : BayId) : (s.putStore x).list i = s.list i := rfl
@[simp] theorem State.putStore_slot (i : SlotId) : (s.putStore x).slot i = s.slot i := rfl
@[simp] theorem State.putStore_attentionOf (i : BayId) : (s.putStore x).attentionOf i = s.attentionOf i := rfl
@[simp] theorem State.putStore_tagInUse (i : Tag) : (s.putStore x).tagInUse i = s.tagInUse i := rfl
@[simp] theorem State.putStore_parameters (i : BayId) : (s.putStore x).parameters i = s.parameters i := rfl
@[simp] theorem State.putStore_program (i : ProgramId) : (s.putStore x).program i = s.program i := rfl
end

section
variable (x : List PendingRecord)
@[simp] theorem State.putBuilding_pending : (s.putBuilding x).pending = s.pending := rfl
@[simp] theorem State.putBuilding_link : (s.putBuilding x).link = s.link := rfl
@[simp] theorem State.putBuilding_tags : (s.putBuilding x).tags = s.tags := rfl
@[simp] theorem State.putBuilding_sent : (s.putBuilding x).sent = s.sent := rfl
@[simp] theorem State.putBuilding_toDrive : (s.putBuilding x).toDrive = s.toDrive := rfl
@[simp] theorem State.putBuilding_tables : (s.putBuilding x).tables = s.tables := rfl
@[simp] theorem State.putBuilding_wait : (s.putBuilding x).wait = s.wait := rfl
@[simp] theorem State.putBuilding_hold : (s.putBuilding x).hold = s.hold := rfl
@[simp] theorem State.putBuilding_management : (s.putBuilding x).management = s.management := rfl
@[simp] theorem State.putBuilding_taking : (s.putBuilding x).taking = s.taking := rfl
@[simp] theorem State.putBuilding_clock : (s.putBuilding x).clock = s.clock := rfl
@[simp] theorem State.putBuilding_runCounter : (s.putBuilding x).runCounter = s.runCounter := rfl
@[simp] theorem State.putBuilding_attention : (s.putBuilding x).attention = s.attention := rfl
@[simp] theorem State.putBuilding_jobs : (s.putBuilding x).jobs = s.jobs := rfl
@[simp] theorem State.putBuilding_walk : (s.putBuilding x).walk = s.walk := rfl
@[simp] theorem State.putBuilding_inFlight : (s.putBuilding x).inFlight = s.inFlight := rfl
@[simp] theorem State.putBuilding_slots : (s.putBuilding x).slots = s.slots := rfl
@[simp] theorem State.putBuilding_grantPointer : (s.putBuilding x).grantPointer = s.grantPointer := rfl
@[simp] theorem State.putBuilding_coverage : (s.putBuilding x).coverage = s.coverage := rfl
@[simp] theorem State.putBuilding_ports : (s.putBuilding x).ports = s.ports := rfl
@[simp] theorem State.putBuilding_store : (s.putBuilding x).store = s.store := rfl
@[simp] theorem State.putBuilding_building : (s.putBuilding x).building = x := rfl
@[simp] theorem State.putBuilding_nextRequest : (s.putBuilding x).nextRequest = s.nextRequest := rfl
@[simp] theorem State.putBuilding_stamp : (s.putBuilding x).stamp = s.stamp := rfl
@[simp] theorem State.putBuilding_job (i : JobId) : (s.putBuilding x).job i = s.job i := rfl
@[simp] theorem State.putBuilding_port (i : BayId) : (s.putBuilding x).port i = s.port i := rfl
@[simp] theorem State.putBuilding_map (i : BayId) : (s.putBuilding x).map i = s.map i := rfl
@[simp] theorem State.putBuilding_context (i : BayId) : (s.putBuilding x).context i = s.context i := rfl
@[simp] theorem State.putBuilding_list (i : BayId) : (s.putBuilding x).list i = s.list i := rfl
@[simp] theorem State.putBuilding_slot (i : SlotId) : (s.putBuilding x).slot i = s.slot i := rfl
@[simp] theorem State.putBuilding_attentionOf (i : BayId) : (s.putBuilding x).attentionOf i = s.attentionOf i := rfl
@[simp] theorem State.putBuilding_tagInUse (i : Tag) : (s.putBuilding x).tagInUse i = s.tagInUse i := rfl
@[simp] theorem State.putBuilding_parameters (i : BayId) : (s.putBuilding x).parameters i = s.parameters i := rfl
@[simp] theorem State.putBuilding_program (i : ProgramId) : (s.putBuilding x).program i = s.program i := rfl
end

section
@[simp] theorem State.bumpRequest_pending : (s.bumpRequest).pending = s.pending := rfl
@[simp] theorem State.bumpRequest_link : (s.bumpRequest).link = s.link := rfl
@[simp] theorem State.bumpRequest_tags : (s.bumpRequest).tags = s.tags := rfl
@[simp] theorem State.bumpRequest_sent : (s.bumpRequest).sent = s.sent := rfl
@[simp] theorem State.bumpRequest_toDrive : (s.bumpRequest).toDrive = s.toDrive := rfl
@[simp] theorem State.bumpRequest_tables : (s.bumpRequest).tables = s.tables := rfl
@[simp] theorem State.bumpRequest_wait : (s.bumpRequest).wait = s.wait := rfl
@[simp] theorem State.bumpRequest_hold : (s.bumpRequest).hold = s.hold := rfl
@[simp] theorem State.bumpRequest_management : (s.bumpRequest).management = s.management := rfl
@[simp] theorem State.bumpRequest_taking : (s.bumpRequest).taking = s.taking := rfl
@[simp] theorem State.bumpRequest_clock : (s.bumpRequest).clock = s.clock := rfl
@[simp] theorem State.bumpRequest_runCounter : (s.bumpRequest).runCounter = s.runCounter := rfl
@[simp] theorem State.bumpRequest_attention : (s.bumpRequest).attention = s.attention := rfl
@[simp] theorem State.bumpRequest_jobs : (s.bumpRequest).jobs = s.jobs := rfl
@[simp] theorem State.bumpRequest_walk : (s.bumpRequest).walk = s.walk := rfl
@[simp] theorem State.bumpRequest_inFlight : (s.bumpRequest).inFlight = s.inFlight := rfl
@[simp] theorem State.bumpRequest_slots : (s.bumpRequest).slots = s.slots := rfl
@[simp] theorem State.bumpRequest_grantPointer : (s.bumpRequest).grantPointer = s.grantPointer := rfl
@[simp] theorem State.bumpRequest_coverage : (s.bumpRequest).coverage = s.coverage := rfl
@[simp] theorem State.bumpRequest_ports : (s.bumpRequest).ports = s.ports := rfl
@[simp] theorem State.bumpRequest_store : (s.bumpRequest).store = s.store := rfl
@[simp] theorem State.bumpRequest_building : (s.bumpRequest).building = s.building := rfl
@[simp] theorem State.bumpRequest_nextRequest : (s.bumpRequest).nextRequest = s.nextRequest + 1 := rfl
@[simp] theorem State.bumpRequest_stamp : (s.bumpRequest).stamp = s.stamp := rfl
@[simp] theorem State.bumpRequest_job (i : JobId) : (s.bumpRequest).job i = s.job i := rfl
@[simp] theorem State.bumpRequest_port (i : BayId) : (s.bumpRequest).port i = s.port i := rfl
@[simp] theorem State.bumpRequest_map (i : BayId) : (s.bumpRequest).map i = s.map i := rfl
@[simp] theorem State.bumpRequest_context (i : BayId) : (s.bumpRequest).context i = s.context i := rfl
@[simp] theorem State.bumpRequest_list (i : BayId) : (s.bumpRequest).list i = s.list i := rfl
@[simp] theorem State.bumpRequest_slot (i : SlotId) : (s.bumpRequest).slot i = s.slot i := rfl
@[simp] theorem State.bumpRequest_attentionOf (i : BayId) : (s.bumpRequest).attentionOf i = s.attentionOf i := rfl
@[simp] theorem State.bumpRequest_tagInUse (i : Tag) : (s.bumpRequest).tagInUse i = s.tagInUse i := rfl
@[simp] theorem State.bumpRequest_parameters (i : BayId) : (s.bumpRequest).parameters i = s.parameters i := rfl
@[simp] theorem State.bumpRequest_program (i : ProgramId) : (s.bumpRequest).program i = s.program i := rfl
end

section
@[simp] theorem State.bumpStamp_pending : (s.bumpStamp).pending = s.pending := rfl
@[simp] theorem State.bumpStamp_link : (s.bumpStamp).link = s.link := rfl
@[simp] theorem State.bumpStamp_tags : (s.bumpStamp).tags = s.tags := rfl
@[simp] theorem State.bumpStamp_sent : (s.bumpStamp).sent = s.sent := rfl
@[simp] theorem State.bumpStamp_toDrive : (s.bumpStamp).toDrive = s.toDrive := rfl
@[simp] theorem State.bumpStamp_tables : (s.bumpStamp).tables = s.tables := rfl
@[simp] theorem State.bumpStamp_wait : (s.bumpStamp).wait = s.wait := rfl
@[simp] theorem State.bumpStamp_hold : (s.bumpStamp).hold = s.hold := rfl
@[simp] theorem State.bumpStamp_management : (s.bumpStamp).management = s.management := rfl
@[simp] theorem State.bumpStamp_taking : (s.bumpStamp).taking = s.taking := rfl
@[simp] theorem State.bumpStamp_clock : (s.bumpStamp).clock = s.clock := rfl
@[simp] theorem State.bumpStamp_runCounter : (s.bumpStamp).runCounter = s.runCounter := rfl
@[simp] theorem State.bumpStamp_attention : (s.bumpStamp).attention = s.attention := rfl
@[simp] theorem State.bumpStamp_jobs : (s.bumpStamp).jobs = s.jobs := rfl
@[simp] theorem State.bumpStamp_walk : (s.bumpStamp).walk = s.walk := rfl
@[simp] theorem State.bumpStamp_inFlight : (s.bumpStamp).inFlight = s.inFlight := rfl
@[simp] theorem State.bumpStamp_slots : (s.bumpStamp).slots = s.slots := rfl
@[simp] theorem State.bumpStamp_grantPointer : (s.bumpStamp).grantPointer = s.grantPointer := rfl
@[simp] theorem State.bumpStamp_coverage : (s.bumpStamp).coverage = s.coverage := rfl
@[simp] theorem State.bumpStamp_ports : (s.bumpStamp).ports = s.ports := rfl
@[simp] theorem State.bumpStamp_store : (s.bumpStamp).store = s.store := rfl
@[simp] theorem State.bumpStamp_building : (s.bumpStamp).building = s.building := rfl
@[simp] theorem State.bumpStamp_nextRequest : (s.bumpStamp).nextRequest = s.nextRequest := rfl
@[simp] theorem State.bumpStamp_stamp : (s.bumpStamp).stamp = s.stamp + 1 := rfl
@[simp] theorem State.bumpStamp_job (i : JobId) : (s.bumpStamp).job i = s.job i := rfl
@[simp] theorem State.bumpStamp_port (i : BayId) : (s.bumpStamp).port i = s.port i := rfl
@[simp] theorem State.bumpStamp_map (i : BayId) : (s.bumpStamp).map i = s.map i := rfl
@[simp] theorem State.bumpStamp_context (i : BayId) : (s.bumpStamp).context i = s.context i := rfl
@[simp] theorem State.bumpStamp_list (i : BayId) : (s.bumpStamp).list i = s.list i := rfl
@[simp] theorem State.bumpStamp_slot (i : SlotId) : (s.bumpStamp).slot i = s.slot i := rfl
@[simp] theorem State.bumpStamp_attentionOf (i : BayId) : (s.bumpStamp).attentionOf i = s.attentionOf i := rfl
@[simp] theorem State.bumpStamp_tagInUse (i : Tag) : (s.bumpStamp).tagInUse i = s.tagInUse i := rfl
@[simp] theorem State.bumpStamp_parameters (i : BayId) : (s.bumpStamp).parameters i = s.parameters i := rfl
@[simp] theorem State.bumpStamp_program (i : ProgramId) : (s.bumpStamp).program i = s.program i := rfl
end

section
variable (x : Link)
@[simp] theorem State.putLink_pending : (s.putLink x).pending = s.pending := rfl
@[simp] theorem State.putLink_link : (s.putLink x).link = x := rfl
@[simp] theorem State.putLink_tags : (s.putLink x).tags = s.tags := rfl
@[simp] theorem State.putLink_sent : (s.putLink x).sent = s.sent := rfl
@[simp] theorem State.putLink_toDrive : (s.putLink x).toDrive = s.toDrive := rfl
@[simp] theorem State.putLink_tables : (s.putLink x).tables = s.tables := rfl
@[simp] theorem State.putLink_wait : (s.putLink x).wait = s.wait := rfl
@[simp] theorem State.putLink_hold : (s.putLink x).hold = s.hold := rfl
@[simp] theorem State.putLink_management : (s.putLink x).management = s.management := rfl
@[simp] theorem State.putLink_taking : (s.putLink x).taking = s.taking := rfl
@[simp] theorem State.putLink_clock : (s.putLink x).clock = s.clock := rfl
@[simp] theorem State.putLink_runCounter : (s.putLink x).runCounter = s.runCounter := rfl
@[simp] theorem State.putLink_attention : (s.putLink x).attention = s.attention := rfl
@[simp] theorem State.putLink_jobs : (s.putLink x).jobs = s.jobs := rfl
@[simp] theorem State.putLink_walk : (s.putLink x).walk = s.walk := rfl
@[simp] theorem State.putLink_inFlight : (s.putLink x).inFlight = s.inFlight := rfl
@[simp] theorem State.putLink_slots : (s.putLink x).slots = s.slots := rfl
@[simp] theorem State.putLink_grantPointer : (s.putLink x).grantPointer = s.grantPointer := rfl
@[simp] theorem State.putLink_coverage : (s.putLink x).coverage = s.coverage := rfl
@[simp] theorem State.putLink_ports : (s.putLink x).ports = s.ports := rfl
@[simp] theorem State.putLink_store : (s.putLink x).store = s.store := rfl
@[simp] theorem State.putLink_building : (s.putLink x).building = s.building := rfl
@[simp] theorem State.putLink_nextRequest : (s.putLink x).nextRequest = s.nextRequest := rfl
@[simp] theorem State.putLink_stamp : (s.putLink x).stamp = s.stamp := rfl
@[simp] theorem State.putLink_job (i : JobId) : (s.putLink x).job i = s.job i := rfl
@[simp] theorem State.putLink_port (i : BayId) : (s.putLink x).port i = s.port i := rfl
@[simp] theorem State.putLink_map (i : BayId) : (s.putLink x).map i = s.map i := rfl
@[simp] theorem State.putLink_context (i : BayId) : (s.putLink x).context i = s.context i := rfl
@[simp] theorem State.putLink_list (i : BayId) : (s.putLink x).list i = s.list i := rfl
@[simp] theorem State.putLink_slot (i : SlotId) : (s.putLink x).slot i = s.slot i := rfl
@[simp] theorem State.putLink_attentionOf (i : BayId) : (s.putLink x).attentionOf i = s.attentionOf i := rfl
@[simp] theorem State.putLink_tagInUse (i : Tag) : (s.putLink x).tagInUse i = s.tagInUse i := rfl
@[simp] theorem State.putLink_parameters (i : BayId) : (s.putLink x).parameters i = s.parameters i := rfl
@[simp] theorem State.putLink_program (i : ProgramId) : (s.putLink x).program i = s.program i := rfl
end

section
variable (x : List Instr)
@[simp] theorem State.putPending_pending : (s.putPending x).pending = x := rfl
@[simp] theorem State.putPending_link : (s.putPending x).link = s.link := rfl
@[simp] theorem State.putPending_tags : (s.putPending x).tags = s.tags := rfl
@[simp] theorem State.putPending_sent : (s.putPending x).sent = s.sent := rfl
@[simp] theorem State.putPending_toDrive : (s.putPending x).toDrive = s.toDrive := rfl
@[simp] theorem State.putPending_tables : (s.putPending x).tables = s.tables := rfl
@[simp] theorem State.putPending_wait : (s.putPending x).wait = s.wait := rfl
@[simp] theorem State.putPending_hold : (s.putPending x).hold = s.hold := rfl
@[simp] theorem State.putPending_management : (s.putPending x).management = s.management := rfl
@[simp] theorem State.putPending_taking : (s.putPending x).taking = s.taking := rfl
@[simp] theorem State.putPending_clock : (s.putPending x).clock = s.clock := rfl
@[simp] theorem State.putPending_runCounter : (s.putPending x).runCounter = s.runCounter := rfl
@[simp] theorem State.putPending_attention : (s.putPending x).attention = s.attention := rfl
@[simp] theorem State.putPending_jobs : (s.putPending x).jobs = s.jobs := rfl
@[simp] theorem State.putPending_walk : (s.putPending x).walk = s.walk := rfl
@[simp] theorem State.putPending_inFlight : (s.putPending x).inFlight = s.inFlight := rfl
@[simp] theorem State.putPending_slots : (s.putPending x).slots = s.slots := rfl
@[simp] theorem State.putPending_grantPointer : (s.putPending x).grantPointer = s.grantPointer := rfl
@[simp] theorem State.putPending_coverage : (s.putPending x).coverage = s.coverage := rfl
@[simp] theorem State.putPending_ports : (s.putPending x).ports = s.ports := rfl
@[simp] theorem State.putPending_store : (s.putPending x).store = s.store := rfl
@[simp] theorem State.putPending_building : (s.putPending x).building = s.building := rfl
@[simp] theorem State.putPending_nextRequest : (s.putPending x).nextRequest = s.nextRequest := rfl
@[simp] theorem State.putPending_stamp : (s.putPending x).stamp = s.stamp := rfl
@[simp] theorem State.putPending_job (i : JobId) : (s.putPending x).job i = s.job i := rfl
@[simp] theorem State.putPending_port (i : BayId) : (s.putPending x).port i = s.port i := rfl
@[simp] theorem State.putPending_map (i : BayId) : (s.putPending x).map i = s.map i := rfl
@[simp] theorem State.putPending_context (i : BayId) : (s.putPending x).context i = s.context i := rfl
@[simp] theorem State.putPending_list (i : BayId) : (s.putPending x).list i = s.list i := rfl
@[simp] theorem State.putPending_slot (i : SlotId) : (s.putPending x).slot i = s.slot i := rfl
@[simp] theorem State.putPending_attentionOf (i : BayId) : (s.putPending x).attentionOf i = s.attentionOf i := rfl
@[simp] theorem State.putPending_tagInUse (i : Tag) : (s.putPending x).tagInUse i = s.tagInUse i := rfl
@[simp] theorem State.putPending_parameters (i : BayId) : (s.putPending x).parameters i = s.parameters i := rfl
@[simp] theorem State.putPending_program (i : ProgramId) : (s.putPending x).program i = s.program i := rfl
end

section
@[simp] theorem State.freeAllTags_pending : (s.freeAllTags).pending = s.pending := rfl
@[simp] theorem State.freeAllTags_link : (s.freeAllTags).link = s.link := rfl
@[simp] theorem State.freeAllTags_tags : (s.freeAllTags).tags = Vector.replicate 64 false := rfl
@[simp] theorem State.freeAllTags_sent : (s.freeAllTags).sent = s.sent := rfl
@[simp] theorem State.freeAllTags_toDrive : (s.freeAllTags).toDrive = s.toDrive := rfl
@[simp] theorem State.freeAllTags_tables : (s.freeAllTags).tables = s.tables := rfl
@[simp] theorem State.freeAllTags_wait : (s.freeAllTags).wait = s.wait := rfl
@[simp] theorem State.freeAllTags_hold : (s.freeAllTags).hold = s.hold := rfl
@[simp] theorem State.freeAllTags_management : (s.freeAllTags).management = s.management := rfl
@[simp] theorem State.freeAllTags_taking : (s.freeAllTags).taking = s.taking := rfl
@[simp] theorem State.freeAllTags_clock : (s.freeAllTags).clock = s.clock := rfl
@[simp] theorem State.freeAllTags_runCounter : (s.freeAllTags).runCounter = s.runCounter := rfl
@[simp] theorem State.freeAllTags_attention : (s.freeAllTags).attention = s.attention := rfl
@[simp] theorem State.freeAllTags_jobs : (s.freeAllTags).jobs = s.jobs := rfl
@[simp] theorem State.freeAllTags_walk : (s.freeAllTags).walk = s.walk := rfl
@[simp] theorem State.freeAllTags_inFlight : (s.freeAllTags).inFlight = s.inFlight := rfl
@[simp] theorem State.freeAllTags_slots : (s.freeAllTags).slots = s.slots := rfl
@[simp] theorem State.freeAllTags_grantPointer : (s.freeAllTags).grantPointer = s.grantPointer := rfl
@[simp] theorem State.freeAllTags_coverage : (s.freeAllTags).coverage = s.coverage := rfl
@[simp] theorem State.freeAllTags_ports : (s.freeAllTags).ports = s.ports := rfl
@[simp] theorem State.freeAllTags_store : (s.freeAllTags).store = s.store := rfl
@[simp] theorem State.freeAllTags_building : (s.freeAllTags).building = s.building := rfl
@[simp] theorem State.freeAllTags_nextRequest : (s.freeAllTags).nextRequest = s.nextRequest := rfl
@[simp] theorem State.freeAllTags_stamp : (s.freeAllTags).stamp = s.stamp := rfl
@[simp] theorem State.freeAllTags_job (i : JobId) : (s.freeAllTags).job i = s.job i := rfl
@[simp] theorem State.freeAllTags_port (i : BayId) : (s.freeAllTags).port i = s.port i := rfl
@[simp] theorem State.freeAllTags_map (i : BayId) : (s.freeAllTags).map i = s.map i := rfl
@[simp] theorem State.freeAllTags_context (i : BayId) : (s.freeAllTags).context i = s.context i := rfl
@[simp] theorem State.freeAllTags_list (i : BayId) : (s.freeAllTags).list i = s.list i := rfl
@[simp] theorem State.freeAllTags_slot (i : SlotId) : (s.freeAllTags).slot i = s.slot i := rfl
@[simp] theorem State.freeAllTags_attentionOf (i : BayId) : (s.freeAllTags).attentionOf i = s.attentionOf i := rfl
@[simp] theorem State.freeAllTags_parameters (i : BayId) : (s.freeAllTags).parameters i = s.parameters i := rfl
@[simp] theorem State.freeAllTags_program (i : ProgramId) : (s.freeAllTags).program i = s.program i := rfl
end

section
variable (j : JobId) (f : Job → Job)
@[simp] theorem State.modJob_pending : (s.modJob j f).pending = s.pending := rfl
@[simp] theorem State.modJob_link : (s.modJob j f).link = s.link := rfl
@[simp] theorem State.modJob_tags : (s.modJob j f).tags = s.tags := rfl
@[simp] theorem State.modJob_sent : (s.modJob j f).sent = s.sent := rfl
@[simp] theorem State.modJob_toDrive : (s.modJob j f).toDrive = s.toDrive := rfl
@[simp] theorem State.modJob_tables : (s.modJob j f).tables = s.tables := rfl
@[simp] theorem State.modJob_wait : (s.modJob j f).wait = s.wait := rfl
@[simp] theorem State.modJob_hold : (s.modJob j f).hold = s.hold := rfl
@[simp] theorem State.modJob_management : (s.modJob j f).management = s.management := rfl
@[simp] theorem State.modJob_taking : (s.modJob j f).taking = s.taking := rfl
@[simp] theorem State.modJob_clock : (s.modJob j f).clock = s.clock := rfl
@[simp] theorem State.modJob_runCounter : (s.modJob j f).runCounter = s.runCounter := rfl
@[simp] theorem State.modJob_attention : (s.modJob j f).attention = s.attention := rfl
@[simp] theorem State.modJob_jobs : (s.modJob j f).jobs = put s.jobs j (f (s.job j)) := rfl
@[simp] theorem State.modJob_walk : (s.modJob j f).walk = s.walk := rfl
@[simp] theorem State.modJob_inFlight : (s.modJob j f).inFlight = s.inFlight := rfl
@[simp] theorem State.modJob_slots : (s.modJob j f).slots = s.slots := rfl
@[simp] theorem State.modJob_grantPointer : (s.modJob j f).grantPointer = s.grantPointer := rfl
@[simp] theorem State.modJob_coverage : (s.modJob j f).coverage = s.coverage := rfl
@[simp] theorem State.modJob_ports : (s.modJob j f).ports = s.ports := rfl
@[simp] theorem State.modJob_store : (s.modJob j f).store = s.store := rfl
@[simp] theorem State.modJob_building : (s.modJob j f).building = s.building := rfl
@[simp] theorem State.modJob_nextRequest : (s.modJob j f).nextRequest = s.nextRequest := rfl
@[simp] theorem State.modJob_stamp : (s.modJob j f).stamp = s.stamp := rfl
@[simp] theorem State.modJob_port (i : BayId) : (s.modJob j f).port i = s.port i := rfl
@[simp] theorem State.modJob_map (i : BayId) : (s.modJob j f).map i = s.map i := rfl
@[simp] theorem State.modJob_context (i : BayId) : (s.modJob j f).context i = s.context i := rfl
@[simp] theorem State.modJob_list (i : BayId) : (s.modJob j f).list i = s.list i := rfl
@[simp] theorem State.modJob_slot (i : SlotId) : (s.modJob j f).slot i = s.slot i := rfl
@[simp] theorem State.modJob_attentionOf (i : BayId) : (s.modJob j f).attentionOf i = s.attentionOf i := rfl
@[simp] theorem State.modJob_tagInUse (i : Tag) : (s.modJob j f).tagInUse i = s.tagInUse i := rfl
@[simp] theorem State.modJob_parameters (i : BayId) : (s.modJob j f).parameters i = s.parameters i := rfl
@[simp] theorem State.modJob_program (i : ProgramId) : (s.modJob j f).program i = s.program i := rfl
end

section
variable (b : BayId) (f : BayPort → BayPort)
@[simp] theorem State.modPort_pending : (s.modPort b f).pending = s.pending := rfl
@[simp] theorem State.modPort_link : (s.modPort b f).link = s.link := rfl
@[simp] theorem State.modPort_tags : (s.modPort b f).tags = s.tags := rfl
@[simp] theorem State.modPort_sent : (s.modPort b f).sent = s.sent := rfl
@[simp] theorem State.modPort_toDrive : (s.modPort b f).toDrive = s.toDrive := rfl
@[simp] theorem State.modPort_tables : (s.modPort b f).tables = s.tables := rfl
@[simp] theorem State.modPort_wait : (s.modPort b f).wait = s.wait := rfl
@[simp] theorem State.modPort_hold : (s.modPort b f).hold = s.hold := rfl
@[simp] theorem State.modPort_management : (s.modPort b f).management = s.management := rfl
@[simp] theorem State.modPort_taking : (s.modPort b f).taking = s.taking := rfl
@[simp] theorem State.modPort_clock : (s.modPort b f).clock = s.clock := rfl
@[simp] theorem State.modPort_runCounter : (s.modPort b f).runCounter = s.runCounter := rfl
@[simp] theorem State.modPort_attention : (s.modPort b f).attention = s.attention := rfl
@[simp] theorem State.modPort_jobs : (s.modPort b f).jobs = s.jobs := rfl
@[simp] theorem State.modPort_walk : (s.modPort b f).walk = s.walk := rfl
@[simp] theorem State.modPort_inFlight : (s.modPort b f).inFlight = s.inFlight := rfl
@[simp] theorem State.modPort_slots : (s.modPort b f).slots = s.slots := rfl
@[simp] theorem State.modPort_grantPointer : (s.modPort b f).grantPointer = s.grantPointer := rfl
@[simp] theorem State.modPort_coverage : (s.modPort b f).coverage = s.coverage := rfl
@[simp] theorem State.modPort_ports : (s.modPort b f).ports = put s.ports b (f (s.port b)) := rfl
@[simp] theorem State.modPort_store : (s.modPort b f).store = s.store := rfl
@[simp] theorem State.modPort_building : (s.modPort b f).building = s.building := rfl
@[simp] theorem State.modPort_nextRequest : (s.modPort b f).nextRequest = s.nextRequest := rfl
@[simp] theorem State.modPort_stamp : (s.modPort b f).stamp = s.stamp := rfl
@[simp] theorem State.modPort_job (i : JobId) : (s.modPort b f).job i = s.job i := rfl
@[simp] theorem State.modPort_map (i : BayId) : (s.modPort b f).map i = s.map i := rfl
@[simp] theorem State.modPort_context (i : BayId) : (s.modPort b f).context i = s.context i := rfl
@[simp] theorem State.modPort_list (i : BayId) : (s.modPort b f).list i = s.list i := rfl
@[simp] theorem State.modPort_slot (i : SlotId) : (s.modPort b f).slot i = s.slot i := rfl
@[simp] theorem State.modPort_attentionOf (i : BayId) : (s.modPort b f).attentionOf i = s.attentionOf i := rfl
@[simp] theorem State.modPort_tagInUse (i : Tag) : (s.modPort b f).tagInUse i = s.tagInUse i := rfl
@[simp] theorem State.modPort_parameters (i : BayId) : (s.modPort b f).parameters i = s.parameters i := rfl
@[simp] theorem State.modPort_program (i : ProgramId) : (s.modPort b f).program i = s.program i := rfl
end

section
variable (b : BayId) (f : WalkContext → WalkContext)
@[simp] theorem State.modContext_pending : (s.modContext b f).pending = s.pending := rfl
@[simp] theorem State.modContext_link : (s.modContext b f).link = s.link := rfl
@[simp] theorem State.modContext_tags : (s.modContext b f).tags = s.tags := rfl
@[simp] theorem State.modContext_sent : (s.modContext b f).sent = s.sent := rfl
@[simp] theorem State.modContext_toDrive : (s.modContext b f).toDrive = s.toDrive := rfl
@[simp] theorem State.modContext_tables : (s.modContext b f).tables = s.tables := rfl
@[simp] theorem State.modContext_wait : (s.modContext b f).wait = s.wait := rfl
@[simp] theorem State.modContext_hold : (s.modContext b f).hold = s.hold := rfl
@[simp] theorem State.modContext_management : (s.modContext b f).management = s.management := rfl
@[simp] theorem State.modContext_taking : (s.modContext b f).taking = s.taking := rfl
@[simp] theorem State.modContext_clock : (s.modContext b f).clock = s.clock := rfl
@[simp] theorem State.modContext_runCounter : (s.modContext b f).runCounter = s.runCounter := rfl
@[simp] theorem State.modContext_attention : (s.modContext b f).attention = s.attention := rfl
@[simp] theorem State.modContext_jobs : (s.modContext b f).jobs = s.jobs := rfl
@[simp] theorem State.modContext_walk : (s.modContext b f).walk = put s.walk b ((s.context b).map f) := rfl
@[simp] theorem State.modContext_inFlight : (s.modContext b f).inFlight = s.inFlight := rfl
@[simp] theorem State.modContext_slots : (s.modContext b f).slots = s.slots := rfl
@[simp] theorem State.modContext_grantPointer : (s.modContext b f).grantPointer = s.grantPointer := rfl
@[simp] theorem State.modContext_coverage : (s.modContext b f).coverage = s.coverage := rfl
@[simp] theorem State.modContext_ports : (s.modContext b f).ports = s.ports := rfl
@[simp] theorem State.modContext_store : (s.modContext b f).store = s.store := rfl
@[simp] theorem State.modContext_building : (s.modContext b f).building = s.building := rfl
@[simp] theorem State.modContext_nextRequest : (s.modContext b f).nextRequest = s.nextRequest := rfl
@[simp] theorem State.modContext_stamp : (s.modContext b f).stamp = s.stamp := rfl
@[simp] theorem State.modContext_job (i : JobId) : (s.modContext b f).job i = s.job i := rfl
@[simp] theorem State.modContext_port (i : BayId) : (s.modContext b f).port i = s.port i := rfl
@[simp] theorem State.modContext_map (i : BayId) : (s.modContext b f).map i = s.map i := rfl
@[simp] theorem State.modContext_list (i : BayId) : (s.modContext b f).list i = s.list i := rfl
@[simp] theorem State.modContext_slot (i : SlotId) : (s.modContext b f).slot i = s.slot i := rfl
@[simp] theorem State.modContext_attentionOf (i : BayId) : (s.modContext b f).attentionOf i = s.attentionOf i := rfl
@[simp] theorem State.modContext_tagInUse (i : Tag) : (s.modContext b f).tagInUse i = s.tagInUse i := rfl
@[simp] theorem State.modContext_parameters (i : BayId) : (s.modContext b f).parameters i = s.parameters i := rfl
@[simp] theorem State.modContext_program (i : ProgramId) : (s.modContext b f).program i = s.program i := rfl
end

section
variable (k : SlotId) (f : Slot → Slot)
@[simp] theorem State.modSlot_pending : (s.modSlot k f).pending = s.pending := rfl
@[simp] theorem State.modSlot_link : (s.modSlot k f).link = s.link := rfl
@[simp] theorem State.modSlot_tags : (s.modSlot k f).tags = s.tags := rfl
@[simp] theorem State.modSlot_sent : (s.modSlot k f).sent = s.sent := rfl
@[simp] theorem State.modSlot_toDrive : (s.modSlot k f).toDrive = s.toDrive := rfl
@[simp] theorem State.modSlot_tables : (s.modSlot k f).tables = s.tables := rfl
@[simp] theorem State.modSlot_wait : (s.modSlot k f).wait = s.wait := rfl
@[simp] theorem State.modSlot_hold : (s.modSlot k f).hold = s.hold := rfl
@[simp] theorem State.modSlot_management : (s.modSlot k f).management = s.management := rfl
@[simp] theorem State.modSlot_taking : (s.modSlot k f).taking = s.taking := rfl
@[simp] theorem State.modSlot_clock : (s.modSlot k f).clock = s.clock := rfl
@[simp] theorem State.modSlot_runCounter : (s.modSlot k f).runCounter = s.runCounter := rfl
@[simp] theorem State.modSlot_attention : (s.modSlot k f).attention = s.attention := rfl
@[simp] theorem State.modSlot_jobs : (s.modSlot k f).jobs = s.jobs := rfl
@[simp] theorem State.modSlot_walk : (s.modSlot k f).walk = s.walk := rfl
@[simp] theorem State.modSlot_inFlight : (s.modSlot k f).inFlight = s.inFlight := rfl
@[simp] theorem State.modSlot_slots : (s.modSlot k f).slots = put s.slots k (f (s.slot k)) := rfl
@[simp] theorem State.modSlot_grantPointer : (s.modSlot k f).grantPointer = s.grantPointer := rfl
@[simp] theorem State.modSlot_coverage : (s.modSlot k f).coverage = s.coverage := rfl
@[simp] theorem State.modSlot_ports : (s.modSlot k f).ports = s.ports := rfl
@[simp] theorem State.modSlot_store : (s.modSlot k f).store = s.store := rfl
@[simp] theorem State.modSlot_building : (s.modSlot k f).building = s.building := rfl
@[simp] theorem State.modSlot_nextRequest : (s.modSlot k f).nextRequest = s.nextRequest := rfl
@[simp] theorem State.modSlot_stamp : (s.modSlot k f).stamp = s.stamp := rfl
@[simp] theorem State.modSlot_job (i : JobId) : (s.modSlot k f).job i = s.job i := rfl
@[simp] theorem State.modSlot_port (i : BayId) : (s.modSlot k f).port i = s.port i := rfl
@[simp] theorem State.modSlot_map (i : BayId) : (s.modSlot k f).map i = s.map i := rfl
@[simp] theorem State.modSlot_context (i : BayId) : (s.modSlot k f).context i = s.context i := rfl
@[simp] theorem State.modSlot_list (i : BayId) : (s.modSlot k f).list i = s.list i := rfl
@[simp] theorem State.modSlot_attentionOf (i : BayId) : (s.modSlot k f).attentionOf i = s.attentionOf i := rfl
@[simp] theorem State.modSlot_tagInUse (i : Tag) : (s.modSlot k f).tagInUse i = s.tagInUse i := rfl
@[simp] theorem State.modSlot_parameters (i : BayId) : (s.modSlot k f).parameters i = s.parameters i := rfl
@[simp] theorem State.modSlot_program (i : ProgramId) : (s.modSlot k f).program i = s.program i := rfl
end

end Sys2Proof.Machine
end

