-- ==== Sys2Proof/Laws/Ops.lean ====
section
/-! SUPPORT. What the shared operations of Machine/Ops.lean do: single entries read back after a write, frames sent and
tags freed, the management queue's front, extent memory. -/

namespace Sys2Proof.Machine

/-! ### Tables -/

@[simp] theorem put_val_same {α : Type} {n : Nat} (v : Vector α n) (i : Fin n) (x : α) : (put v i x)[i.val] = x := by
  simp [put]

theorem put_same {α : Type} {n : Nat} (v : Vector α n) (i : Fin n) (x : α) : (put v i x)[i] = x := put_val_same v i x

theorem put_other {α : Type} {n : Nat} (v : Vector α n) {i k : Fin n} (x : α) (h : k ≠ i) : (put v i x)[k] = v[k] := by
  have : i.val ≠ k.val := fun e => h (Fin.ext e.symm)
  simp [put, this]

theorem put_get {α : Type} {n : Nat} (v : Vector α n) (i k : Fin n) (x : α) :
    (put v i x)[k] = if k = i then x else v[k] := by
  by_cases h : k = i
  · subst h; rw [if_pos rfl]; exact put_same v k x
  · rw [if_neg h]; exact put_other v x h

@[simp] theorem put_put {α : Type} {n : Nat} (v : Vector α n) (i : Fin n) (x y : α) : put (put v i x) i y = put v i y := by
  simp [put]

@[simp] theorem put_self {α : Type} {n : Nat} (v : Vector α n) (i : Fin n) : put v i v[i] = v := by
  simp [put]

variable (s : State)

theorem State.putJob_job (j k : JobId) (x : Job) : (s.putJob j x).job k = if k = j then x else s.job k := put_get _ _ _ _
theorem State.putPort_port (b c : BayId) (x : BayPort) : (s.putPort b x).port c = if c = b then x else s.port c :=
  put_get _ _ _ _
theorem State.putMap_map (b c : BayId) (x : CoverageMap) : (s.putMap b x).map c = if c = b then x else s.map c :=
  put_get _ _ _ _
theorem State.putContext_context (b c : BayId) (x : Option WalkContext) :
    (s.putContext b x).context c = if c = b then x else s.context c := put_get _ _ _ _
theorem State.putList_list (b c : BayId) (x : List Entry) : (s.putList b x).list c = if c = b then x else s.list c :=
  put_get _ _ _ _
theorem State.putSlot_slot (k l : SlotId) (x : Slot) : (s.putSlot k x).slot l = if l = k then x else s.slot l :=
  put_get _ _ _ _
theorem State.putAttention_attentionOf (b c : BayId) (x : AttentionSet) :
    (s.putAttention b x).attentionOf c = if c = b then x else s.attentionOf c := put_get _ _ _ _
theorem State.putTag_tagInUse (t u : Tag) (x : Bool) : (s.putTag t x).tagInUse u = if u = t then x else s.tagInUse u :=
  put_get _ _ _ _

@[simp] theorem State.putJob_job_same (j : JobId) (x : Job) : (s.putJob j x).job j = x := put_same _ _ _
@[simp] theorem State.putPort_port_same (b : BayId) (x : BayPort) : (s.putPort b x).port b = x := put_same _ _ _
@[simp] theorem State.putMap_map_same (b : BayId) (x : CoverageMap) : (s.putMap b x).map b = x := put_same _ _ _
@[simp] theorem State.putContext_context_same (b : BayId) (x : Option WalkContext) : (s.putContext b x).context b = x :=
  put_same _ _ _
@[simp] theorem State.putList_list_same (b : BayId) (x : List Entry) : (s.putList b x).list b = x := put_same _ _ _
@[simp] theorem State.putSlot_slot_same (k : SlotId) (x : Slot) : (s.putSlot k x).slot k = x := put_same _ _ _
@[simp] theorem State.putAttention_attentionOf_same (b : BayId) (x : AttentionSet) :
    (s.putAttention b x).attentionOf b = x := put_same _ _ _
@[simp] theorem State.putTag_tagInUse_same (t : Tag) (x : Bool) : (s.putTag t x).tagInUse t = x := put_same _ _ _

theorem State.modJob_job (j k : JobId) (f : Job → Job) : (s.modJob j f).job k = if k = j then f (s.job j) else s.job k :=
  put_get _ _ _ _
theorem State.modPort_port (b c : BayId) (f : BayPort → BayPort) :
    (s.modPort b f).port c = if c = b then f (s.port b) else s.port c := put_get _ _ _ _
theorem State.modContext_context (b c : BayId) (f : WalkContext → WalkContext) :
    (s.modContext b f).context c = if c = b then (s.context b).map f else s.context c := put_get _ _ _ _
theorem State.modSlot_slot (k l : SlotId) (f : Slot → Slot) :
    (s.modSlot k f).slot l = if l = k then f (s.slot k) else s.slot l := put_get _ _ _ _

@[simp] theorem State.modJob_job_same (j : JobId) (f : Job → Job) : (s.modJob j f).job j = f (s.job j) := put_same _ _ _
@[simp] theorem State.modPort_port_same (b : BayId) (f : BayPort → BayPort) : (s.modPort b f).port b = f (s.port b) :=
  put_same _ _ _
@[simp] theorem State.modContext_context_same (b : BayId) (f : WalkContext → WalkContext) :
    (s.modContext b f).context b = (s.context b).map f := put_same _ _ _
@[simp] theorem State.modSlot_slot_same (k : SlotId) (f : Slot → Slot) : (s.modSlot k f).slot k = f (s.slot k) :=
  put_same _ _ _

/-! ### Jobs and bays -/

theorem mem_allJobs (j : JobId) : j ∈ allJobs := by revert j; decide

theorem mem_allBays (b : BayId) : b ∈ allBays := by revert b; decide

/-- What `activeJob` finds is an active job of the bay (R4, R5). -/
theorem activeJob_spec {s : State} {b : BayId} {j : JobId} (h : activeJob s b = some j) :
    (s.job j).state.active = true ∧ (s.job j).bay = b := by
  simpa using List.find?_some h

/-- A bay has no active job exactly when no active job names it. -/
theorem activeJob_none {s : State} {b : BayId} :
    activeJob s b = none ↔ ∀ j, (s.job j).state.active = true → (s.job j).bay ≠ b := by
  simp [activeJob, List.find?_eq_none, mem_allJobs]

/-- The active job of a bay is a function of the job table alone. -/
theorem activeJob_congr {s t : State} (h : t.jobs = s.jobs) (b : BayId) : activeJob t b = activeJob s b := by
  unfold activeJob State.job; rw [h]

/-! ### Frames and replies -/

/-- A frame is sent only while the link is UP (R178). -/
theorem send_eq (f : OutFrame) :
    send s f = { s with sent := if s.link = .up then s.sent ++ [f] else s.sent } := by
  unfold send State.emit; split <;> rfl

/-- A response is sent and frees its tag (R146). -/
theorem respond_eq (target : Nat) (tag : Tag) (opcode : Byte) (status : ResponseStatus) (substituted : Bool) :
    respond s target tag opcode status substituted =
      { s with sent := if s.link = .up then s.sent ++ [.response target tag opcode status substituted] else s.sent
               tags := put s.tags tag false } := by
  unfold respond; rw [send_eq]; rfl

/-- A reply is sent and frees its tag (R146, R171). -/
theorem reply_eq (c : ManagementCommand) (d : Disposition) (data : ReplyData) :
    reply s c d data =
      { s with sent := if s.link = .up then s.sent ++ [.reply c.tag c.code d data] else s.sent
               tags := put s.tags c.tag false } := by
  unfold reply; rw [send_eq]; rfl

/-- A command at the front of the management queue is taken (R171). -/
theorem takeManagement_front {s : State} {c : ManagementCommand} {rest : List ManagementCommand} {i : Instr}
    (h : s.management = c :: rest) (hi : managementInstr c.code c.payload = i)
    (effect : ManagementCommand → State → State) : takeManagement i s effect = effect c (s.putManagement rest) := by
  simp [takeManagement, h, hi]

/-- A command left being taken by an upstream link reset has its effect, with the link DOWN (R178; log 32). -/
theorem takeManagement_taking {s : State} {c : ManagementCommand} {i : Instr} (h : s.management = [])
    (hc : s.taking = some c) (hl : s.link = .down) (hi : managementInstr c.code c.payload = i)
    (effect : ManagementCommand → State → State) : takeManagement i s effect = effect c (s.putTaking none) := by
  simp [takeManagement, h, hc, hl, hi]

/-- Everything `takeManagement` can do: the effect on the front command, the effect on the command that a link reset
left being taken, or nothing (R171, R178; log 1, log 32). -/
theorem takeManagement_cases (i : Instr) (s : State) (effect : ManagementCommand → State → State) :
    (∃ c rest, s.management = c :: rest ∧ managementInstr c.code c.payload = i ∧
      takeManagement i s effect = effect c (s.putManagement rest)) ∨
    (∃ c, s.management = [] ∧ s.taking = some c ∧ s.link = .down ∧ managementInstr c.code c.payload = i ∧
      takeManagement i s effect = effect c (s.putTaking none)) ∨
    takeManagement i s effect = s := by
  unfold takeManagement
  split
  · next c rest h =>
    split
    · next hi => exact .inl ⟨c, rest, h, hi, rfl⟩
    · exact .inr (.inr rfl)
  · next c h hc =>
    split
    · next hi => exact .inr (.inl ⟨c, h, hc, hi.1, hi.2, rfl⟩)
    · exact .inr (.inr rfl)
  · exact .inr (.inr rfl)

/-! ### Extent memory -/

/-- Canonical extent memory has its indices above a bound in its tail. -/
theorem extentsCanonical_cons {i : Nat} {w : ExtentWord} {m : List (Nat × ExtentWord)} :
    extentsCanonical ((i, w) :: m) = true ↔
      i < Config.extentWords ∧ w ≠ zeroWord ∧ (∀ p ∈ m, i < p.1) ∧ extentsCanonical m = true := by
  simp [extentsCanonical, and_assoc]

theorem writeExtent_bound {m : List (Nat × ExtentWord)} {k n : Nat} {x : ExtentWord} (hm : ∀ p ∈ m, k < p.1)
    (hn : k < n) : ∀ p ∈ writeExtent m n x, k < p.1 := by
  induction m with
  | nil => intro p hp; unfold writeExtent at hp; split at hp <;> simp_all
  | cons a m ih =>
    obtain ⟨i, w⟩ := a
    have hi : k < i := hm (i, w) (by simp)
    have hm' : ∀ p ∈ m, k < p.1 := fun p hp => hm p (by simp [hp])
    unfold writeExtent
    intro p hp
    split at hp
    · split at hp <;> simp only [List.mem_cons] at hp <;> grind
    · split at hp
      · split at hp
        · exact hm' p hp
        · simp only [List.mem_cons] at hp; grind
      · simp only [List.mem_cons] at hp
        rcases hp with rfl | hp
        · exact hi
        · exact ih hm' p hp

/-- A write keeps extent memory canonical (R52). -/
theorem writeExtent_canonical {m : List (Nat × ExtentWord)} {n : Nat} {x : ExtentWord}
    (hm : extentsCanonical m = true) (hn : n < Config.extentWords) : extentsCanonical (writeExtent m n x) = true := by
  induction m with
  | nil => unfold writeExtent; split <;> simp_all [extentsCanonical]
  | cons a m ih =>
    obtain ⟨i, w⟩ := a
    obtain ⟨hi, hw, hb, hc⟩ := extentsCanonical_cons.mp hm
    unfold writeExtent
    split
    · next hlt =>
      split
      · exact hm
      · next hx =>
        refine extentsCanonical_cons.mpr ⟨hn, hx, ?_, hm⟩
        intro p hp
        simp only [List.mem_cons] at hp
        rcases hp with rfl | hp
        · exact hlt
        · exact lt_trans hlt (hb p hp)
    · split
      · next he =>
        subst he
        split
        · exact hc
        · next hx => exact extentsCanonical_cons.mpr ⟨hn, hx, hb, hc⟩
      · next hlt hne =>
        exact extentsCanonical_cons.mpr ⟨hi, hw, writeExtent_bound hb (by omega), ih hc⟩

/-- Consecutive writes keep extent memory canonical (R53). -/
theorem writeExtents_canonical {xs : List ExtentWord} :
    ∀ {m : List (Nat × ExtentWord)} {n : Nat}, extentsCanonical m = true → n + xs.length ≤ Config.extentWords →
      extentsCanonical (writeExtents m n xs) = true := by
  induction xs with
  | nil => intro m n hm _; exact hm
  | cons x xs ih =>
    intro m n hm hn
    simp only [List.length_cons] at hn
    exact ih (writeExtent_canonical hm (by omega)) (by omega)

end Sys2Proof.Machine
end

