-- ==== Sys2Proof/Laws/Frames.lean ====
section
/-! SUPPORT. What the bridge's inner operations can do, said once each. `PassOnly` is for the command filter's own work:
only the passthrough path changes. `Inner` is for every operation below a command's meaning: tables, clock, link and
queues of commands stand, what is sent is only added to, and the invariants of Safety.lean are kept. -/

namespace Sys2Proof.Machine

open Sys2Proof.Safety

set_option Elab.async false

/-! ### The relation of inner operations -/

/-- What every inner operation keeps between the state before and the state after. -/
structure Inner (s t : State) : Prop where
  pending : t.pending = s.pending := by rfl
  link : t.link = s.link := by rfl
  tables : t.tables = s.tables := by rfl
  management : t.management = s.management := by rfl
  taking : t.taking = s.taking := by rfl
  clock : t.clock = s.clock := by rfl
  sent : s.sent <+: t.sent := by exact List.prefix_rfl
  toDrive : s.toDrive <+: t.toDrive := by exact List.prefix_rfl
  attention : ∀ b n, (s.attentionOf b).getLsbD n = true → (t.attentionOf b).getLsbD n = true := by exact fun _ _ h => h
  hold : s.hold.length ≤ Config.holdQueueCapacity → t.hold.length ≤ Config.holdQueueCapacity := by exact id
  store : StoreOrdered s.store → StoreOrdered t.store := by exact id
  slots : SlotsParted s → SlotsParted t := by exact id
  lists : (∀ b, (s.parameters b).depth ≤ 4) → ListsBounded s → ListsBounded t := by exact fun _ h => h
  scans : ScansChecked s → ScansChecked t := by exact id
  jobs : ∀ j, (t.job j).state.active = true → (s.job j).state.active = true ∧ (t.job j).bay = (s.job j).bay := by
    exact fun _ h => ⟨h, rfl⟩

theorem Inner.refl (s : State) : Inner s s := {}

theorem Inner.trans {s t u : State} (h : Inner s t) (k : Inner t u) : Inner s u where
  pending := k.pending.trans h.pending
  link := k.link.trans h.link
  tables := k.tables.trans h.tables
  management := k.management.trans h.management
  taking := k.taking.trans h.taking
  clock := k.clock.trans h.clock
  sent := h.sent.trans k.sent
  toDrive := h.toDrive.trans k.toDrive
  attention := fun b n x => k.attention b n (h.attention b n x)
  hold := fun x => k.hold (h.hold x)
  store := fun x => k.store (h.store x)
  slots := fun x => k.slots (h.slots x)
  lists := fun d x => k.lists (by unfold State.parameters at *; rw [h.tables]; exact d) (h.lists d x)
  scans := fun x => k.scans (h.scans x)
  jobs := fun j x =>
    let p := k.jobs j x
    let q := h.jobs j p.1
    ⟨q.1, p.2.trans q.2⟩

/-- Inner operations keep at most one active job per bay (R5). -/
theorem Inner.oneActiveJob {s t : State} (h : Inner s t) (k : OneActiveJob s) : OneActiveJob t := fun i j hi hj e => by
  have a := h.jobs i hi
  have b := h.jobs j hj
  exact k i j a.1 b.1 (by rw [← a.2, ← b.2]; exact e)

/-! ### Single updates -/

section
variable (s : State)

theorem inner_putJob (j : JobId) (x : Job)
    (h : x.state.active = true → (s.job j).state.active = true ∧ x.bay = (s.job j).bay)
    (hs : scanChecked s (s.job j) = true → scanChecked s x = true := by first | exact id | exact fun _ => rfl) :
    Inner s (s.putJob j x) where
  scans := fun k i => by
    rw [State.putJob_job]
    split
    · exact hs (k j)
    · exact k i
  jobs := fun k hk => by
    rw [State.putJob_job] at hk ⊢
    split at hk
    · next e => subst e; simpa using h hk
    · next e => simp [e, hk]

theorem inner_modJob (j : JobId) (f : Job → Job)
    (h : (f (s.job j)).state.active = true → (s.job j).state.active = true ∧ (f (s.job j)).bay = (s.job j).bay)
    (hs : scanChecked s (s.job j) = true → scanChecked s (f (s.job j)) = true := by
      first | exact id | exact fun _ => rfl) :
    Inner s (s.modJob j f) := inner_putJob s j _ h hs

theorem inner_putPort (b : BayId) (x : BayPort) : Inner s (s.putPort b x) := {}
theorem inner_modPort (b : BayId) (f : BayPort → BayPort) : Inner s (s.modPort b f) := {}
theorem inner_putMap (b : BayId) (x : CoverageMap) : Inner s (s.putMap b x) := {}
theorem inner_putContext (b : BayId) (x : Option WalkContext) : Inner s (s.putContext b x) := {}
theorem inner_modContext (b : BayId) (f : WalkContext → WalkContext) : Inner s (s.modContext b f) := {}
theorem inner_putTag (t : Tag) (x : Bool) : Inner s (s.putTag t x) := {}
theorem inner_emit (f : OutFrame) : Inner s (s.emit f) where sent := List.prefix_append _ _
theorem inner_signal (d : DriveSignal) : Inner s (s.signal d) where toDrive := List.prefix_append _ _
theorem inner_putWait (x : List PassCommand) : Inner s (s.putWait x) := {}
theorem inner_putBuilding (x : List PendingRecord) : Inner s (s.putBuilding x) := {}
theorem inner_putRunCounter (x : Word) : Inner s (s.putRunCounter x) := {}
theorem inner_putGrantPointer (x : BayId) : Inner s (s.putGrantPointer x) := {}
theorem inner_bumpRequest : Inner s s.bumpRequest := {}
theorem inner_bumpStamp : Inner s s.bumpStamp := {}

theorem inner_putHold (x : List PassCommand) (h : x.length ≤ s.hold.length) : Inner s (s.putHold x) where
  hold := fun k => h.trans k

theorem inner_putList (b : BayId) (x : List Entry)
    (h : (∀ c, (s.parameters c).depth ≤ 4) → (s.list b).length ≤ 4 → x.length ≤ 4) : Inner s (s.putList b x) where
  lists := fun d k c => by
    rw [State.putList_list]
    split
    · exact h d (k b)
    · exact k c

theorem inner_putSlot (k : SlotId) (x : Slot) (h : SlotsParted s → ownerAllowed k x.owner = true) :
    Inner s (s.putSlot k x) where
  slots := fun p l => by
    rw [State.putSlot_slot]
    split
    · next e => subst e; exact h p
    · exact p l

theorem inner_modSlot (k : SlotId) (f : Slot → Slot) (h : (f (s.slot k)).owner = (s.slot k).owner) :
    Inner s (s.modSlot k f) := inner_putSlot s k _ (fun p => by rw [h]; exact p k)

theorem inner_putAttention (b : BayId) (x : AttentionSet)
    (h : ∀ n, (s.attentionOf b).getLsbD n = true → x.getLsbD n = true) : Inner s (s.putAttention b x) where
  attention := fun c n k => by
    rw [State.putAttention_attentionOf]
    split
    · next e => subst e; exact h n k
    · exact k

end

/-! ### Folds -/

theorem inner_foldl {α : Type} {f : State → α → State} (h : ∀ s x, Inner s (f s x)) (xs : List α) :
    ∀ s, Inner s (xs.foldl f s) := by
  induction xs with
  | nil => exact Inner.refl
  | cons x xs ih => exact fun s => (h s x).trans (ih _)

/-! ### Frames and flags -/

theorem inner_send (s : State) (f : OutFrame) : Inner s (send s f) := by
  unfold send; split
  · exact inner_emit s f
  · exact Inner.refl s

theorem inner_respond (s : State) (n : Nat) (t : Tag) (o : Byte) (st : ResponseStatus) (b : Bool) :
    Inner s (respond s n t o st b) := (inner_send s _).trans (inner_putTag _ _ _)

theorem inner_answer (s : State) (c : PassCommand) (st : ResponseStatus) : Inner s (answer s c st) := inner_respond ..

theorem inner_reply (s : State) (c : ManagementCommand) (d : Disposition) (data : ReplyData) :
    Inner s (reply s c d data) := (inner_send s _).trans (inner_putTag _ _ _)

theorem inner_accept (s : State) (c : ManagementCommand) : Inner s (accept s c) := inner_reply ..

theorem inner_refuse (s : State) (c : ManagementCommand) (r : Reason) : Inner s (refuse s c r) := inner_reply ..

theorem inner_raise (s : State) (b : BayId) (k : AttentionKind) : Inner s (raise s b k) := by
  unfold raise
  split
  · exact Inner.refl s
  · have h : Inner s (s.putAttention b (s.attentionOf b ||| kindMask k)) :=
      inner_putAttention s b _ fun n hn => by simp [hn]
    dsimp only
    split
    · exact h
    · exact h.trans (inner_send _ _)

theorem inner_refreshIndicator (s : State) (b : BayId) : Inner s (refreshIndicator s b) := by
  unfold refreshIndicator; dsimp only; split
  · exact Inner.refl s
  · exact inner_modPort ..

theorem inner_freeSlot (s : State) (k : Option SlotId) : Inner s (freeSlot s k) := by
  cases k with
  | none => exact Inner.refl s
  | some k => exact inner_putSlot s k _ fun _ => rfl

theorem inner_freeSlots (s : State) (rs : List Record) : Inner s (freeSlots s rs) :=
  inner_foldl (f := fun s (r : Record) => freeSlot s r.slot) (fun s r => inner_freeSlot s r.slot) rs s

theorem inner_issueRequest (s : State) (b : BayId) (o : Origin) (r : Request) (c : Option OpClass) (l : RequestLink)
    (k : Option SlotId) (n : Nat) : Inner s (issueRequest s b o r c l k n) :=
  ((inner_modPort _ _ _).trans (inner_signal _ _)).trans (inner_bumpRequest _)

/-! ### The command filter -/

theorem inner_joinWait (s : State) (c : PassCommand) : Inner s (joinWait s c) := inner_putWait ..

theorem length_insertByArrival (c : PassCommand) (cs : List PassCommand) :
    (insertByArrival c cs).length = cs.length + 1 := by
  induction cs with
  | nil => rfl
  | cons d ds ih => unfold insertByArrival; split <;> simp [ih]

/-- What an insertion by arrival holds: the command and what stood there. -/
@[simp] theorem mem_insertByArrival (c d : PassCommand) (cs : List PassCommand) :
    d ∈ insertByArrival c cs ↔ d = c ∨ d ∈ cs := by
  induction cs with
  | nil => simp [insertByArrival]
  | cons e es ih => unfold insertByArrival; split <;> simp [ih]; tauto

/-- An insertion by arrival keeps the order of arrival, where no command there arrived as the new one did. -/
theorem pairwise_insertByArrival (c : PassCommand) (cs : List PassCommand)
    (h : cs.Pairwise fun d e => d.arrival < e.arrival) (hc : ∀ d ∈ cs, d.arrival ≠ c.arrival) :
    (insertByArrival c cs).Pairwise fun d e => d.arrival < e.arrival := by
  induction cs with
  | nil => simp [insertByArrival]
  | cons e es ih =>
    obtain ⟨he, hes⟩ := List.pairwise_cons.1 h
    unfold insertByArrival
    split
    · rename_i hlt
      exact List.pairwise_cons.2 ⟨fun d hd => by
        rcases List.mem_cons.1 hd with rfl | hd
        · exact hlt
        · exact hlt.trans (he d hd), h⟩
    · rename_i hlt
      refine List.pairwise_cons.2 ⟨fun d hd => ?_, ih hes fun d hd => hc d (List.mem_cons_of_mem _ hd)⟩
      rcases (mem_insertByArrival c d es).1 hd with rfl | hd
      · have := hc e List.mem_cons_self; omega
      · exact he d hd

theorem inner_joinHold (s : State) (c : PassCommand) : Inner s (joinHold s c) := by
  unfold joinHold
  split
  · exact inner_answer ..
  · split
    · next h =>
      refine Inner.trans ?_ (inner_bumpStamp _)
      exact { hold := fun _ => by simp only [State.putHold_hold, length_insertByArrival]; omega }
    · exact inner_answer ..

theorem inner_carryOut (s : State) (c : PassCommand) (v : Verdict) : Inner s (carryOut s c v) := by
  cases v
  · exact inner_answer ..
  · exact inner_joinWait ..
  · exact inner_joinHold ..

theorem length_withoutTag (t : Tag) (cs : List PassCommand) : (withoutTag t cs).length ≤ cs.length :=
  List.length_filter_le _ _

theorem inner_rejudge (s : State) (c : PassCommand) : Inner s (rejudge s c) := by
  unfold rejudge
  split
  · exact Inner.refl s
  · exact (inner_putHold _ _ (length_withoutTag _ _)).trans (inner_answer ..)
  · exact (inner_putHold _ _ (length_withoutTag _ _)).trans (inner_joinWait ..)

theorem inner_reevaluate (s : State) (b : BayId) : Inner s (reevaluate s b) := inner_foldl inner_rejudge _ s

theorem inner_answerLeaving (s : State) (b : BayId) : Inner s (answerLeaving s b) :=
  ((inner_putHold _ _ (List.length_filter_le _ _)).trans (inner_putWait _ _)).trans
    (inner_foldl (fun s c => inner_answer s c _) _ _)

theorem mem_of_firstFree {s : State} {ks : List SlotId} {k : SlotId} (h : firstFree s ks = some k) : k ∈ ks :=
  List.mem_of_find?_eq_some h

theorem inner_issueCommand (s : State) (c : PassCommand) (k : SlotId) (hk : k ∈ passthroughSlots) :
    Inner s (issueCommand s c k) := by
  have hk8 : k.val < 8 := by revert k; decide
  unfold issueCommand
  dsimp only
  have h := fun x => inner_putSlot s k x
  split
  · exact (h _ fun _ => by simp [ownerAllowed, hk8]).trans (inner_issueRequest ..)
  · exact ((h _ fun _ => by simp [ownerAllowed, hk8]).trans (inner_issueRequest ..)).trans (inner_send ..)

theorem inner_grantPassthrough (k : SlotId) (hk : k ∈ passthroughSlots) (cs : List PassCommand) :
    ∀ s, Inner s (grantPassthrough k cs s) := by
  induction cs with
  | nil => exact Inner.refl
  | cons c cs ih =>
    intro s
    unfold grantPassthrough
    split
    · dsimp only
      split
      · exact (inner_putWait _ _).trans (inner_issueCommand _ _ _ hk)
      · exact ((inner_putWait _ _).trans (inner_answer ..)).trans (ih _)
      · exact ((inner_putWait _ _).trans (inner_joinHold ..)).trans (ih _)
    · exact ih s

/-! ### The coverage store -/

theorem inner_putEntries (s : State) (b : BayId) (es : List ZoneEntry) : Inner s (putEntries s b es) := inner_putMap ..

theorem inner_reportBadZones (s : State) (b : BayId) : Inner s (reportBadZones s b) := by
  unfold reportBadZones; split
  · exact inner_modJob _ _ _ fun h => ⟨h, rfl⟩
  · exact Inner.refl s

theorem inner_changeZone (s : State) (b : BayId) (i : Nat) (f : ZoneEntry → ZoneEntry) :
    Inner s (changeZone s b i f) := by
  unfold changeZone
  dsimp only
  have h := inner_putEntries s b ((s.map b).entries.set i (f (s.zone b i)))
  split <;> split
  · exact h
  · exact h.trans (inner_reportBadZones ..)
  · exact h.trans (inner_reevaluate ..)
  · exact (h.trans (inner_reportBadZones ..)).trans (inner_reevaluate ..)

theorem inner_changeAllZones (s : State) (b : BayId) (f : ZoneEntry → ZoneEntry) : Inner s (changeAllZones s b f) :=
  ((inner_putEntries ..).trans (inner_reportBadZones ..)).trans (inner_reevaluate ..)

theorem inner_clearMap (s : State) (b : BayId) : Inner s (clearMap s b) := (inner_putMap ..).trans (inner_reevaluate ..)

/-! ### Passes and units -/

theorem inner_startPass (s : State) (j : JobId) (i : Nat) : Inner s (startPass s j i) := by
  unfold startPass
  dsimp only
  split
  · exact Inner.refl s
  · refine Inner.trans ?_ (inner_putContext ..)
    exact Inner.trans (inner_putEntries ..) (inner_putJob _ _ _ fun h => ⟨h, rfl⟩)

theorem inner_beginUnit (s : State) (j : JobId) : Inner s (beginUnit s j) := by
  unfold beginUnit
  dsimp only
  have h : Inner s (s.putJob j { s.job j with unitActive := true }) := inner_putJob _ _ _ fun h => ⟨h, rfl⟩
  split
  · exact h
  · split <;> exact h.trans (inner_putContext ..)

theorem inner_recordResume (s : State) (j : JobId) : Inner s (recordResume s j) := inner_modContext ..

theorem inner_takeResume (s : State) (b : BayId) : Inner s (takeResume s b) := inner_modContext ..

/-- The operations below change no job's state. -/
def SameStates (s t : State) : Prop := ∀ j, (t.job j).state = (s.job j).state

theorem SameStates.trans {s t u : State} (h : SameStates s t) (k : SameStates t u) : SameStates s u :=
  fun j => (k j).trans (h j)

theorem sameStates_of_jobs {s t : State} (h : t.jobs = s.jobs) : SameStates s t := fun j => by unfold State.job; rw [h]

theorem sameStates_modJob (s : State) (j : JobId) (f : Job → Job) (h : (f (s.job j)).state = (s.job j).state) :
    SameStates s (s.modJob j f) := fun k => by
  rw [State.modJob_job]; split
  · next e => subst e; exact h
  · rfl

theorem jobs_send (s : State) (f : OutFrame) : (send s f).jobs = s.jobs := by unfold send; split <;> rfl

theorem jobs_raise (s : State) (b : BayId) (k : AttentionKind) : (raise s b k).jobs = s.jobs := by
  unfold raise
  dsimp only
  split
  · rfl
  · split
    · rfl
    · rw [jobs_send]; rfl

theorem sameStates_startPass (s : State) (j : JobId) (i : Nat) : SameStates s (startPass s j i) := by
  unfold startPass
  dsimp only
  split
  · exact fun _ => rfl
  · exact sameStates_modJob s j (fun x => { x with passIndex := i, passComplete := false, permille := 0 }) rfl

theorem sameStates_recordPassEnd (s : State) (j : JobId) : SameStates s (recordPassEnd s j) := by
  unfold recordPassEnd
  dsimp only
  refine SameStates.trans ?_ (sameStates_of_jobs (jobs_raise _ _ _))
  exact sameStates_modJob s j
    (fun x => { x with passEnds := x.passEnds.set x.passIndex (some s.clock), passComplete := true, permille := 1000 }) rfl

theorem sameStates_clearLatch (s : State) (j : JobId) : SameStates s (clearLatch s j) := sameStates_modJob s j _ rfl

theorem inner_recordPassEnd (s : State) (j : JobId) : Inner s (recordPassEnd s j) := by
  unfold recordPassEnd
  dsimp only
  refine Inner.trans ?_ (inner_raise ..)
  exact inner_putJob _ _ _ fun h => ⟨h, rfl⟩

theorem inner_clearLatch (s : State) (j : JobId) : Inner s (clearLatch s j) := inner_modJob _ _ _ fun h => ⟨h, rfl⟩

/-! ### Changes of job state -/

theorem inner_disown (s : State) (b : BayId) (j : JobId) : Inner s (disown s b j) := by
  unfold disown; split
  · exact inner_putMap ..
  · exact Inner.refl s

/-- A change of a job's record keeps everything `Inner` names, where a job that is active afterwards was active before,
on the same bay, and a scan in its new state stands behind words that have passed their checks. -/
theorem inner_changeJob (s : State) (j : JobId) (x : Job)
    (h : x.state.active = true → (s.job j).state.active = true ∧ x.bay = (s.job j).bay)
    (hs : scanChecked s (s.job j) = true → scanChecked s x = true := by first | exact id | exact fun _ => rfl) :
    Inner s (changeJob s j x) := by
  unfold changeJob
  dsimp only
  have h1 := inner_putJob s j x h hs
  split <;> split
  · exact h1.trans (inner_disown ..)
  · exact h1
  · exact ((h1.trans (inner_disown ..)).trans (inner_reevaluate ..)).trans (inner_refreshIndicator ..)
  · exact (h1.trans (inner_reevaluate ..)).trans (inner_refreshIndicator ..)

theorem inner_setState (s : State) (j : JobId) (st : JobState)
    (h : st.active = true → (s.job j).state.active = true)
    (hs : scanChecked s (s.job j) = true → scanChecked s { s.job j with state := st } = true := by exact fun _ => rfl) :
    Inner s (setState s j st) := inner_changeJob s j _ (fun k => ⟨h k, rfl⟩) hs

theorem inner_enterFinishing (s : State) (j : JobId) (o : RunOutcome) (h : (s.job j).state.active = true) :
    Inner s (enterFinishing s j o) := by
  unfold enterFinishing
  dsimp only
  refine Inner.trans ?_ (inner_changeJob _ _ _ fun _ => ⟨h, rfl⟩)
  exact (inner_putContext ..).trans (inner_putBuilding ..)

theorem inner_enterHalted (s : State) (j : JobId) (r : HaltReason) (h : (s.job j).state.active = true) :
    Inner s (enterHalted s j r) := by
  unfold enterHalted
  dsimp only
  refine Inner.trans ?_ (inner_raise ..)
  exact inner_changeJob _ _ _ fun _ => ⟨h, rfl⟩

theorem inner_enterTarget (s : State) (j : JobId) (t : DrainTarget) (h : (s.job j).state.active = true) :
    Inner s (enterTarget s j t) := by
  cases t
  · exact (inner_recordResume ..).trans (inner_setState _ _ _ fun _ => h)
  · exact inner_enterHalted _ _ _ h
  · exact inner_enterFinishing _ _ _ h

theorem inner_settleDrain (s : State) (j : JobId) : Inner s (settleDrain s j) := by
  unfold settleDrain
  split
  · next t h =>
    split
    · exact inner_enterTarget _ _ _ (by rw [h]; rfl)
    · exact Inner.refl s
  · exact Inner.refl s

theorem inner_enterDraining (s : State) (j : JobId) (t : DrainTarget) (h : (s.job j).state.active = true) :
    Inner s (enterDraining s j t) := (inner_setState _ _ _ fun _ => h).trans (inner_settleDrain ..)

theorem inner_haltOrRetarget (s : State) (j : JobId) (r : HaltReason) : Inner s (haltOrRetarget s j r) := by
  unfold haltOrRetarget
  split
  · next h => exact inner_enterHalted _ _ _ (by rw [h]; rfl)
  · next h => exact inner_enterHalted _ _ _ (by rw [h]; rfl)
  · next h => exact inner_enterDraining _ _ _ (by rw [h]; rfl)
  · exact inner_settleDrain ..
  · exact inner_settleDrain ..
  all_goals exact Inner.refl s

theorem inner_dropEntry (b : BayId) (s : State) (e : Entry) : Inner s (dropEntry b s e) := by
  unfold dropEntry
  dsimp only
  split
  · exact (inner_freeSlot ..).trans (inner_changeZone ..)
  · exact inner_freeSlot ..

theorem inner_abandonList (s : State) (b : BayId) : Inner s (abandonList s b) := by
  unfold abandonList
  dsimp only
  refine Inner.trans ?_ (inner_foldl (inner_dropEntry b) _ _)
  refine Inner.trans ?_ (inner_putList _ _ _ fun _ _ => by simp)
  split
  · split
    · exact inner_recordResume ..
    · exact Inner.refl s
  · exact Inner.refl s

theorem inner_beginPass (n : Nat) : ∀ (s : State) (j : JobId) (i : Nat), (s.job j).state.active = true →
    Inner s (beginPass n s j i) := by
  induction n with
  | zero => exact fun s _ _ _ => Inner.refl s
  | succ n ih =>
    intro s j i h
    unfold beginPass
    dsimp only
    have h1 := inner_startPass s j i
    have a1 : ((startPass s j i).job j).state.active = true := by rw [sameStates_startPass]; exact h
    split
    · exact h1.trans (inner_beginUnit ..)
    · have h2 := h1.trans (inner_recordPassEnd (startPass s j i) j)
      have a2 : ((recordPassEnd (startPass s j i) j).job j).state.active = true := by
        rw [sameStates_recordPassEnd]; exact a1
      split
      · exact h2.trans (inner_enterFinishing _ _ _ a2)
      · exact h2.trans (ih _ _ _ a2)
      · exact (h2.trans (inner_clearLatch _ _)).trans (ih _ _ _ (by rw [sameStates_clearLatch]; exact a2))
      · exact h2.trans (inner_setState _ _ _ fun _ => a2)

theorem inner_followPass (s : State) (j : JobId) (h : (s.job j).state.active = true) : Inner s (followPass s j) := by
  unfold followPass
  split
  · exact inner_enterFinishing _ _ _ h
  · exact inner_beginPass _ _ _ _ h
  · exact (inner_clearLatch _ _).trans (inner_beginPass _ _ _ _ (by rw [sameStates_clearLatch]; exact h))
  · exact inner_setState _ _ _ fun _ => h

theorem inner_useTrigger (s : State) (j : JobId) (h : (s.job j).state.active = true) : Inner s (useTrigger s j) := by
  unfold useTrigger; split
  · exact inner_beginPass _ _ _ _ h
  · exact inner_beginUnit ..

/-! ### Units, tolerance and retirement -/

theorem inner_passEndWhileDraining (s : State) (j : JobId) (t : DrainTarget) (h : (s.job j).state.active = true) :
    Inner s (passEndWhileDraining s j t) := by
  unfold passEndWhileDraining
  dsimp only
  have h1 := inner_recordPassEnd s j
  have a1 : ((recordPassEnd s j).job j).state.active = true := by rw [sameStates_recordPassEnd]; exact h
  split
  · split
    · exact h1
    · exact h1.trans (inner_setState _ _ _ fun _ => a1)
    · exact h1.trans (inner_setState _ _ _ fun _ => a1)
  · exact h1

theorem inner_completeUnit (s : State) (j : JobId) : Inner s (completeUnit s j) := by
  unfold completeUnit
  dsimp only
  have h1 : Inner s ((s.modJob j fun x => { x with unitActive := false }).modContext
      ((s.modJob j fun x => { x with unitActive := false }).job j).bay fun w => { w with unitEnd := none }) :=
    (inner_modJob s j _ fun h => ⟨h, rfl⟩).trans (inner_modContext ..)
  split
  · next h =>
    have a : ∀ t : State, SameStates ((s.modJob j fun x => { x with unitActive := false }).modContext
      ((s.modJob j fun x => { x with unitActive := false }).job j).bay fun w => { w with unitEnd := none }) t →
        (t.job j).state.active = true := fun t k => by rw [k, h]; rfl
    split
    · split
      · exact (h1.trans (inner_clearLatch ..)).trans (inner_beginUnit ..)
      · exact h1.trans (inner_setState _ _ _ fun _ => a _ fun _ => rfl)
    · exact (h1.trans (inner_recordPassEnd ..)).trans (inner_followPass _ _ (a _ (sameStates_recordPassEnd _ _)))
  · next t h =>
    split
    · exact h1
    · exact h1.trans (inner_passEndWhileDraining _ _ _ (by rw [h]; rfl))
  · exact h1

theorem inner_judgeUnit (s : State) (j : JobId) : Inner s (judgeUnit s j) := by
  unfold judgeUnit
  dsimp only
  split
  · split
    · exact inner_completeUnit ..
    · exact Inner.refl s
  · exact Inner.refl s

theorem inner_compareTolerance (s : State) (j : JobId) : Inner s (compareTolerance s j) := by
  unfold compareTolerance
  dsimp only
  split
  · split
    · next h => exact inner_enterDraining _ _ _ (by rw [h]; rfl)
    · next h => exact inner_enterFinishing _ _ _ (by rw [h]; rfl)
    · next h => exact inner_setState _ _ _ fun _ => by rw [h]; rfl
    · exact Inner.refl s
  · exact Inner.refl s

theorem inner_afterRetirement (s : State) (j : JobId) : Inner s (afterRetirement s j) :=
  ((inner_judgeUnit ..).trans (inner_compareTolerance ..)).trans (inner_settleDrain ..)

theorem inner_retireZone (s : State) (b : BayId) (w : WalkContext) (e : Entry) (g : Bool) :
    Inner s (retireZone s b w e g) := by
  unfold retireZone; split
  · exact inner_changeAllZones ..
  · exact inner_changeZone ..
  · exact inner_changeZone ..
  · exact Inner.refl s
  · exact Inner.refl s

theorem inner_retireHead (s : State) (b : BayId) (j : JobId) (w : WalkContext) (e : Entry) (rest : List Entry)
    (h : rest.length ≤ (s.list b).length) : Inner s (retireHead s b j w e rest) := by
  unfold retireHead
  dsimp only
  refine Inner.trans ?_ (inner_afterRetirement _ _)
  refine Inner.trans ?_ (inner_modJob _ _ _ fun h => ⟨h, rfl⟩)
  refine Inner.trans ?_ (inner_retireZone ..)
  refine Inner.trans (inner_putList _ _ _ fun _ k => h.trans k)
    (inner_modJob _ _ _ (fun k => ?_) (by unfold addTotals; split <;> exact id))
  unfold addTotals at k ⊢
  split at k <;> simp_all

theorem inner_retireAll (n : Nat) : ∀ (s : State) (b : BayId), Inner s (retireAll n s b) := by
  induction n with
  | zero => exact fun s _ => Inner.refl s
  | succ n ih =>
    intro s b
    unfold retireAll
    split
    · next e rest j w he _ _ =>
      split
      · exact (inner_retireHead _ _ _ _ _ _ (by rw [he]; simp)).trans (ih _ _)
      · exact Inner.refl s
    all_goals exact Inner.refl s

/-! ### Preparation -/

theorem inner_failPreparation (s : State) (j : JobId) (e : StartError) : Inner s (failPreparation s j e) := by
  unfold failPreparation
  exact Inner.trans (inner_changeJob _ _ _ fun h => by simp [JobState.active] at h) (inner_raise ..)

theorem inner_beginScan (s : State) (j : JobId) (d : DriveIdentity) (h : (s.job j).state.active = true) :
    Inner s (beginScan s j d) := by
  unfold beginScan
  dsimp only
  refine Inner.trans ?_ (inner_reevaluate ..)
  exact Inner.trans (inner_putMap ..) (inner_putJob _ _ _ fun _ => ⟨h, rfl⟩)

theorem inner_advancePreparation (s : State) (j : JobId) : Inner s (advancePreparation s j) := by
  unfold advancePreparation
  dsimp only
  split
  · next h _ =>
    split
    · exact Inner.refl s
    · split
      · exact inner_failPreparation ..
      · exact inner_beginScan _ _ _ (by rw [h]; rfl)
  · exact Inner.refl s

theorem inner_enterPreparing (s : State) (j : JobId) (h : (s.job j).state.active = true) : Inner s (enterPreparing s j) :=
  (inner_setState _ _ _ fun _ => h).trans (inner_advancePreparation ..)

theorem inner_recheckPreparation (s : State) (b : BayId) : Inner s (recheckPreparation s b) := by
  unfold recheckPreparation; split
  · exact inner_advancePreparation ..
  · exact Inner.refl s

theorem job_reevaluate_jobs (s : State) (b : BayId) : (reevaluate s b).jobs = s.jobs := by
  suffices h : ∀ (cs : List PassCommand) (s : State), (cs.foldl rejudge s).jobs = s.jobs from h _ s
  intro cs
  induction cs with
  | nil => exact fun _ => rfl
  | cons c cs ih =>
    intro s
    refine (ih _).trans ?_
    unfold rejudge
    split
    · rfl
    · simp only [answer, respond, State.putTag_jobs, jobs_send, State.putHold_jobs]
    · rfl

theorem jobs_refreshIndicator (s : State) (b : BayId) : (refreshIndicator s b).jobs = s.jobs := by
  unfold refreshIndicator; dsimp only; split <;> rfl

theorem jobs_disown (s : State) (b : BayId) (j : JobId) : (disown s b j).jobs = s.jobs := by
  unfold disown; split <;> rfl

/-- A change of a job's record changes the job table in that record alone. -/
theorem jobs_changeJob (s : State) (j : JobId) (x : Job) : (changeJob s j x).jobs = put s.jobs j x := by
  unfold changeJob
  dsimp only
  split <;> split <;> simp [jobs_refreshIndicator, job_reevaluate_jobs, jobs_disown]

theorem job_changeJob (s : State) (j k : JobId) (x : Job) : (changeJob s j x).job k = if k = j then x else s.job k := by
  unfold State.job; rw [jobs_changeJob]; exact put_get _ _ _ _

theorem inner_beginRun (s : State) (j : JobId) (h : (s.job j).state.active = true) : Inner s (beginRun s j) := by
  unfold beginRun
  dsimp only
  refine Inner.trans ?_ (inner_beginPass _ _ _ _ (by rw [job_changeJob]; simp [JobState.active]))
  exact ((inner_putRunCounter ..).trans (inner_putMap ..)).trans (inner_changeJob _ _ _ fun _ => ⟨h, rfl⟩)

theorem inner_completeScan (s : State) (j : JobId) (h : (s.job j).state.active = true) : Inner s (completeScan s j) := by
  unfold completeScan
  dsimp only
  refine Inner.trans ?_ (inner_beginRun _ _ ?_)
  · exact (inner_putEntries ..).trans (inner_reevaluate ..)
  · unfold State.job; rw [job_reevaluate_jobs]; exact h

/-- A word that passes the checks of R59 leaves the scan behind words that have passed theirs. -/
theorem scanChecked_counted {s : State} {x : Job} {n e : Nat} {g : Geometry} {y : Extent} {c d : Bool}
    (hp : x.state = .preparing (.scanning n e)) (hg : x.geometry = some g)
    (hw : checkWord (decide (n = 0)) (readExtent s.tables.extents (x.extentFirst + n)) (jobCapacity x) g.sEff e =
      .counted y c) (h : scanChecked s x = true) :
    scanChecked s { x with extentClamped := d, state := .preparing (.scanning (n + 1) y.stop) } = true := by
  have hS : jobStripe x = g.sEff := by unfold jobStripe; rw [hg]
  unfold scanChecked at h ⊢
  rw [hp] at h
  simp only [decide_eq_true_eq] at h ⊢
  unfold checkWord at hw
  split at hw <;> try cases hw
  split at hw <;> try cases hw
  split at hw <;> try cases hw
  split at hw <;> try cases hw
  rename_i h1 h2 h3 h4
  intro k hk hc
  rcases Nat.lt_succ_iff_lt_or_eq.1 hk with hk | rfl
  · have := h k hk hc
    exact ⟨this.1, this.2.1, this.2.2.1, fun e => by omega⟩
  · refine ⟨h1, Nat.lt_of_not_le h2, fun h0 => ⟨?_, ?_⟩, fun _ => rfl⟩
    · rw [show jobStripe { x with extentClamped := d, state := .preparing (.scanning (k + 1) _) } = g.sEff from hS]
      simp only [h0, decide_false, true_and, not_not] at h3
      exact h3
    · have hc : k < x.extentCount := hc
      have he := (h (k - 1) (by omega) (by omega)).2.2.2 (by omega)
      simp only [h0, decide_false, true_and, not_lt] at h4
      rw [he] at h4
      exact h4

theorem inner_countExtent (s : State) (j : JobId) (g : Geometry) (x : Extent) (c : Bool) (n : Nat)
    (h : (s.job j).state.active = true)
    (hs : scanChecked s (s.job j) = true → scanChecked s { s.job j with
      extentClamped := (s.job j).extentClamped || c, state := .preparing (.scanning n x.stop) } = true) :
    Inner s (countExtent s j g x c n) := by
  unfold countExtent
  exact Inner.trans (inner_putEntries ..) (inner_putJob _ _ _ (fun _ => ⟨h, rfl⟩) hs)

theorem inner_scanStep (s : State) (j : JobId) (n e : Nat) (g : Geometry)
    (hp : (s.job j).state = .preparing (.scanning n e)) (hg : (s.job j).geometry = some g) :
    Inner s (scanStep s j n e g) := by
  have h : (s.job j).state.active = true := by rw [hp]; rfl
  have a : ∀ x c m, ((countExtent s j g x c m).job j).state.active = true := fun x c m => by
    unfold countExtent; dsimp only; rw [State.putJob_job_same]; rfl
  unfold scanStep
  dsimp only
  split
  · exact (inner_countExtent _ _ _ _ _ _ h fun _ => by simp [scanChecked]).trans (inner_completeScan _ _ (a _ _ _))
  · split
    · exact (inner_clearMap ..).trans (inner_failPreparation ..)
    · next y c hw =>
      have hc := inner_countExtent s j g y c _ h (scanChecked_counted hp hg hw)
      split
      · exact hc
      · exact hc.trans (inner_completeScan _ _ (a _ _ _))

theorem inner_returnToWaiting (s : State) (j : JobId) (p : Preparation) (h : (s.job j).state.active = true) :
    Inner s (returnToWaiting s j p) := by
  unfold returnToWaiting
  dsimp only
  split
  · refine (inner_clearMap ..).trans (inner_changeJob _ _ _ fun _ => ?_)
    unfold State.job clearMap
    rw [job_reevaluate_jobs]
    exact ⟨h, rfl⟩
  · exact inner_changeJob _ _ _ fun _ => ⟨h, rfl⟩

theorem inner_jobLosesBay (s : State) (b : BayId) (r : HaltReason) : Inner s (jobLosesBay s b r) := by
  unfold jobLosesBay
  split
  · next j hj =>
    split
    · exact inner_returnToWaiting _ _ _ (activeJob_spec hj).1
    · exact inner_haltOrRetarget ..
  · exact Inner.refl s

/-! ### Drive requests and bays -/

theorem inner_updateEntry (s : State) (b : BayId) (n : Nat) (f : Entry → Entry) : Inner s (updateEntry s b n f) :=
  inner_putList _ _ _ fun _ h => by simpa using h

theorem inner_nativeEraseFailed (s : State) (b : BayId) : Inner s (nativeEraseFailed s b) := by
  unfold nativeEraseFailed
  dsimp only
  split
  · exact (inner_abandonList ..).trans (inner_haltOrRetarget ..)
  · exact inner_abandonList ..

theorem inner_dropRecord (s : State) (b : BayId) (n : Nat) : Inner s (dropRecord s b n) := inner_modPort ..

theorem inner_updateRecord (s : State) (b : BayId) (n : Nat) (f : Record → Record) : Inner s (updateRecord s b n f) :=
  inner_modPort ..

theorem inner_settleEntry (s : State) (b : BayId) :
    Inner s (if nativeHeadFailed s b then nativeEraseFailed s b else retireAll (s.list b).length s b) := by
  split
  · exact inner_nativeEraseFailed ..
  · exact inner_retireAll ..

theorem inner_completeEntry (s : State) (b : BayId) (r : Record) (g : Bool) : Inner s (completeEntry s b r g) := by
  unfold completeEntry
  dsimp only
  refine Inner.trans ?_ (inner_settleEntry ..)
  exact ((inner_dropRecord s b r.id).trans (inner_freeSlot _ r.slot)).trans (inner_updateEntry ..)

theorem inner_issueIdentify (s : State) (b : BayId) : Inner s (issueIdentify s b) :=
  (inner_modPort ..).trans (inner_issueRequest ..)

theorem inner_setBayState (s : State) (b : BayId) (st : BayState) : Inner s (setBayState s b st) :=
  (inner_modPort ..).trans (inner_refreshIndicator ..)

theorem inner_enterFaulted (s : State) (b : BayId) (r : FaultReason) (d : Option DriveIdentity) :
    Inner s (enterFaulted s b r d) := ((inner_modPort ..).trans (inner_setBayState ..)).trans (inner_raise ..)

theorem inner_enterReady (s : State) (b : BayId) (d : DriveIdentity) : Inner s (enterReady s b d) := by
  unfold enterReady
  dsimp only
  have h := fun f => ((inner_modPort s b f).trans (inner_setBayState _ b .ready)).trans (inner_raise _ b .ready)
  split
  · exact h _
  · next j hj =>
    split
    · exact (h _).trans (inner_enterPreparing _ _ (activeJob_spec hj).1)
    · split
      · exact h _
      · exact (h _).trans (inner_raise ..)
    · exact h _

theorem inner_failIdentify (s : State) (b : BayId) : Inner s (failIdentify s b) := by
  unfold failIdentify; split
  · exact inner_issueIdentify ..
  · exact inner_enterFaulted ..

theorem inner_judgeIdentify (s : State) (b : BayId) (d : DriveIdentity) : Inner s (judgeIdentify s b d) := by
  unfold judgeIdentify; split
  · exact inner_enterReady ..
  · exact inner_enterFaulted ..

theorem inner_completeCommand (s : State) (b : BayId) (r : Record) (c : PassCommand) (x : Bool) (st : ResponseStatus) :
    Inner s (completeCommand s b r c x st) := by
  unfold completeCommand
  dsimp only
  have h := (inner_dropRecord s b r.id).trans (inner_freeSlot _ r.slot)
  split
  · exact (h.trans (inner_respond ..)).trans (inner_recheckPreparation ..)
  · exact h.trans (inner_recheckPreparation ..)

theorem inner_takeCompletion (s : State) (b : BayId) (r : Record) (st : CompletionStatus) (d : DriveIdentity) :
    Inner s (takeCompletion s b r st d) := by
  unfold takeCompletion
  split
  · exact inner_completeEntry ..
  · dsimp only; split
    · exact (inner_dropRecord ..).trans (inner_judgeIdentify ..)
    · exact (inner_dropRecord ..).trans (inner_failIdentify ..)
  · exact inner_completeCommand ..

theorem inner_takeConfirmation (s : State) (b : BayId) (r : Record) : Inner s (takeConfirmation s b r) := by
  unfold takeConfirmation
  split
  · exact inner_completeEntry ..
  · exact (inner_dropRecord ..).trans (inner_failIdentify ..)
  · exact inner_completeCommand ..

theorem inner_expireT1 (s : State) (b : BayId) (r : Record) : Inner s (expireT1 s b r) := by
  unfold expireT1
  dsimp only
  have h := fun f => (inner_updateRecord s b r.id f).trans (inner_signal _ (.abort b r.id))
  split
  · exact (h _).trans (inner_updateEntry ..)
  · exact h _
  · exact h _

theorem inner_answerAbandoned (b : BayId) (st : ResponseStatus) (s : State) (r : Record) :
    Inner s (answerAbandoned b st s r) := by
  unfold answerAbandoned
  split
  · split
    · exact inner_respond ..
    · exact Inner.refl s
  · exact Inner.refl s
  · exact Inner.refl s

theorem inner_abandonQueue (s : State) (b : BayId) (st : ResponseStatus) : Inner s (abandonQueue s b st) :=
  (((inner_modPort ..).trans (inner_freeSlots ..)).trans (inner_abandonList ..)).trans
    (inner_foldl (inner_answerAbandoned b st) _ _)

theorem inner_selectiveReset (s : State) (b : BayId) (c : ResetCause) : Inner s (selectiveReset s b c) := by
  unfold selectiveReset
  refine Inner.trans ?_ (inner_jobLosesBay ..)
  refine Inner.trans ?_ (inner_modPort ..)
  refine Inner.trans ?_ (inner_answerLeaving ..)
  refine Inner.trans ?_ (inner_abandonQueue ..)
  exact ((inner_modPort ..).trans (inner_setBayState ..)).trans (inner_signal ..)

theorem inner_removeDrive (s : State) (b : BayId) : Inner s (removeDrive s b) := by
  unfold removeDrive
  refine Inner.trans ?_ (inner_jobLosesBay ..)
  refine Inner.trans ?_ (inner_modPort ..)
  refine Inner.trans ?_ (inner_answerLeaving ..)
  refine Inner.trans ?_ (inner_abandonQueue ..)
  exact ((inner_modPort ..).trans (inner_setBayState ..)).trans (inner_raise ..)

theorem inner_completeInsertion (s : State) (b : BayId) : Inner s (completeInsertion s b) :=
  (((inner_modPort ..).trans (inner_setBayState ..)).trans (inner_raise ..)).trans (inner_issueIdentify ..)

theorem inner_seat (s : State) (b : BayId) : Inner s (seat s b) := by
  unfold seat; dsimp only; split
  · exact inner_completeInsertion ..
  · exact (inner_modPort ..).trans (inner_setBayState ..)

/-! ### Grants -/

theorem engineSlots_high {k : SlotId} (h : k ∈ engineSlots) : 8 ≤ k.val := by revert k; decide

theorem inner_issueStripe (s : State) (b : BayId) (j : JobId) (w : WalkContext) (k : SlotId) (x : Stripe)
    (hk : k ∈ engineSlots) : Inner s (issueStripe s b j w k x) :=
  (inner_putSlot _ _ _ fun _ => by simp [loadedSlot, ownerAllowed, engineSlots_high hk]).trans (inner_issueRequest ..)

theorem inner_moveCursor (s : State) (j : JobId) (w : WalkContext) (p : Position) : Inner s (moveCursor s j w p) := by
  unfold moveCursor; dsimp only; split
  · exact inner_putContext ..
  · exact (inner_putContext ..).trans (inner_putContext ..)

theorem list_issueStripe (s : State) (b c : BayId) (j : JobId) (w : WalkContext) (k : SlotId) (x : Stripe) :
    (issueStripe s b j w k x).list c = s.list c := rfl

theorem inner_issueNewStripe (s : State) (b : BayId) (j : JobId) (w : WalkContext) (k : SlotId) (x : Stripe)
    (p : Position) (hk : k ∈ engineSlots) (hd : (s.list b).length < (s.parameters b).depth) :
    Inner s (issueNewStripe s b j w k x p) := by
  unfold issueNewStripe
  dsimp only
  refine Inner.trans ?_ (inner_changeZone ..)
  refine Inner.trans ?_ (inner_moveCursor ..)
  refine Inner.trans (inner_issueStripe _ _ _ _ _ _ hk) (inner_putList _ _ _ fun d _ => ?_)
  have hb : (s.parameters b).depth ≤ 4 := d b
  rw [list_issueStripe]
  simp only [List.length_append, List.length_cons, List.length_nil]
  omega

theorem inner_reissueStripe (s : State) (b : BayId) (j : JobId) (w : WalkContext) (k : SlotId) (e : Entry)
    (hk : k ∈ engineSlots) : Inner s (reissueStripe s b j w k e) :=
  (inner_issueStripe _ _ _ _ _ _ hk).trans (inner_updateEntry ..)

/-- A new stripe is granted only below the bay's depth (R39). -/
theorem grantWork_stripe {s : State} {b : BayId} {j : JobId} {w : WalkContext} {x : Stripe} {p : Position}
    (h : grantWork s b = some (j, w, .stripe x p)) : (s.list b).length < (s.parameters b).depth := by
  unfold grantWork at h
  dsimp only at h
  split at h
  · cases h
  · split at h
    · split at h
      · simp at h
      · split at h
        · next hc => exact hc.2.2.2
        · cases h
    · cases h
    · cases h

theorem inner_grantEngine (s : State) : Inner s (grantEngine s) := by
  unfold grantEngine
  split
  · next k b hk hb =>
    have hk' := mem_of_firstFree hk
    dsimp only
    split
    · exact (inner_putGrantPointer ..).trans (inner_reissueStripe _ _ _ _ _ _ hk')
    · next hw =>
      have hd := grantWork_stripe hw
      exact (inner_putGrantPointer ..).trans (inner_issueNewStripe _ _ _ _ _ _ _ hk' hd)
    · exact inner_putGrantPointer ..
  · exact Inner.refl s

theorem inner_issueNativeErase (s : State) (b : BayId) (j : JobId) (w : WalkContext) :
    Inner s (issueNativeErase s b j w) := by
  unfold issueNativeErase
  dsimp only
  refine Inner.trans ?_ (inner_changeAllZones ..)
  refine Inner.trans ?_ (inner_putContext ..)
  exact (inner_issueRequest ..).trans (inner_putList _ _ _ fun _ _ => by simp)

theorem inner_reissueNativeErase (s : State) (b : BayId) (w : WalkContext) (e : Entry) :
    Inner s (reissueNativeErase s b w e) :=
  ((inner_issueRequest ..).trans (inner_updateEntry ..)).trans (inner_changeAllZones ..)

theorem inner_nativeEraseStep (s : State) (b : BayId) : Inner s (nativeEraseStep s b) := by
  unfold nativeEraseStep
  dsimp only
  split
  · exact Inner.refl s
  · split
    · split
      · split
        · split
          · exact inner_issueNativeErase ..
          · exact Inner.refl s
        · split
          · exact inner_reissueNativeErase ..
          · exact Inner.refl s
      · exact Inner.refl s
    · exact Inner.refl s

/-! ### Certificates -/

theorem mem_insertRecord {r q : CertificateRecord} {qs : List CertificateRecord} :
    q ∈ insertRecord r qs ↔ q = r ∨ q ∈ qs := by
  induction qs with
  | nil => simp [insertRecord]
  | cons a qs ih => unfold insertRecord; split <;> simp [ih]; tauto

/-- A record whose run number the store does not bear is inserted in order (R168). -/
theorem insertRecord_ordered {r : CertificateRecord} {qs : List CertificateRecord}
    (h : qs.Pairwise fun q r => q.run.toNat < r.run.toNat) (hr : storeBears qs r.run = false) :
    (insertRecord r qs).Pairwise fun q r => q.run.toNat < r.run.toNat := by
  induction qs with
  | nil => simp [insertRecord]
  | cons a qs ih =>
    rw [List.pairwise_cons] at h
    simp only [storeBears, List.any_cons, Bool.or_eq_false_iff, decide_eq_false_iff_not] at hr
    have hne : a.run.toNat ≠ r.run.toNat := fun e => hr.1 (BitVec.eq_of_toNat_eq e)
    unfold insertRecord
    split
    · next hlt =>
      rw [List.pairwise_cons]
      refine ⟨fun q hq => ?_, List.pairwise_cons.mpr h⟩
      simp only [List.mem_cons] at hq
      rcases hq with rfl | hq
      · exact hlt
      · exact lt_trans hlt (h.1 q hq)
    · rw [List.pairwise_cons]
      refine ⟨fun q hq => ?_, ih h.2 hr.2⟩
      rcases mem_insertRecord.mp hq with rfl | hq
      · omega
      · exact h.1 q hq

theorem length_insertRecord (r : CertificateRecord) (qs : List CertificateRecord) :
    (insertRecord r qs).length = qs.length + 1 := by
  induction qs with
  | nil => rfl
  | cons a qs ih => unfold insertRecord; split <;> simp [ih]

theorem inner_placeRecord (s : State) (r : CertificateRecord) (h : storeHasRoom s.store r.run = true) :
    Inner s (placeRecord s r) := by
  simp only [storeHasRoom, Bool.and_eq_true, decide_eq_true_eq, Bool.not_eq_true'] at h
  unfold placeRecord
  dsimp only
  refine Inner.trans ?_ (inner_raise ..)
  refine Inner.trans ?_ (inner_bumpStamp _)
  refine Inner.trans ?_ (inner_changeJob _ _ _ fun k => by simp [JobState.active] at k)
  refine Inner.trans ?_ (inner_putBuilding ..)
  exact { store := fun k => ⟨by simpa [length_insertRecord] using h.1, insertRecord_ordered k.2 h.2⟩ }

theorem lowestRun_mem {rs : List CertificateRecord} {r : CertificateRecord} (h : lowestRun rs = some r) : r ∈ rs := by
  induction rs generalizing r with
  | nil => cases h
  | cons a rs ih =>
    unfold lowestRun at h
    split at h
    · next q hq =>
      split at h
      · cases h; exact List.mem_cons_of_mem _ (ih hq)
      · cases h; exact List.mem_cons_self
    · cases h; exact List.mem_cons_self

theorem inner_fillPlace (s : State) : Inner s (fillPlace s) := by
  unfold fillPlace
  split
  · next r h => exact inner_placeRecord _ _ (by simpa using (List.mem_filter.mp (lowestRun_mem h)).2)
  · exact Inner.refl s

theorem inner_completeBuild (s : State) (j : JobId) : Inner s (completeBuild s j) := by
  unfold completeBuild
  dsimp only
  split
  · next h => exact inner_placeRecord _ _ h
  · exact (inner_putBuilding ..).trans (inner_raise ..)

end Sys2Proof.Machine
end

