-- ==== Sys2Proof/Laws/PerInstr.lean ====
section
/-! SUPPORT. The families of statements made once per constructor of `Instr`. `Encoding`: the payload that the encoder
writes for a well-formed management command has the length its layout gives it (R181). -/

namespace Sys2Proof.Laws

set_option Elab.async false

/-- A number is spelled in as many bytes as its field has (R180). -/
@[simp] theorem length_leBytes (n x : Nat) : (leBytes n x).length = n := by
  induction n generalizing x with
  | zero => rfl
  | succ n ih => simp [leBytes, ih]

/-- A list of items of one size each is as long as its items together. -/
theorem length_flatMap_const {α : Type} (f : α → List Byte) (k : Nat) (h : ∀ x, (f x).length = k) (xs : List α) :
    (xs.flatMap f).length = k * xs.length := by
  induction xs with
  | nil => rfl
  | cons x xs ih => simp [List.flatMap_cons, h, ih, Nat.mul_succ, Nat.add_comm]

/-- An action entry takes 2 bytes (R181). -/
@[simp] theorem length_actionBytes (a : ActionImage) : (actionBytes a).length = 2 := by simp [actionBytes]

/-- A pass entry takes 12 bytes (R181, R182). -/
@[simp] theorem length_passBytes (p : PassImage) : (passBytes p).length = 12 := by simp [passBytes]

/-- An extent word takes 10 bytes (R181). -/
@[simp] theorem length_extentBytes (w : ExtentWord) : (extentBytes w).length = 10 := by simp [extentBytes]

/-- The length of a management command's payload by its layout (R181); 0 for a command that has none. -/
def payloadLength : Instr → Nat
  | .coldReset => 0
  | .upstreamLinkReset => 0
  | .linkUp => 0
  | .commandFrame _ => 0
  | .invalidFrame _ => 0
  | .dataFrame _ => 0
  | .identifyBridge => 0
  | .setClock _ => 4
  | .loadClassMap _ b _ => 3 + b
  | .loadPolicy _ => 52
  | .assignProfile _ _ => 2
  | .loadProgram _ b _ => 2 + 12 * b
  | .loadExtents _ b _ => 4 + 10 * b
  | .loadJob _ => 29
  | .start _ => 1
  | .trigger _ => 1
  | .cancelTrigger _ => 1
  | .pause _ => 1
  | .resume _ => 1
  | .cancel _ => 1
  | .release _ => 1
  | .readJobStatus _ => 1
  | .readBayStatus _ => 1
  | .readCoverage _ _ _ => 4
  | .readCertificate _ _ => 5
  | .discardCertificate _ => 4
  | .clearAttention _ _ => 3
  | .setNoticeRouting _ => 10
  | .setIndicator _ _ => 2
  | .setBayParameters _ => 10
  | .resetBay _ => 1
  | .resetBridge => 0
  | .unknownCommand _ _ => 0
  | .presenceAsserted _ => 0
  | .presenceDropped _ => 0
  | .debounceExpiry _ => 0
  | .deviceFaultIndication _ => 0
  | .resetTimerExpiry _ => 0
  | .requestCompletion _ _ _ _ => 0
  | .abortConfirmation _ _ => 0
  | .abortRefusal _ _ => 0
  | .t1Expiry _ _ => 0
  | .t2Expiry _ _ => 0
  | .driveDataIn _ _ _ => 0
  | .driveDataOut _ _ _ => 0
  | .extentScanWord _ => 0
  | .engineGrant => 0
  | .nativeEraseIssue _ => 0
  | .passthroughGrant => 0
  | .holdExpiry _ => 0
  | .buildComplete _ => 0
  | .indicatorPhase _ => 0
  | .clockSecond => 0

namespace Encoding

/-- The encoder's payload of a well-formed command has its layout's length (R181). -/
def Statement (i : Instr) : Prop :=
  i.wellFormed = true → ∀ code payload, encodeManagement i = some (code, payload) → payload.length = payloadLength i

theorem coldReset : Statement .coldReset := fun _ _ _ e => nomatch e

theorem upstreamLinkReset : Statement .upstreamLinkReset := fun _ _ _ e => nomatch e

theorem linkUp : Statement .linkUp := fun _ _ _ e => nomatch e

theorem commandFrame (bytes : List Byte) : Statement (.commandFrame bytes) := fun _ _ _ e => nomatch e

theorem invalidFrame (bytes : List Byte) : Statement (.invalidFrame bytes) := fun _ _ _ e => nomatch e

theorem dataFrame (bytes : List Byte) : Statement (.dataFrame bytes) := fun _ _ _ e => nomatch e

theorem identifyBridge : Statement .identifyBridge := by
  intro _ code payload e
  obtain ⟨-, rfl⟩ := Prod.mk.inj (Option.some.inj e)
  simp [payloadLength]

theorem setClock (value : Word) : Statement (.setClock value) := by
  intro _ code payload e
  obtain ⟨-, rfl⟩ := Prod.mk.inj (Option.some.inj e)
  simp [payloadLength]

theorem loadClassMap (first count : Nat) (classes : List Nat) : Statement (.loadClassMap first count classes) := by
  intro w code payload e
  obtain ⟨-, rfl⟩ := Prod.mk.inj (Option.some.inj e)
  simp [Instr.wellFormed] at w
  simp [payloadLength, length_flatMap_const _ 1 (fun _ => length_leBytes 1 _)]
  omega

theorem loadPolicy (image : PolicyImage) : Statement (.loadPolicy image) := by
  intro w code payload e
  obtain ⟨-, rfl⟩ := Prod.mk.inj (Option.some.inj e)
  simp [Instr.wellFormed, PolicyImage.wellFormed] at w
  simp [payloadLength, length_flatMap_const _ 2 length_actionBytes]
  omega

theorem assignProfile (bay profile : Nat) : Statement (.assignProfile bay profile) := by
  intro _ code payload e
  obtain ⟨-, rfl⟩ := Prod.mk.inj (Option.some.inj e)
  simp [payloadLength]

theorem loadProgram (program count : Nat) (passes : List PassImage) : Statement (.loadProgram program count passes) := by
  intro w code payload e
  obtain ⟨-, rfl⟩ := Prod.mk.inj (Option.some.inj e)
  simp [Instr.wellFormed] at w
  simp [payloadLength, length_flatMap_const _ 12 length_passBytes]
  omega

theorem loadExtents (first count : Nat) (words : List ExtentWord) : Statement (.loadExtents first count words) := by
  intro w code payload e
  obtain ⟨-, rfl⟩ := Prod.mk.inj (Option.some.inj e)
  simp [Instr.wellFormed] at w
  simp [payloadLength, length_flatMap_const _ 10 length_extentBytes]
  omega

theorem loadJob (image : JobImage) : Statement (.loadJob image) := by
  intro w code payload e
  obtain ⟨-, rfl⟩ := Prod.mk.inj (Option.some.inj e)
  simp [Instr.wellFormed, JobImage.wellFormed] at w
  simp [payloadLength]
  omega

theorem start (slot : Nat) : Statement (.start slot) := by
  intro _ code payload e
  obtain ⟨-, rfl⟩ := Prod.mk.inj (Option.some.inj e)
  simp [payloadLength]

theorem trigger (slot : Nat) : Statement (.trigger slot) := by
  intro _ code payload e
  obtain ⟨-, rfl⟩ := Prod.mk.inj (Option.some.inj e)
  simp [payloadLength]

theorem cancelTrigger (slot : Nat) : Statement (.cancelTrigger slot) := by
  intro _ code payload e
  obtain ⟨-, rfl⟩ := Prod.mk.inj (Option.some.inj e)
  simp [payloadLength]

theorem pause (slot : Nat) : Statement (.pause slot) := by
  intro _ code payload e
  obtain ⟨-, rfl⟩ := Prod.mk.inj (Option.some.inj e)
  simp [payloadLength]

theorem resume (slot : Nat) : Statement (.resume slot) := by
  intro _ code payload e
  obtain ⟨-, rfl⟩ := Prod.mk.inj (Option.some.inj e)
  simp [payloadLength]

theorem cancel (slot : Nat) : Statement (.cancel slot) := by
  intro _ code payload e
  obtain ⟨-, rfl⟩ := Prod.mk.inj (Option.some.inj e)
  simp [payloadLength]

theorem release (slot : Nat) : Statement (.release slot) := by
  intro _ code payload e
  obtain ⟨-, rfl⟩ := Prod.mk.inj (Option.some.inj e)
  simp [payloadLength]

theorem readJobStatus (slot : Nat) : Statement (.readJobStatus slot) := by
  intro _ code payload e
  obtain ⟨-, rfl⟩ := Prod.mk.inj (Option.some.inj e)
  simp [payloadLength]

theorem readBayStatus (bay : Nat) : Statement (.readBayStatus bay) := by
  intro _ code payload e
  obtain ⟨-, rfl⟩ := Prod.mk.inj (Option.some.inj e)
  simp [payloadLength]

theorem readCoverage (bay first count : Nat) : Statement (.readCoverage bay first count) := by
  intro _ code payload e
  obtain ⟨-, rfl⟩ := Prod.mk.inj (Option.some.inj e)
  simp [payloadLength]

theorem readCertificate (selector : Nat) (run : Word) : Statement (.readCertificate selector run) := by
  intro _ code payload e
  obtain ⟨-, rfl⟩ := Prod.mk.inj (Option.some.inj e)
  simp [payloadLength]

theorem discardCertificate (run : Word) : Statement (.discardCertificate run) := by
  intro _ code payload e
  obtain ⟨-, rfl⟩ := Prod.mk.inj (Option.some.inj e)
  simp [payloadLength]

theorem clearAttention (bay : Nat) (mask : BitVec 16) : Statement (.clearAttention bay mask) := by
  intro _ code payload e
  obtain ⟨-, rfl⟩ := Prod.mk.inj (Option.some.inj e)
  simp [payloadLength]

theorem setNoticeRouting (channels : List Nat) : Statement (.setNoticeRouting channels) := by
  intro w code payload e
  obtain ⟨-, rfl⟩ := Prod.mk.inj (Option.some.inj e)
  simp [Instr.wellFormed] at w
  simp [payloadLength, length_flatMap_const _ 1 (fun _ => length_leBytes 1 _)]
  omega

theorem setIndicator (bay pattern : Nat) : Statement (.setIndicator bay pattern) := by
  intro _ code payload e
  obtain ⟨-, rfl⟩ := Prod.mk.inj (Option.some.inj e)
  simp [payloadLength]

theorem setBayParameters (image : ParameterImage) : Statement (.setBayParameters image) := by
  intro _ code payload e
  obtain ⟨-, rfl⟩ := Prod.mk.inj (Option.some.inj e)
  simp [payloadLength]

theorem resetBay (bay : Nat) : Statement (.resetBay bay) := by
  intro _ code payload e
  obtain ⟨-, rfl⟩ := Prod.mk.inj (Option.some.inj e)
  simp [payloadLength]

theorem resetBridge : Statement .resetBridge := by
  intro _ code payload e
  obtain ⟨-, rfl⟩ := Prod.mk.inj (Option.some.inj e)
  simp [payloadLength]

theorem unknownCommand (code : Byte) (payload : List Byte) : Statement (.unknownCommand code payload) := fun _ _ _ e => nomatch e

theorem presenceAsserted (bay : BayId) : Statement (.presenceAsserted bay) := fun _ _ _ e => nomatch e

theorem presenceDropped (bay : BayId) : Statement (.presenceDropped bay) := fun _ _ _ e => nomatch e

theorem debounceExpiry (bay : BayId) : Statement (.debounceExpiry bay) := fun _ _ _ e => nomatch e

theorem deviceFaultIndication (bay : BayId) : Statement (.deviceFaultIndication bay) := fun _ _ _ e => nomatch e

theorem resetTimerExpiry (bay : BayId) : Statement (.resetTimerExpiry bay) := fun _ _ _ e => nomatch e

theorem requestCompletion (bay : BayId) (request : Nat) (status : CompletionStatus) (identity : DriveIdentity) : Statement (.requestCompletion bay request status identity) := fun _ _ _ e => nomatch e

theorem abortConfirmation (bay : BayId) (request : Nat) : Statement (.abortConfirmation bay request) := fun _ _ _ e => nomatch e

theorem abortRefusal (bay : BayId) (request : Nat) : Statement (.abortRefusal bay request) := fun _ _ _ e => nomatch e

theorem t1Expiry (bay : BayId) (request : Nat) : Statement (.t1Expiry bay request) := fun _ _ _ e => nomatch e

theorem t2Expiry (bay : BayId) (request : Nat) : Statement (.t2Expiry bay request) := fun _ _ _ e => nomatch e

theorem driveDataIn (bay : BayId) (request : Nat) (bytes : List Byte) : Statement (.driveDataIn bay request bytes) := fun _ _ _ e => nomatch e

theorem driveDataOut (bay : BayId) (request : Nat) (count : Nat) : Statement (.driveDataOut bay request count) := fun _ _ _ e => nomatch e

theorem extentScanWord (bay : BayId) : Statement (.extentScanWord bay) := fun _ _ _ e => nomatch e

theorem engineGrant : Statement .engineGrant := fun _ _ _ e => nomatch e

theorem nativeEraseIssue (bay : BayId) : Statement (.nativeEraseIssue bay) := fun _ _ _ e => nomatch e

theorem passthroughGrant : Statement .passthroughGrant := fun _ _ _ e => nomatch e

theorem holdExpiry (tag : Tag) : Statement (.holdExpiry tag) := fun _ _ _ e => nomatch e

theorem buildComplete (slot : JobId) : Statement (.buildComplete slot) := fun _ _ _ e => nomatch e

theorem indicatorPhase (bay : BayId) : Statement (.indicatorPhase bay) := fun _ _ _ e => nomatch e

theorem clockSecond : Statement .clockSecond := fun _ _ _ e => nomatch e

end Encoding

end Sys2Proof.Laws
end

