-- ==== Sys2Proof/Laws/Wire.lean ====
section
/-! SUPPORT. The sizes of what the bridge sends, and the field that a prefix of known length leaves to be read: what a
proof about the layouts of R180 to R182 cites. -/

namespace Sys2Proof.Laws

open Sys2Proof.Machine

set_option Elab.async false

/-- The bytes that spell a number spell it back, as far as they reach (R180). -/
theorem leNat_leBytes (n x : Nat) : leNat (leBytes n x) = x % 256 ^ n := by
  induction n generalizing x with
  | zero => simp [leBytes, leNat, Nat.mod_one]
  | succ n ih =>
    rw [Nat.pow_succ', Nat.mod_mul, leBytes, leNat, ih, BitVec.toNat_ofNat]

/-- A padded text has its field's size (R180). -/
@[simp] theorem length_padded (n : Nat) (bs : List Byte) : (padded n bs).length = n := by
  simp [padded]

/-- An end-time field takes 4 bytes, with or without an end time (R182). -/
@[simp] theorem length_passEndBytes (p : PassRecord) : (passEndBytes p).length = 4 := by
  unfold passEndBytes; split <;> simp

/-- A pass entry takes 12 bytes (R182). -/
@[simp] theorem length_passRecordBytes (p : PassRecord) : (passRecordBytes p).length = 12 := by
  simp [passRecordBytes]

/-- A certificate record takes 192 bytes (R182). -/
theorem length_certificateBytes (r : CertificateRecord) : (certificateBytes r).length = 192 := by
  unfold certificateBytes
  rw [List.length_append, length_padded]
  simp only [List.length_append, length_leBytes, length_padded]

/-- A coverage entry takes 4 bytes (R182). -/
@[simp] theorem length_coverageEntryBytes (e : ZoneEntry) : (coverageEntryBytes e).length = 4 := by
  simp [coverageEntryBytes]

/-- The run number field takes 4 bytes, with or without a run number (R182). -/
@[simp] theorem length_coverageRunBytes (c : CoverageReport) : (coverageRunBytes c).length = 4 := by
  unfold coverageRunBytes; split <;> simp

/-- A coverage reply takes a header of 12 bytes and 4 bytes an entry (R182). -/
theorem length_coverageBytes (c : CoverageReport) : (coverageBytes c).length = 12 + 4 * c.entries.length := by
  simp [coverageBytes, List.length_flatMap, Nat.mul_comm]
  omega

/-- A field that stands between a prefix of its offset's length and a rest. -/
theorem field_append (a b c : List Byte) (offset size : Nat) (ha : a.length = offset) (hb : b.length = size) :
    field (a ++ b ++ c) offset size = leNat b := by
  subst ha hb; simp [field]

/-- The key byte of a frame the bridge sends lies from 0 to 15 (R180). -/
theorem keyByte_lt (f : OutFrame) : f.keyByte.toNat < 16 := by
  cases f <;> simp [OutFrame.keyByte] <;> exact lt_of_le_of_lt Nat.and_le_right (by decide)

end Sys2Proof.Laws
end

