-- ==== Sys2Proof/Tests/Slice0.lean ====
section
/-! SUPPORT. Tests: terms that the well-formedness check refuses, the worked figures of spec/, one step of commands on
small states, and for every obligation with hypotheses a state and operands that meet them. Expected values come from
the rule or the worked figure that the test names. -/

namespace Sys2Proof.Tests

open Sys2Proof Sys2Proof.Machine Sys2Proof.Safety

set_option Elab.async false

/-! ### Ill-formed commands are refused by the check -/

theorem test_wf_number_above_a_byte :
    (Instr.start 256).wellFormed = false ∧ (Instr.assignProfile 0 256).wellFormed = false ∧
    (Instr.setIndicator 256 0).wellFormed = false ∧ (Instr.readCertificate 256 0).wellFormed = false ∧
    (Instr.start 255).wellFormed = true := by decide
theorem test_wf_number_above_two_bytes :
    (Instr.readCoverage 0 65536 1).wellFormed = false ∧ (Instr.readCoverage 0 65535 1).wellFormed = true := by decide
theorem test_wf_count_that_is_not_the_length :
    (Instr.loadClassMap 0 2 [1]).wellFormed = false ∧ (Instr.loadExtents 0 1 []).wellFormed = false ∧
    (Instr.loadProgram 0 1 []).wellFormed = false ∧ (Instr.setNoticeRouting [1, 1]).wellFormed = false := by decide
theorem test_wf_field_of_an_extent_word :
    (Instr.loadExtents 0 1 [{ start := 2 ^ 48, length := 1 }]).wellFormed = false ∧
    (Instr.loadExtents 0 1 [{ start := 0, length := 2 ^ 32 }]).wellFormed = false ∧
    (Instr.loadExtents 0 1 [{ start := 2 ^ 48 - 1, length := 2 ^ 32 - 1 }]).wellFormed = true := by decide
theorem test_wf_policy_of_23_actions :
    (Instr.loadPolicy {
      profile := 0, actions := List.replicate 23 { action := 0, substitute := 0 }, identifyOpcode := 0, healthOpcode := 0, flushOpcode := 0 }).wellFormed = false := by decide
theorem test_wf_label_of_15_bytes :
    (Instr.loadJob {
      slot := 0, bay := 0, key := 1, program := 0, extentFirst := 0, extentCount := 0,
      stripeRequest := 1, tolerance := 0, labelLength := 0, label := List.replicate 15 0 }).wellFormed = false := by
  decide
theorem test_wf_pass_field_and_parameter_field :
    (Instr.loadProgram 0 1 [{
      kind := 256, pattern := 0, direction := 0, density := 0, parameter := 0, retry := 0,
      reference := 0, grain := 0, chain := 0 }]).wellFormed = false ∧
    (Instr.setBayParameters {
      bay := 0, depth := 1, dataT1 := 65536, nativeT1 := 1, t2 := 500, debounce := 0 }).wellFormed = false := by decide
theorem test_wf_drive_serial_of_19_bytes :
    (Instr.requestCompletion 0 0 .good {
      serial := List.replicate 19 0, capacity := 1, sectorSize := 512, nativeErase := false }).wellFormed = false := by decide

/-! ### The worked figures of spec/ -/

/-- 11, worked example: DISCARD CERTIFICATE for run 173 on tag 7. -/
def discardFrame : List Byte :=
  [0x01, 0x1F, 0x07, 0x00, 0x29, 0x00, 0x04, 0x00, 0, 0, 0, 0, 0, 0, 0, 0, 0xAD, 0x00, 0x00, 0x00]

theorem test_wire_discard_frame :
    (commandFrameOf discardFrame).map (fun f => (f.tag.val, f.target, managementInstr f.header.opcode f.payload)) =
      some (7, 31, .discardCertificate 173) := by decide
/-- 11, worked example: status 20 and count field 03 00 for REFUSED, RANGE; the response header otherwise. -/
theorem test_wire_refused_range_reply :
    let bytes := (OutFrame.reply 7 0x29 (.refused .range) .nothing).bytes
    bytes.take 3 = [0x03, 0x1F, 0x07] ∧ bytes.drop 4 = [0x29, 0x20, 0, 0, 0, 0, 0, 0, 0, 0, 0x03, 0x00] := by
  exact ⟨rfl, rfl⟩
/-- R181: one payload of a group written out from its layout. -/
theorem test_wire_load_job :
    managementInstr 0x08 ([23, 15, 2, 7, 0xFF, 0x0F, 1, 0, 0, 2, 4, 0, 3] ++ [0x41, 0x42, 0x43] ++
      List.replicate 13 0) = .loadJob {
        slot := 23, bay := 15, key := 2, program := 7, extentFirst := 4095,
        extentCount := 1, stripeRequest := 512, tolerance := 4, labelLength := 3,
        label := [0x41, 0x42, 0x43] ++ List.replicate 13 0 } := by decide
theorem test_wire_load_extents :
    managementInstr 0x07 [100, 0, 1, 0, 0xE8, 0x03, 0, 0, 0, 0, 0xA0, 0x0F, 0, 0] =
      .loadExtents 100 1 [{ start := 1000, length := 4000 }] := by decide
theorem test_wire_unknown_code_and_length :
    managementInstr 0x77 [] = .unknownCommand 0x77 [] ∧ managementInstr 0x10 [0, 0] = .unknownCommand 0x10 [0, 0] := by
  decide
/-- 02, R31's table. -/
theorem test_effective_stripe_table :
    effectiveStripe 512 512 = 512 ∧ effectiveStripe 1000 512 = 512 ∧ effectiveStripe 65535 512 = 512 ∧
    effectiveStripe 48 512 = 32 ∧ effectiveStripe 3 512 = 8 ∧ effectiveStripe 512 4096 = 64 := by decide
/-- 03, R56's table. -/
theorem test_geometry_table :
    (zoneShift 2049 = 11 ∧ zoneCount 2049 11 = 2) ∧ (zoneShift 2097152 = 11 ∧ zoneCount 2097152 11 = 1024) ∧
    (zoneShift 2097153 = 12 ∧ zoneCount 2097153 12 = 513) ∧ (zoneShift 1953525168 = 21 ∧ zoneCount 1953525168 21 = 932) ∧
    (zoneShift (2 ^ 48 - 1) = 38 ∧ zoneCount (2 ^ 48 - 1) 38 = 1024) := by decide +kernel
/-- 02, after R32: the extent [1000, 5000) at S_eff 512 has 9 stripes; a descending pass begins with its tail. -/
theorem test_stripes_of_an_extent :
    stripesBetween 1000 5000 512 = 9 ∧
    (stepWalk .ascending [{ start := 1000, stop := 5000 }] 512 { extent := 0, lba := 1000 }).map Prod.fst =
      some { first := 1000, length := 24 } ∧
    (stepWalk .descending [{ start := 1000, stop := 5000 }] 512 { extent := 0, lba := 5000 }).map Prod.fst =
      some { first := 4608, length := 392 } := by decide +kernel
/-- 03, 3.5: what the four words add to zones 0, 1, 2 and 9. -/
theorem test_scan_counts :
    stripesWithin { start := 1000, stop := 5000 } 0 2048 512 = 3 ∧
    stripesWithin { start := 1000, stop := 5000 } 2048 4096 512 = 4 ∧
    stripesWithin { start := 1000, stop := 5000 } 4096 6144 512 = 2 ∧
    stripesWithin (clampedExtent { start := 18944, length := 4000 } 20000) 18432 20480 512 = 3 := by decide +kernel
/-- 04, 4.9: a location word, the wrap of the sum, the wrap of the address. -/
theorem test_location_words :
    patternWord (.location 4096) 1000 3 = 0x026A19DB ∧ wordBytes 0x026A19DB = [0xDB, 0x19, 0x6A, 0x02] ∧
    patternWord (.location 0xFFFFFF00) 0 1 = 1 ∧ patternWord (.location 0) (2 ^ 32 + 5) 0 = 202515 := by decide
/-- 04, 4.10: the samples of zone 931, and of the small zones. -/
theorem test_sample_ordinals :
    ([210, 630, 1051, 1472, 1892].all (isSample 2103 5) = true ∧ isSample 2103 5 2102 = false) ∧
    (List.range 3).filter (isSample 3 2) = [0, 2] ∧ (List.range 5).filter (isSample 5 4) = [0, 1, 3, 4] ∧
    (List.range 3).filter (isSample 3 5) = [0, 1, 2] ∧ isSample 65 64 32 = false := by decide +kernel
/-- R165: the check value of this CRC-32 over the ASCII digits 1 to 9. -/
theorem test_crc_check_value : crc32 [0x31, 0x32, 0x33, 0x34, 0x35, 0x36, 0x37, 0x38, 0x39] = 0xCBF43926 := by
  decide +kernel
/-- 10, 10.6: the bytes a zone contributes. -/
theorem test_digest_bytes :
    zoneDigestBytes 2 { ZoneEntry.cleared with state := .failed, fails := 1 } = [0x02, 0x00, 0x05, 0xFF, 0x00] ∧
    zoneDigestBytes 1 { ZoneEntry.cleared with state := .verified, pass := some 2, mismatch := 3 } =
      [0x01, 0x00, 0x03, 0x02, 0x03] := by decide

/-- A pass entry of a kind with its pattern and reference, the rest at 0. -/
def pass (kind pattern reference : Nat) : PassImage :=
  { kind := kind, pattern := pattern, direction := 0, density := 0, parameter := 0, retry := 0, reference := reference,
    grain := 2, chain := 0 }

/-- 02, examples of program loading. -/
theorem test_program_examples :
    programWellFormed [pass 0 3 0, pass 1 0 0] = true ∧ programWellFormed [pass 1 0 0, pass 0 0 0] = false ∧
    programWellFormed [pass 0 1 0, pass 0 0 0, pass 1 0 0] = false ∧
    programWellFormed [pass 2 1 0, pass 1 0 0] = true ∧ programWellFormed [pass 2 2 0] = false ∧
    programWellFormed [pass 0 0 0, pass 1 0 0, pass 1 0 0] = true := by decide

/-! ### Small states -/

/-- A usable drive. -/
def drive : DriveIdentity :=
  { serial := List.replicate 20 0x41, capacity := 5000, sectorSize := 512, nativeErase := true }

/-- A bay port in a state, its drive usable. -/
def port (x : BayState) : BayPort :=
  { BayPort.cold with state := x, presence := true, identity := some drive, shown := .on }

/-- A bridge whose link is UP, with a state for bay 0 and a program of one overwrite. -/
def rack (x : BayState) : State :=
  { State.reset with
    link := .up
    ports := put State.reset.ports 0 (port x)
    tables := { Tables.cold with programs := put Tables.cold.programs 0 (some [pass 0 0 0]) } }

/-- A job for bay 0 in a state, on the drive of `rack`. -/
def job (x : JobState) : Job :=
  { Job.free with
    state := x, key := 3, stripeRequest := 512, run := some 1, startTime := some 0
    identity := some { serial := drive.serial, capacity := 5000, sectorSize := 512 }
    geometry := some { sEff := 512, z := 11, zn := 3 } }

/-- The walk context of an ascending overwrite in its only unit. -/
def walking : WalkContext :=
  { pass := 0, kind := .overwrite, direction := .ascending, grain := .pass, pattern := .zero, density := 0,
    reference := 0, retryLimit := 1, cursor := { extent := 0, lba := 0 }, unitEnd := some { extent := 1, lba := 5000 },
    resumeCursor := none, marks := [] }

/-- A zone entry with a state, its due 4. -/
def zone (x : ZoneState) : ZoneEntry := { ZoneEntry.cleared with state := x, due := 4 }

/-- `rack` with job 0 in a state, its walk and its map. -/
def busy (x : BayState) (y : JobState) : State :=
  (((rack x).putJob 0 (job y)).putContext 0 (some walking)).putMap 0
    { owner := some 0, run := some 1, z := 11, zn := 3, entries := [zone .untouched, zone .writing, zone .excluded] }

/-- The command that the bytes of a management command stand for in the queue. -/
def queuedCommand (i : Instr) : ManagementCommand :=
  match encodeManagement i, i with
  | some (code, payload), _ => { tag := 5, code := code, payload := payload }
  | none, .unknownCommand code payload => { tag := 5, code := code, payload := payload }
  | none, _ => { tag := 5, code := 0, payload := [] }

/-- A state with one management command in its queue, on a tag in use. -/
def queue (i : Instr) (s : State) : State :=
  { s with management := [queuedCommand i], tags := put s.tags 5 true }

/-- The command is at the front of `queue`. -/
abbrev Front (i : Instr) (s : State) : Prop := AtFront (queue i s) (queuedCommand i) [] i

/-- The state a command answers. -/
def after (i : Instr) (s : State) : State :=
  match exec i s with
  | .next t => t
  | .fault _ => s
  | .refused _ => s

/-- A request record of an engine stripe, of the identify procedure, or of a command. -/
def record (link : RequestLink) (status : RecordStatus) (slot : Option SlotId) : Record :=
  { id := 4, origin := match link with | .command _ _ => .passthrough | _ => .engine
    request := match link with | .command c _ => .passthrough c.opcode c.lba c.count c.payload | _ => .identify
    cls := none, link := link, slot := slot, status := status, timer := 8000, wanted := true }

/-- A passthrough command of bay 0 with one unit of payload. -/
def command : PassCommand :=
  { tag := 9, bay := 0, key := 0, opcode := 0x35, lba := 8, count := 1, payload := 1, arrival := 0, holdTime := none,
    holdPast := false }

/-- A state with one record in bay 0's queue. -/
def holding (r : Record) (s : State) : State :=
  { s.putPort 0 { s.port 0 with queue := [r] } with nextRequest := 5 }

/-- An entry in flight of an overwrite in zone 0. -/
def entry (status : EntryStatus) : Entry :=
  { request := 4, stripe := { first := 0, length := 512 }, zone := some 0, kind := .overwrite, pass := 0, attempt := 1
    slot := some 8, status := status, mismatched := 0 }

/-- A certificate record with a run number, of job 0. -/
def certificate (run : Word) : CertificateRecord :=
  { run := run, slot := 0, bay := 0, label := [], outcome := .certified, serial := [], capacity := 1, sectorSize := 512
    program := 0, passes := [], extentCount := 0, extentClamped := false, stripeClamped := false, sEff := 8, z := 11
    zn := 1, zoneCounts := [], mismatched := 0, failedStripes := 0, startTime := 0, closeTime := none, digest := 0 }

/-- Every command answers a next state (log 23). -/
theorem test_every_command_completes (i : Instr) (s : State) : exec i s = .next (after i s) := by
  cases i <;> rfl

/-! ### The hypotheses of the obligations are met -/

theorem test_meets_step_takes_the_front_command :
    ({ State.reset with pending := [.linkUp] }).pending = .linkUp :: [] ∧ State.reset.pending = [] ∧
    (step { State.reset with pending := [.linkUp] } matches .next { link := .up, .. }) := by decide +kernel

theorem test_meets_only_named_commands_write_the_settings :
    (after (.assignProfile 15 3) (queue (.assignProfile 15 3) State.reset)).tables ≠ State.reset.tables ∧
    (after .clockSecond State.reset).clock ≠ State.reset.clock ∧
    (after (.extentScanWord 0) (busy .ready (.preparing (.scanning 0 0)))).runCounter ≠ 0 ∧
    (after .linkUp State.reset).link ≠ State.reset.link := by decide +kernel

theorem test_meets_certificates_are_never_lost :
    certificate 7 ∈ (rack .ready).store ++ [certificate 7] ∧
    (after (.discardCertificate 7) (queue (.discardCertificate 7)
      { State.reset with store := [certificate 3, certificate 7] })).store = [certificate 3] := by decide +kernel

/-- The invariants hold right after reset with a command waiting, and the step answers a next state. -/
theorem test_meets_the_invariants :
    Inv { State.reset with pending := [.clockSecond] } ∧
    (step { State.reset with pending := [.clockSecond] } matches .next { clock := 1, .. }) := by decide +kernel

theorem test_meets_reset_bridge :
    Front .resetBridge (rack .ready) ∧ ((rack .ready).port 0).presence = true ∧
    ((rack .ready).port 1).presence = false ∧ (rack .ready).tables.debounceTime ≠ 0 := by decide +kernel

/-- The clause of a debounce time of 0. -/
theorem test_reset_bridge_without_debounce :
    let s := rack .ready
    let u := queue .resetBridge { s with tables := { s.tables with debounceTime := 0 } }
    ((after .resetBridge u).port 0).state = .identifying ∧ (after .resetBridge u).attentionOf 0 = 1 ∧
    ((after .resetBridge u).port 1).state = .empty := by decide +kernel

/-- A management command that is being taken at a link reset has its whole effect, and its reply is not sent. -/
theorem test_meets_link_reset :
    let s := after .upstreamLinkReset (queue (.setClock 9) (rack .ready))
    s.link = .down ∧ s.management = [] ∧ s.taking = some (queuedCommand (.setClock 9)) ∧
    managementInstr (queuedCommand (.setClock 9)).code (queuedCommand (.setClock 9)).payload = .setClock 9 ∧
    (after (.setClock 9) s).clock = 9 ∧ (after (.setClock 9) s).sent = [] ∧ (after (.setClock 9) s).taking = none := by
  decide +kernel

theorem test_meets_link_up :
    (rack .ready).link = .up ∧ State.reset.link = .down ∧
    (after .linkUp (raise State.reset 3 .jobClosed)).sent = [.notice 3 1 0x080] := by decide +kernel

theorem test_meets_management_commands_round_trip :
    (Instr.readCoverage 255 65535 255).wellFormed = true ∧
    encodeManagement (.readCoverage 255 65535 255) = some (0x22, [0xFF, 0xFF, 0xFF, 0xFF]) ∧
    (Instr.setClock 173).wellFormed = true ∧ encodeManagement (.setClock 173) = some (0x02, [0xAD, 0, 0, 0]) ∧
    (Instr.loadExtents 100 1 [⟨1000, 4000⟩]).wellFormed = true ∧
    encodeManagement (.loadExtents 100 1 [⟨1000, 4000⟩]) =
      some (0x07, [100, 0, 1, 0, 0xE8, 0x03, 0, 0, 0, 0, 0xA0, 0x0F, 0, 0]) := by decide
/-- R180: a notice on channel 7 for bay 15, a clamp note, and the key 0 of the worked reply of 11, 11.5. -/
theorem test_wire_frame_layouts :
    ((OutFrame.notice 15 7 0x081).bytes.take 3 = [0x04, 15, 0] ∧ (OutFrame.notice 15 7 0x081).bytes[4]? = some 7 ∧
      (OutFrame.notice 15 7 0x081).bytes.drop 16 = [0x81, 0]) ∧
    (ReplyData.clampedActions [⟨.read, true, .refuse⟩]).bytes = [0, 1, 1] ∧
    (OutFrame.reply 7 0x29 (.refused .range) .nothing).bytes[3]? = some 0 ∧
    (OutFrame.response 31 63 0 .tagInUse true).bytes[5]? = some 0x99 := by
  exact ⟨⟨rfl, rfl, rfl⟩, rfl, rfl, rfl⟩

/-- A command frame on tag 7 with a target, a key, an opcode, an LBA and a count of sectors, no payload announced. -/
def frame (target key opcode lba count : Nat) : List Byte :=
  [0x01] ++ leBytes 1 target ++ [0x07] ++ leBytes 1 key ++ leBytes 1 opcode ++ [0, 0, 0] ++ leBytes 6 lba ++
    leBytes 2 count

/-- Each clause: no frame, a tag in use, target 31 with room for one more and without, targets 16, 30 and 15. -/
theorem test_meets_command_frames_are_routed :
    commandFrameOf (discardFrame.take 15) = none ∧ commandFrameOf (discardFrame.take 19) = none ∧
    (commandFrameOf discardFrame).map CommandFrame.target = some 31 ∧
    (commandFrameOf (frame 16 0 0 0 0)).map CommandFrame.target = some 16 ∧
    (commandFrameOf (frame 30 0 0 0 0)).map CommandFrame.target = some 30 ∧
    (commandFrameOf (frame 15 0 0 0 0)).map CommandFrame.target = some 15 ∧
    commandFrameOf (frame 32 0 0 0 0) = none ∧ (rack .ready).tagInUse 7 = false ∧
    (put (rack .ready).tags 7 true)[7] = true := by decide +kernel
theorem test_management_queue_boundary :
    let s (n : Nat) : State := { rack .ready with management := List.replicate n (queuedCommand .resetBridge) }
    (after (.commandFrame discardFrame) (s 7)).management.length = 8 ∧
    (after (.commandFrame discardFrame) (s 8)).sent = [.reply 7 0x29 .busy .nothing] ∧
    (after (.commandFrame discardFrame) (s 8)).tagInUse 7 = false := by decide +kernel

/-- The profile of bay 0 with one action for OTHER, the class that a cold map gives every opcode, in both columns. -/
def acting (a : Action) (s : State) : State :=
  let p : Profile := { Profile.cold with idle := put Profile.cold.idle 11 a, active := put Profile.cold.active 11 a }
  { s with tables := { s.tables with profiles := put s.tables.profiles 0 p } }

/-- Each stage: target, key, action REFUSE, SUBSTITUTE, PASS with the address at and past the end, and the fence. -/
theorem test_meets_passthrough_is_judged_in_five_stages :
    let answers (s : State) (f : List Byte) : List ResponseStatus :=
      (after (.commandFrame f) s).sent.filterMap fun o => match o with | .response _ _ _ x _ => some x | _ => none
    let waits (s : State) (f : List Byte) : Nat := (after (.commandFrame f) s).wait.length
    let reads : State := { rack .ready with tables := { (rack .ready).tables with classMap := Vector.replicate 256 .read } }
    answers (rack .identifying) (frame 0 0 1 0 1) = [.bayAbsent] ∧ answers (rack .ready) (frame 0 1 1 0 1) = [.key] ∧
    answers (acting .refuse (rack .ready)) (frame 0 0 1 0 1) = [.policy] ∧
    waits (acting (.substitute .flush) (rack .ready)) (frame 0 0 1 0 1) = 1 ∧
    waits reads (frame 0 0 1 4999 1) = 1 ∧ answers reads (frame 0 0 1 4999 2) = [.address] := by decide +kernel
theorem test_fence_exposes_holds_and_passes :
    let s := busy .ready .running
    let fenced : State := acting .fence { s with
      tables := { s.tables with classMap := Vector.replicate 256 .other } }
    let answers (lba : Nat) : List ResponseStatus :=
      (after (.commandFrame (frame 0 3 1 lba 1)) fenced).sent.filterMap fun o =>
        match o with | .response _ _ _ x _ => some x | _ => none
    answers 2047 = [.exposed] ∧ answers 2048 = [] ∧
    (after (.commandFrame (frame 0 3 1 2048 1)) fenced).hold.length = 1 ∧
    (after (.commandFrame (frame 0 3 1 4096 1)) fenced).wait.length = 1 := by decide +kernel

/-- A data frame on tag 9 of two bytes. -/
def payloadFrame : List Byte := [0x02, 0, 0x09, 0, 0, 0, 2, 0, 0, 0, 0, 0, 0, 0, 0, 0, 0xAA, 0xBB]

theorem test_meets_data_frames_fill_their_slot :
    let r := record (.command command false) .issued (some 7)
    let s := holding r (rack .ready)
    dataFrameOf discardFrame = none ∧ dataFrameOf payloadFrame = some { tag := 9, payload := [0xAA, 0xBB] } ∧
    r ∈ (s.port 0).queue ∧ awaitsPayload 9 r = true ∧ r.slot = some 7 ∧ s.link = .up ∧
    (∀ d, ∀ q ∈ (s.port d).queue, awaitsPayload 9 q = true → d = 0 ∧ q = r) ∧
    (∀ d, ∀ q ∈ (s.port d).queue, awaitsPayload 8 q = false) ∧
    ((after (.dataFrame payloadFrame) s).slot 7).staged = [0xAA, 0xBB] := by decide +kernel

theorem test_meets_filter_reads_the_active_job :
    OneActiveJob (busy .ready .finishing) ∧ ((busy .ready .finishing).job 0).state.active = true ∧
    ((busy .ready .finishing).job 0).bay = 0 ∧ ((busy .ready .finishing).map 0).owner = some 0 ∧
    (∀ j, ((busy .ready .closed).job j).state.active = true → ((busy .ready .closed).job j).bay ≠ 0) := by
  decide +kernel

theorem test_meets_clock_and_identity_commands :
    Front (.setClock 0xFFFFFFFF) State.reset ∧ Front .identifyBridge State.reset ∧
    Front (.unknownCommand 0xFF [1]) State.reset ∧
    (after .clockSecond { State.reset with clock := 0xFFFFFFFF }).clock = 0 := by decide +kernel

theorem test_meets_load_class_map :
    Front (.loadClassMap 255 1 [11]) State.reset ∧ Front (.loadClassMap 255 2 [0, 0]) State.reset ∧
    Front (.loadClassMap 0 0 []) State.reset ∧ Front (.loadClassMap 0 1 [12]) State.reset ∧
    (after (.loadClassMap 255 1 [4]) (queue (.loadClassMap 255 1 [4]) State.reset)).tables.classMap[255] = .flush := by
  decide +kernel

/-- 09, loading a profile: READ and the ACTIVE actions of WRITE and SECURITY as the example sends them, the rest PASS in
IDLE and REFUSE in ACTIVE. -/
def policyExample : PolicyImage :=
  { profile := 1
    actions := [⟨3, 0⟩, ⟨3, 0⟩, ⟨0, 0⟩, ⟨3, 0⟩, ⟨0, 0⟩, ⟨2, 3⟩, ⟨0, 0⟩, ⟨0, 0⟩, ⟨0, 0⟩, ⟨0, 0⟩, ⟨0, 0⟩, ⟨1, 0⟩,
      ⟨0, 0⟩, ⟨1, 0⟩, ⟨2, 4⟩, ⟨2, 4⟩, ⟨0, 0⟩, ⟨1, 0⟩, ⟨0, 0⟩, ⟨1, 0⟩, ⟨0, 0⟩, ⟨1, 0⟩, ⟨0, 0⟩, ⟨1, 0⟩]
    identifyOpcode := 1, healthOpcode := 2, flushOpcode := 3 }

theorem test_load_policy_example :
    let s := queue (.loadPolicy policyExample) (rack .ready)
    let t := after (.loadPolicy policyExample) s
    t.tables.profiles[1].idle[0] = .pass ∧ t.tables.profiles[1].active[0] = .fence ∧
    t.tables.profiles[1].active[1] = .refuse ∧ t.tables.profiles[1].active[2] = .substitute .health ∧
    t.tables.profiles[1].idle[7] = .substitute .flush ∧ t.tables.profiles[1].active[7] = .refuse ∧
    (t.sent matches [.reply 5 0x04 .accepted (.clampedActions [_, _, _])]) := by decide +kernel
theorem test_meets_load_policy :
    Front (.loadPolicy { policyExample with profile := 3 }) State.reset ∧
    Front (.loadPolicy { policyExample with profile := 4 }) State.reset ∧
    (policyExample.actions.all fun a => decide (a.action < 4 ∧ (a.action = 2 → 2 ≤ a.substitute ∧ a.substitute ≤ 4))) =
      true := by decide +kernel

theorem test_meets_settings_of_the_bays :
    Front (.assignProfile 15 3) State.reset ∧ Front (.assignProfile 16 0) State.reset ∧
    Front (.assignProfile 0 4) State.reset ∧ Front (.setNoticeRouting (List.replicate 10 7)) State.reset ∧
    Front (.setNoticeRouting (List.replicate 10 8)) State.reset ∧
    (∀ b ∈ [0, 15, 16, 255], Front (.setBayParameters
      { bay := b, depth := 4, dataT1 := 500, nativeT1 := 1440, t2 := 60000, debounce := 256 }) State.reset) := by
  decide +kernel
theorem test_set_bay_parameters_of_every_bay :
    let i := Instr.setBayParameters
      { bay := 255, depth := 4, dataT1 := 500, nativeT1 := 1440, t2 := 60000, debounce := 256 }
    ((after i (queue i State.reset)).parameters 15).depth = 4 ∧
    (after i (queue i State.reset)).tables.debounceTime = 256 := by decide +kernel

theorem test_meets_load_program :
    Front (.loadProgram 7 1 [pass 0 0 0]) State.reset ∧ Front (.loadProgram 8 1 [pass 0 0 0]) State.reset ∧
    Front (.loadProgram 0 1 [pass 1 0 0]) State.reset ∧ Front (.loadProgram 0 0 []) State.reset ∧
    (∃ j, ((busy .ready .finishing).job j).state.active = true ∧ ((busy .ready .finishing).job j).program = 0) ∧
    programWellFormed [pass 0 0 0] = true ∧ programWellFormed [pass 1 0 0] = false := by decide +kernel
theorem test_load_program_clamps_density :
    let i := Instr.loadProgram 1 2 [pass 2 1 0, { pass 1 0 0 with density := 100 }]
    let t := after i (queue i (rack .ready))
    (t.program 1).map PassImage.density = [0, 64] ∧
    t.sent = [.reply 5 0x06 .accepted (.clampedPasses [1])] := by decide +kernel

/-- The last word in range, one word past it, a word in use and the word after it. -/
theorem test_meets_load_extents :
    Front (.loadExtents 4095 1 [⟨5, 1⟩]) State.reset ∧ Front (.loadExtents 4095 2 [⟨5, 1⟩, ⟨6, 1⟩]) State.reset ∧
    (let s := (rack .ready).putJob 0 { job .paused with extentFirst := 8, extentCount := 2 }
     (after (.loadExtents 9 1 [⟨5, 1⟩]) (queue (.loadExtents 9 1 [⟨5, 1⟩]) s)).sent =
       [.reply 5 0x07 (.refused .inUse) .nothing] ∧
     (after (.loadExtents 10 1 [⟨5, 1⟩]) (queue (.loadExtents 10 1 [⟨5, 1⟩]) s)).tables.extents = [(10, ⟨5, 1⟩)]) ∧
    extentsCanonical State.reset.tables.extents = true := by decide +kernel

/-- The fields of an accepted LOAD JOB for slot 23 and bay 15. -/
def jobImage : JobImage :=
  { slot := 23, bay := 15, key := 15, program := 0, extentFirst := 4095, extentCount := 1, stripeRequest := 65535,
    tolerance := 1024, labelLength := 16, label := List.replicate 16 0x41 }

theorem test_meets_load_job :
    (∀ x ∈ [jobImage, { jobImage with slot := 24 }, { jobImage with bay := 16 }, { jobImage with key := 0 },
        { jobImage with key := 16 }, { jobImage with program := 8 }, { jobImage with program := 1 },
        { jobImage with extentFirst := 4096 }, { jobImage with extentCount := 2 }, { jobImage with stripeRequest := 0 },
        { jobImage with tolerance := 1025 }, { jobImage with labelLength := 17 }],
      Front (.loadJob x) (rack .ready)) ∧
    ((after (.loadJob jobImage) (queue (.loadJob jobImage) (rack .ready))).job 23).state = .loaded ∧
    (after (.loadJob { jobImage with program := 1 }) (queue (.loadJob { jobImage with program := 1 }) (rack .ready))).sent
      = [.reply 5 0x08 (.refused .badProgram) .nothing] := by decide +kernel

/-- Each job command on slot 0, the last slot and the first number past it. -/
theorem test_meets_job_commands :
    (∀ c ∈ [Instr.start, .trigger, .cancelTrigger, .pause, .resume, .cancel, .release, .readJobStatus],
      ∀ n ∈ [0, 23, 24], Front (c n) (rack .ready)) ∧
    Front (.readBayStatus 15) State.reset ∧ Front (.readBayStatus 16) State.reset := by decide +kernel

/-- START: a bay that is not READY, a READY bay, one with a write outstanding, and a bay that has an active job. -/
theorem test_meets_start :
    let loaded (x : BayState) : State := (rack x).putJob 0 (job .loaded)
    let go (s : State) : State := after (.start 0) (queue (.start 0) s)
    let write : Record := { record (.command command false) .issued (some 7) with cls := some .write }
    (((loaded .identifying).port 0).state ≠ .ready ∧ ((go (loaded .identifying)).job 0).state = .waitingBay) ∧
    ((loaded .ready).port 0).identity = some drive ∧ ¬ WriteOutstanding ((loaded .ready).port 0) ∧
    ((go (loaded .ready)).job 0).state = .preparing (.scanning 0 0) ∧
    WriteOutstanding ((holding write (loaded .ready)).port 0) ∧
    ((go (holding write (loaded .ready))).job 0).state = .preparing .draining ∧
    (go ((loaded .ready).putJob 5 (job .paused))).sent = [.reply 5 0x10 .busy .nothing] := by decide +kernel
theorem test_start_checks_a_native_erase :
    let s (p : PassImage) (d : DriveIdentity) (count : Nat) : State :=
      let r := (rack .ready).putJob 0 { job .loaded with extentCount := count }
      { r.putPort 0 { port .ready with identity := some d } with
        tables := { r.tables with programs := put r.tables.programs 0 (some [p]) } }
    let go (s : State) : Job := (after (.start 0) (queue (.start 0) s)).job 0
    (go (s (pass 2 0 0) { drive with nativeErase := false } 0)).startError = some .noNativeErase ∧
    (go (s (pass 2 0 0) drive 1)).startError = some .programConflict ∧
    (go (s (pass 2 0 0) drive 0)).state = .preparing (.scanning 0 0) := by decide +kernel
/-- A read held as START activates the job is judged again by the job's key, before the scan begins and with a write
outstanding; a READY bay whose port has no identity leaves the job in stage 1. -/
theorem test_start_judges_held_reads :
    let s : State := { (rack .ready).putJob 0 (job .loaded) with hold := [{ command with holdTime := some 0 }] }
    let blank : State := s.putPort 0 { port .ready with identity := none }
    let go (s : State) : State := after (.start 0) (queue (.start 0) s)
    let frames : List OutFrame := [.reply 5 0x10 .accepted .nothing, .response 0 9 0x35 .key false]
    (∀ c ∈ s.hold, c.bay = 0 ∧ ∀ d ∈ s.hold, d.tag = c.tag → d = c) ∧ (go s).sent = frames ∧ (go s).hold = [] ∧
    (blank.port 0).identity = none ∧ ((go blank).job 0).state = .preparing .draining ∧ (go blank).sent = frames := by
  decide +kernel

/-- TRIGGER: latched, found latched, begun in WAITING(TRIGGER), and past the end of a pass with a pass to follow. -/
theorem test_meets_trigger :
    let go (s : State) : State := after (.trigger 0) (queue (.trigger 0) s)
    ((go (busy .ready .paused)).job 0).latch = true ∧
    (go ((busy .ready .paused).putJob 0 { job .paused with latch := true })).sent = [.reply 5 0x11 .busy .nothing] ∧
    ((go (busy .ready .waitingTrigger)).job 0).state = .running ∧
    (go (busy .ready .finishing)).sent = [.reply 5 0x11 (.refused .state) .nothing] ∧
    (let s := (busy .ready .waitingTrigger).putJob 0 { job .waitingTrigger with passComplete := true }
     let s := { s with
       tables := { s.tables with programs := put s.tables.programs 0 (some [pass 0 0 0, pass 0 1 0]) } }
     (s.program 0).length ≤ 8 ∧ (s.job 0).passIndex + 1 < (s.program 0).length ∧
     ((go s).job 0).passIndex = 1 ∧ ((go s).job 0).state = .running) := by decide +kernel

theorem test_cancel_trigger_and_release :
    let s := (busy .ready .halted).putJob 0 { job .halted with latch := true }
    ((after (.cancelTrigger 0) (queue (.cancelTrigger 0) s)).job 0).latch = false ∧
    (after (.cancelTrigger 0) (queue (.cancelTrigger 0) (busy .ready .halted))).sent =
      [.reply 5 0x12 (.refused .nothingLatched) .nothing] ∧
    (after (.release 0) (queue (.release 0) (busy .ready .closed))).job 0 = Job.free := by decide +kernel

/-- PAUSE: with a stripe in flight, with none, and in WAITING(TRIGGER) with the position recorded. -/
theorem test_meets_pause :
    let go (s : State) : State := after (.pause 0) (queue (.pause 0) s)
    ((go ((busy .ready .running).putList 0 [entry .issued])).job 0).state = .draining .paused ∧
    ((go (busy .ready .running)).job 0).state = .paused ∧
    ((go (busy .ready .waitingTrigger)).context 0).map WalkContext.resumeCursor = some (some ⟨0, 0⟩) := by
  decide +kernel

/-- RESUME: another drive, a unit in progress, no trigger, a latched one, and a latched one past the end of a pass. -/
theorem test_meets_resume :
    let go (s : State) : State := after (.resume 0) (queue (.resume 0) s)
    let s (x : Job) : State := (busy .ready .paused).putJob 0 x
    let two (s : State) : State :=
      { s with tables := { s.tables with programs := put s.tables.programs 0 (some [pass 0 0 0, pass 0 1 0]) } }
    ((go (s { job .halted with unitActive := true })).job 0).state = .running ∧
    ((go (s (job .halted))).job 0).state = .waitingTrigger ∧
    ((go (s { job .paused with latch := true })).job 0).unitActive = true ∧
    ((go (two (s { job .paused with latch := true, passComplete := true }))).job 0).passIndex = 1 ∧
    (go (s { job .paused with identity := none })).sent = [.reply 5 0x14 (.refused .foreignDrive) .nothing] ∧
    (go (busy .faulted .paused)).sent = [.reply 5 0x14 (.refused .bayNotReady) .nothing] := by decide +kernel

theorem test_cancel_by_state :
    let go (y : JobState) : State := after (.cancel 0) (queue (.cancel 0) (busy .ready y))
    (∀ y ∈ [JobState.loaded, .waitingBay, .preparing .draining, .preparing (.scanning 0 0)],
      ((go y).job 0).state = .free) ∧
    (∀ y ∈ [JobState.running, .waitingTrigger, .paused, .halted, .draining .paused], ((go y).job 0).state = .finishing) ∧
    (after (.cancel 0) (queue (.cancel 0) ((busy .ready .running).putList 0 [entry .issued]))).jobs[0].state =
      .draining (.finishing .cancelled) ∧
    (∀ y ∈ [JobState.free, .finishing, .closed, .draining (.finishing .rejected)],
      (go y).sent = [.reply 5 0x15 (.refused .state) .nothing]) := by decide +kernel

/-- Bay 0 owns slot 7, which is counted under the passthrough part of the pool. -/
theorem test_read_bay_status_counts_slots :
    let s := (rack .ready).putSlot 7 { Slot.empty with owner := .passthrough 0 4 9 }
    (after (.readBayStatus 15) (queue (.readBayStatus 15) s)).sent matches
      [.reply 5 0x21 .accepted (.bayStatus
        { freeEngineSlots := 24, freePassthroughSlots := 7, ownedSlots := (0, 1) :: (0, 0) :: _, .. })] := by
  decide +kernel

/-- R182: a record of one pass with an end time, its bytes at the offsets of the layout. -/
theorem test_meets_certificate_layout :
    let r : CertificateRecord := { certificate 173 with
      slot := 23, outcome := .rejected, zoneCounts := [0, 0, 0, 5, 0, 1, 0], closeTime := some 9, digest := 0xCBF43926
      passes := [⟨.verify, 0, 1, 64, 0, some 258⟩] }
    let bytes := (ReplyData.certificate 3 1 r).bytes
    bytes.length = 194 ∧ bytes.take 9 = [3, 1, 173, 0, 0, 0, 23, 0, 2] ∧ (bytes.drop 70).take 6 = [5, 0, 0, 0, 1, 0] ∧
    (bytes.drop 94).take 4 = [0x26, 0x39, 0xF4, 0xCB] ∧
    (bytes.drop 98).take 13 = [0x81, 0, 1, 64, 0, 0, 0, 0, 2, 1, 0, 0, 0] := by decide +kernel
theorem test_meets_coverage_layout :
    (ReplyData.coverage {
      bay := 4, owner := none, run := some 7, z := 11, zn := 3
      entries := [{ zone .written with pass := some 1, mismatch := 2, fails := 3 }] }).bytes =
      [4, 0xFF, 1, 11, 7, 0, 0, 0, 3, 0, 1, 0, 2, 1, 2, 3] := by decide +kernel

theorem test_meets_reads_of_maps_and_certificates :
    Front (.readCoverage 15 1023 64) State.reset ∧ Front (.readCoverage 16 0 1) State.reset ∧
    Front (.readCoverage 0 1024 1) State.reset ∧ Front (.readCoverage 0 0 0) State.reset ∧
    Front (.readCoverage 0 0 65) State.reset ∧ ((busy .ready .running).map 0).entries.length = 3 ∧
    (∀ n ∈ [0, 1, 2], Front (.readCertificate n 7) { State.reset with store := [certificate 7] }) ∧
    State.reset.store = [] ∧ ({ State.reset with store := [certificate 7] }).store ≠ [] := by decide +kernel
theorem test_read_coverage_past_the_map :
    (after (.readCoverage 0 2 64) (queue (.readCoverage 0 2 64) (busy .ready .running))).sent matches
      [.reply 5 0x22 .accepted (.coverage { zn := 3, entries := [{ state := .excluded, .. }], .. })] := by
  decide +kernel

/-- DISCARD: no such record, nothing that waits fits, and a waiting record that takes the place. -/
theorem test_meets_discard :
    let s : State := { busy .ready .finishing with
      store := [certificate 3, certificate 7], building := [{ slot := 0, record := some (certificate 5) }] }
    let t := after (.discardCertificate 3) (queue (.discardCertificate 3) s)
    (∀ r ∈ s.store, r.run ≠ 4) ∧ Front (.discardCertificate 4) s ∧ Front (.discardCertificate 3) s ∧
    (∃ r ∈ s.store, r.run = 3) ∧ (s.store.filter fun r => decide (r.run ≠ 3)).length < 32 ∧
    { slot := 0, record := some (certificate 5) } ∈ s.building ∧ (∀ q ∈ s.store, q.run ≠ 5) ∧
    t.store.map CertificateRecord.run = [5, 7] ∧ (t.job 0).state = .closed ∧
    (after (.discardCertificate 3) (queue (.discardCertificate 3) { s with building := [] })).store =
      [certificate 7] := by decide +kernel

/-- The end of a build: nothing built, room in the store, a duplicate number, a full store. -/
theorem test_meets_build_complete :
    let s : State := { busy .ready .finishing with building := [{ slot := 0, record := none }] }
    let go (s : State) : State := after (.buildComplete 0) s
    { slot := 0, record := none } ∈ s.building ∧ (∀ p ∈ s.building, p.slot = 1 → p.record ≠ none) ∧
    ((go s).job 0).state = .closed ∧ (go s).attentionOf 0 = 0x080 ∧
    (go s).store.map CertificateRecord.passes = [[⟨.overwrite, 0, 0, 0, 0, none⟩]] ∧
    (go { s with store := [certificate 1] }).attentionOf 0 = 0x200 ∧
    (go { s with store := List.replicate 32 (certificate 2) }).attentionOf 0 = 0x200 ∧
    (go { s with store := List.replicate 31 (certificate 2) }).attentionOf 0 = 0x080 := by decide +kernel

theorem test_meets_attention :
    kindPresent (State.reset.attentionOf 0) .ready = false ∧
    kindPresent ((raise State.reset 0 .ready).attentionOf 0) .ready = true ∧
    Front (.clearAttention 15 0x3FF) State.reset ∧ Front (.clearAttention 15 0x400) State.reset ∧
    Front (.clearAttention 16 0) State.reset := by decide +kernel
theorem test_clear_attention_replies_with_the_set :
    let s := raise (raise (rack .ready) 0 .ready) 0 .inserted
    (after (.clearAttention 0 4) (queue (.clearAttention 0 4) s)).sent.getLast? =
      some (.reply 5 0x30 .accepted (.attention 1)) := by decide +kernel

theorem test_meets_indicators :
    Front (.setIndicator 15 6) State.reset ∧ Front (.setIndicator 16 0) State.reset ∧
    Front (.setIndicator 0 7) State.reset ∧ autoPattern (busy .ready .halted) 0 = .double ∧
    autoPattern (busy .ready .waitingTrigger) 0 = .wink ∧ autoPattern (rack .faulted) 0 = .double ∧
    autoPattern (rack .ready) 0 = .on ∧ autoPattern (busy .ready .closed) 0 = .wink := by decide +kernel
theorem test_set_indicator_and_phase :
    let t := after (.setIndicator 0 5) (queue (.setIndicator 0 5) (rack .ready))
    (t.port 0).shown = .double ∧ (t.port 0).phase = 0 ∧
    ((after (.indicatorPhase 0) (after (.indicatorPhase 0) (after (.indicatorPhase 0)
      (after (.indicatorPhase 0) t)))).port 0).phase = 0 ∧
    ((after (.indicatorPhase 0) t).port 0).phase = 1 := by decide +kernel

/-! ### Bays and requests -/

/-- Each cause where it is taken and where it is not. -/
theorem test_meets_selective_resets :
    let r := record .entry .aborting (some 8)
    findRecord (holding r (rack .ready)) 0 4 = some r ∧ r.status = .aborting ∧
    findRecord (rack .ready) 0 4 = none ∧ Front (.resetBay 15) State.reset ∧ Front (.resetBay 16) State.reset ∧
    ((after (.t2Expiry 0 4) (holding r (rack .ready))).port 0).lastReset = some .t2Expiry ∧
    ((after (.deviceFaultIndication 0) (rack .identifying)).port 0).state = .resetting ∧
    ((after (.deviceFaultIndication 0) (rack .faulted)).port 0).state = .faulted ∧
    (after (.resetBay 0) (queue (.resetBay 0) (rack .seating))).sent = [.reply 5 0x34 .absent .nothing] ∧
    ((after (.resetBay 0) (queue (.resetBay 0) (rack .faulted))).port 0).resetTimer = some 500 := by decide +kernel
theorem test_reset_halts_a_run :
    let t := after (.deviceFaultIndication 0) ((busy .ready .running).putList 0 [entry .issued])
    (t.job 0).state = .halted ∧ (t.job 0).haltReason = some .driveFault ∧ t.list 0 = [] ∧
    kindPresent (t.attentionOf 0) .jobHalted = true := by decide +kernel
/-- A reset during the scan leaves the map cleared; another bay's held read stays, and this bay's is answered. -/
theorem test_reset_during_a_scan :
    let other : PassCommand := { command with tag := 10, bay := 1, arrival := 1, holdTime := some 1 }
    let s : State := { (busy .ready (.preparing (.scanning 1 512))) with
      hold := [{ command with holdTime := some 0 }, other] }
    let t := after (.deviceFaultIndication 0) s
    activeJob s 0 = some 0 ∧ (∀ d ∈ s.hold, d.tag = other.tag → d = other) ∧ t.map 0 = CoverageMap.cleared ∧
    t.hold = [other] ∧ t.sent = [.response 0 9 0x35 .bayReset false] ∧ (t.job 0).state = .waitingBay := by
  decide +kernel

/-- The attempts left and spent. -/
theorem test_meets_reset_timer :
    let s (n : Nat) : State :=
      (rack .resetting).putPort 0 { port .resetting with resetTimer := some 500, attempts := n }
    ((after (.resetTimerExpiry 0) (s 2)).port 0).attempts = 3 ∧
    ((after (.resetTimerExpiry 0) (s 3)).port 0).fault = some .noResponse ∧
    ((after (.resetTimerExpiry 0) (rack .ready)).port 0).state = .ready := by decide +kernel

theorem test_meets_insertion :
    let s := State.reset
    let t := after (.presenceAsserted 0) s
    (s.port 0).presence = false ∧ (t.port 0).state = .seating ∧ (t.port 0).debounce = some 64 ∧
    ((after (.debounceExpiry 0) t).port 0).state = .identifying ∧
    (after (.debounceExpiry 0) t).attentionOf 0 = 1 ∧ ((rack .ready).port 0).presence = true := by decide +kernel
/-- A debounce time of 0: an insertion is identified at once, and a removal is taken at once. -/
theorem test_presence_without_debounce :
    let u : State := { State.reset with tables := { Tables.cold with debounceTime := 0 } }
    let v := busy .ready .running
    let w : State := { v with tables := { v.tables with debounceTime := 0 } }
    (u.port 0).state = .empty ∧ ((after (.presenceAsserted 0) u).port 0).state = .identifying ∧
    (after (.presenceAsserted 0) u).attentionOf 0 = 1 ∧ (w.port 0).presence = true ∧
    ((after (.presenceDropped 0) w).port 0).state = .empty ∧
    ((after (.presenceDropped 0) w).job 0).haltReason = some .removed := by decide +kernel

theorem test_meets_removal :
    let t := after (.presenceDropped 0) (busy .ready .running)
    let u := after (.debounceExpiry 0) t
    (t.port 0).debounce = some 64 ∧ (t.port 0).state = .ready ∧ (t.port 0).presence = false ∧
    (u.port 0).state = .empty ∧ (u.job 0).haltReason = some .removed ∧
    ((after (.presenceDropped 0) (rack .seating)).port 0).state = .empty ∧
    ((after (.presenceAsserted 0) t).port 0).debounce = none ∧ (State.reset.port 0).debounce = none := by decide +kernel

theorem test_meets_t1_expiry :
    let r := record (.command command false) .issued (some 7)
    let s := holding r (rack .ready)
    findRecord s 0 4 = some r ∧ r.status = .issued ∧ findRecord (rack .ready) 0 4 = none ∧
    (after (.t1Expiry 0 4) s).toDrive = [.abort 0 4] := by decide +kernel

/-- A command that ends, with no job of its bay in preparation and with one that waited for it. -/
theorem test_meets_passthrough_completion :
    let r (x : RecordStatus) := record (.command command false) x (some 7)
    let s := holding (r .issued) (rack .ready)
    let u := holding (r .aborting) (busy .ready (.preparing .draining))
    findRecord s 0 4 = some (r .issued) ∧ activeJob s 0 = none ∧ activeJob u 0 = some 0 ∧
    (u.port 0).identity = some drive ∧ (r .aborting).status = .aborting ∧
    ¬ WriteOutstanding { u.port 0 with queue := (u.port 0).queue.filter fun q => decide (q.id ≠ 4) } ∧
    (after (.requestCompletion 0 4 .aborted drive) s).sent = [.response 0 9 0x35 .aborted false] ∧
    (after (.abortConfirmation 0 4) u).sent = [.response 0 9 0x35 .driveTimeout false] ∧
    ((after (.abortConfirmation 0 4) u).job 0).state = .preparing (.scanning 0 0) := by decide +kernel

/-- A drive that is usable, one that is not, a failed attempt, a waiting job and a halted one of another drive. -/
theorem test_meets_identify :
    let s := holding (record .port .issued none) (rack .identifying)
    let u := holding (record .port .aborting none) (busy .identifying .waitingBay)
    let v := holding (record .port .issued none) (busy .identifying .halted)
    findRecord s 0 4 = some (record .port .issued none) ∧ activeJob u 0 = some 0 ∧ activeJob v 0 = some 0 ∧
    ((after (.requestCompletion 0 4 .good drive) s).port 0).state = .ready ∧
    ((after (.requestCompletion 0 4 .good { drive with sectorSize := 520 }) s).port 0).fault = some .format ∧
    ((after (.requestCompletion 0 4 .mediaError drive) s).port 0).attempts = 1 ∧
    ((after (.requestCompletion 0 4 .good drive) u).job 0).state = .preparing (.scanning 0 0) ∧
    kindPresent ((after (.requestCompletion 0 4 .good { drive with capacity := 1 }) v).attentionOf 0) .foreignDrive =
      true := by decide +kernel

/-- Data for a COMPARE slot, a GENERATE slot, a command, and no record. -/
theorem test_meets_drive_data :
    let s (r : Record) (x : Slot) : State := (holding r (rack .ready)).putSlot 8 x
    let stripe (m : SlotMode) : Slot := loadedSlot 0 4 m (.byte 0x5A) { first := 0, length := 1 } 512
    let c := s (record (.command command false) .issued (some 8)) { Slot.empty with staged := [1, 2, 3] }
    findRecord (rack .ready) 0 4 = none ∧
    findRecord (s (record .entry .issued (some 8)) (stripe .compare)) 0 4 = some (record .entry .issued (some 8)) ∧
    ((s (record .entry .issued (some 8)) (stripe .compare)).slot 8).mode = .compare ∧
    ((after (.driveDataIn 0 4 [0x5A, 0x5A, 0x5B, 0x5A]) (s (record .entry .issued (some 8)) (stripe .compare))).slot
      8).differing = true ∧
    (after (.driveDataOut 0 4 2) (s (record .entry .issued (some 8)) (stripe .generate))).toDrive =
      [.data 0 4 [0x5A, 0x5A]] ∧
    (after (.driveDataIn 0 4 [7]) c).sent = [.data 0 9 [7]] ∧
    (after (.driveDataOut 0 4 2) c).toDrive = [.data 0 4 [1, 2]] := by decide +kernel

/-- An engine completion behind a head that stands, and one that makes its own entry await reissue. -/
theorem test_meets_engine_completion :
    let s := (holding (record .entry .issued (some 8)) (busy .ready .running)).putList 0
      [{ entry .issued with request := 3 }, entry .issued]
    let u := (holding (record .entry .aborting (some 8)) (busy .ready .running)).putList 0 [entry .aborting]
    findRecord s 0 4 = some (record .entry .issued (some 8)) ∧
    ((after (.requestCompletion 0 4 .good drive) s).list 0).map Entry.status = [.issued, .doneGood] ∧
    ((after (.abortConfirmation 0 4) u).list 0).map Entry.status = [.doneError] ∧
    (s.context 0).map WalkContext.retryLimit = some 1 := by decide +kernel

/-- The head's completion retires the head and the entry that stood complete behind it, and no further. -/
theorem test_chain_of_retirements :
    let s := (holding (record .entry .issued (some 8)) (busy .ready .running)).putList 0
      [entry .issued, { entry .doneGood with request := 3 }, { entry .issued with request := 2 }]
    let t := after (.requestCompletion 0 4 .good drive) s
    activeJob s 0 = some 0 ∧ s.context 0 = some walking ∧ (s.map 0).owner = some 0 ∧ (s.job 0).state = .running ∧
    (s.job 0).badZones = ((s.map 0).entries.filter fun z => z.state.bad).length ∧ (s.zone 0 0).fails ≤ 255 ∧
    (t.list 0).map Entry.request = [2] ∧ (t.zone 0 0).done = 2 ∧ (t.job 0).state = .running := by decide +kernel
/-- Two entries that retire in one step and empty the list: the unit of a GOOD pair ends with its pass, and of a pair
that fails the first sends the job toward REJECTED and the second ends the run. -/
theorem test_chain_that_empties_the_list :
    let s (y : JobState) (x : EntryStatus) : State :=
      let u := (holding (record .entry .issued (some 8)) (busy .ready y)).putList 0
        [{ entry .issued with zone := some 1, attempt := 2 }, { entry x with request := 3, attempt := 2 }]
      (u.putJob 0 { job y with unitActive := true }).putContext 0
        (some { walking with cursor := { extent := 1, lba := 5000 } })
    let good := after (.requestCompletion 0 4 .good drive) (s .running .doneGood)
    let bad := after (.requestCompletion 0 4 .mediaError drive) (s (.draining .paused) .doneError)
    let gone : List Entry := [{ entry .doneError with zone := some 1, attempt := 2, slot := none },
      { entry .doneError with request := 3, attempt := 2 }]
    activeJob (s .running .doneGood) 0 = some 0 ∧ ((s .running .doneGood).program 0).length ≤ 8 ∧
    ((s .running .doneGood).job 0).passIndex < ((s .running .doneGood).job 0).passEnds.length ∧
    good.list 0 = [] ∧ (good.job 0).outcome = some .unverified ∧ (good.job 0).passEnds[0]? = some (some 0) ∧
    stateBeforeLast (s (.draining .paused) .doneError) 0 walking (job (.draining .paused)) gone =
      .draining (.finishing .rejected) ∧
    bad.list 0 = [] ∧ (bad.job 0).outcome = some .rejected ∧ (bad.job 0).badZones = 2 ∧
    (bad.zone 0 1).fails = 1 := by decide +kernel

/-- A head that retires GOOD, and one that fails with its attempts spent under tolerance 0. -/
theorem test_meets_retirement :
    let s (n : Nat) : State := (((holding (record .entry .issued (some 8)) (busy .ready .running)).putList 0
      [{ entry .issued with attempt := n, zone := some 1 }]).putJob 0 { job .running with unitActive := true })
    findRecord (s 1) 0 4 = some (record .entry .issued (some 8)) ∧ activeJob (s 1) 0 = some 0 ∧
    (s 1).context 0 = some walking ∧ 1 < ((s 1).map 0).entries.length ∧ ((s 1).map 0).owner = some 0 ∧
    ((s 1).job 0).state = .running ∧
    ((s 1).job 0).badZones = (((s 1).map 0).entries.filter fun z => z.state.bad).length ∧ walking.retryLimit < 2 ∧
    ((after (.requestCompletion 0 4 .good drive) (s 1)).zone 0 1).done = 1 ∧
    ((after (.requestCompletion 0 4 .mediaError drive) (s 2)).zone 0 1).state = .failed ∧
    ((after (.requestCompletion 0 4 .mediaError drive) (s 2)).job 0).outcome = some .rejected := by decide +kernel
theorem test_retirement_with_another_stripe_in_flight :
    let s := (holding (record .entry .issued (some 8)) (busy .ready .running)).putList 0
      [{ entry .issued with attempt := 2 }, { entry .issued with request := 3, stripe := { first := 512, length := 512 } }]
    let t := after (.requestCompletion 0 4 .mediaError drive) s
    ((s.list 0).tail.head?.map Entry.status) = some .issued ∧ (∀ q ∈ (s.list 0).tail, q.request ≠ 4) ∧
    (t.job 0).state = .draining (.finishing .rejected) ∧ (t.job 0).badZones = 1 := by decide +kernel

/-- Job 0 with one last stripe in flight, its walk at a position and its unit at its end. -/
def ending (x : JobState) (latch : Bool) (at_ : Position) (programme : List PassImage) : State :=
  let s := (holding (record .entry .issued (some 8)) (busy .ready x)).putList 0 [{ entry .issued with zone := some 1 }]
  let s := s.putJob 0 { job x with unitActive := true, latch := latch, tolerance := 1 }
  { s.putContext 0 (some { walking with grain := .stripe, cursor := at_, unitEnd := some at_ }) with
    clock := 9, tables := { s.tables with programs := put s.tables.programs 0 (some programme) } }

/-- The unit's last stripe: with work left in the pass and a trigger or none, and at the end of a pass that is the last,
is followed by another, or waits. -/
theorem test_meets_unit_and_pass_ends :
    let go (s : State) : State := after (.requestCompletion 0 4 .good drive) s
    let mid : Position := { extent := 0, lba := 512 }
    let done : Position := { extent := 1, lba := 5000 }
    let s (y : Bool) (p : Position) (n : Nat) : State :=
      ending .running y p (List.replicate n { pass 0 0 0 with chain := 1 })
    let w : WalkContext := { walking with grain := .stripe, cursor := mid, unitEnd := some mid }
    ((s false mid 1).context 0 = some w ∧ unitLeft (s false mid 1) ((s false mid 1).job 0) w = false ∧
      nextStripe (s false mid 1) ((s false mid 1).job 0) w ≠ none) ∧
    ((go (s false mid 1)).job 0).state = .waitingTrigger ∧ ((go (s true mid 1)).job 0).unitActive = true ∧
    (go (s true mid 1)).context 0 = some { w with unitEnd := some { extent := 0, lba := 1024 } } ∧
    (((go (s false done 1)).job 0).outcome = some .unverified ∧
      ((go (s false done 1)).job 0).passEnds[0]? = some (some 9) ∧
      kindPresent ((go (s false done 1)).attentionOf 0) .passDone = true) ∧
    ((go (s false done 2)).job 0).passComplete = true ∧ ((go (s true done 2)).job 0).passIndex = 1 := by decide +kernel
/-- A drain whose last stripe retires enters its target and keeps the latch. -/
theorem test_meets_drain_ends :
    let go (q : DrainTarget) : Job := (after (.requestCompletion 0 4 .good drive)
      (ending (.draining q) true { extent := 0, lba := 512 } [pass 0 0 0])).job 0
    (go .paused).state = .paused ∧ (go .paused).latch = true ∧ (go .paused).unitActive = false ∧
    (go (.halted .nativeEraseFailed)).haltReason = some .nativeEraseFailed ∧
    (go (.finishing .cancelled)).outcome = some .cancelled := by decide +kernel
/-- The confirmation of the abort of a head with its attempts spent empties the list: the unit ends, the pass ends, or
the drain. -/
theorem test_abort_confirmation_ends_a_unit :
    let r := record .entry .aborting (some 8)
    let s (y : JobState) (p : Position) : State := (holding r (ending y false p [pass 0 0 0])).putList 0
      [{ entry .aborting with zone := some 1, attempt := 2 }]
    let go (y : JobState) (p : Position) : State := after (.abortConfirmation 0 4) (s y p)
    let mid : Position := { extent := 0, lba := 512 }
    findRecord (s .running mid) 0 4 = some r ∧ r.status = .aborting ∧ walking.retryLimit < 2 ∧
    (go .running mid).list 0 = [] ∧ ((go .running mid).zone 0 1).state = .failed ∧
    ((go .running mid).job 0).state = .waitingTrigger ∧
    ((go .running { extent := 1, lba := 5000 }).job 0).outcome = some .rejected ∧
    ((go (.draining .paused) mid).job 0).state = .paused := by decide +kernel

/-- A native erase at the start of its unit, at a retry, GOOD, and failed with its retries spent. -/
theorem test_meets_native_erase :
    let w : WalkContext := { walking with kind := .nativeErase }
    let s := ((busy .ready .running).putContext 0 (some w)).putJob 0 { job .running with unitActive := true }
    let e (n : Nat) (x : EntryStatus) : Entry :=
      { entry x with kind := .nativeErase, zone := none, slot := none, attempt := n }
    let u (n : Nat) : State := (holding (record .entry .issued none) s).putList 0 [e n .issued]
    activeJob s 0 = some 0 ∧ s.context 0 = some w ∧ stalled s 0 = false ∧ s.list 0 = [] ∧
    w.unitEnd = some (passEnd s (s.job 0) w) ∧ w.cursor ≠ passEnd s (s.job 0) w ∧
    ((after (.nativeEraseIssue 0) s).list 0).length = 1 ∧
    ((after (.nativeEraseIssue 0) (s.putList 0 [e 1 .doneError])).list 0).map Entry.attempt = [2] ∧
    findRecord (u 1) 0 4 = some (record .entry .issued none) ∧ (u 1).list 0 = [e 1 .issued] ∧
    ((after (.requestCompletion 0 4 .good drive) (u 1)).zone 0 0).state = .written ∧
    ((after (.requestCompletion 0 4 .good drive) (u 1)).zone 0 2).state = .excluded ∧
    ((after (.requestCompletion 0 4 .mediaError drive) (u 2)).job 0).haltReason = some .nativeEraseFailed := by
  decide +kernel
/-- A native erase fails through the confirmation of its abort, and in a drain toward PAUSED or FINISHING. -/
theorem test_native_erase_failure_in_a_drain :
    let r := record .entry .aborting none
    let w : WalkContext := { walking with kind := .nativeErase }
    let s (y : JobState) : State := ((holding r (busy .ready y)).putContext 0 (some w)).putList 0
      [{ entry .aborting with kind := .nativeErase, zone := none, slot := none, attempt := 2 }]
    let go (y : JobState) : Job := (after (.abortConfirmation 0 4) (s y)).job 0
    findRecord (s .running) 0 4 = some r ∧ (go .running).haltReason = some .nativeEraseFailed ∧
    (go (.draining .paused)).state = .halted ∧ (go (.draining (.finishing .cancelled))).state = .finishing ∧
    ((after (.requestCompletion 0 4 .deviceError drive) (s (.draining .paused))).job 0).state = .halted := by
  decide +kernel

/-! ### Preparation and grants -/

/-- A job of bay 0 whose scan is about to take a word, over a list of three words. -/
def scanning (next previousEnd : Nat) (words : List (Nat × ExtentWord)) : State :=
  let s := (busy .ready .running).putJob 0
    { job (.preparing (.scanning next previousEnd)) with extentCount := 3 }
  { s.putMap 0 { owner := some 0, run := none, z := 11, zn := 3, entries := List.replicate 3 ZoneEntry.cleared } with
    tables := { s.tables with extents := words } }

/-- Each check at its boundary: LENGTH, BEYOND, ALIGN, ORDER, a word that passes, and the last word. -/
theorem test_meets_scan :
    let error (s : State) : Option StartError := ((after (.extentScanWord 0) s).job 0).startError
    activeJob (scanning 0 0 []) 0 = some 0 ∧ ((scanning 0 0 []).job 0).geometry = some { sEff := 512, z := 11, zn := 3 } ∧
    error (scanning 0 0 []) = some (.extentCheck 0 .length) ∧
    error (scanning 0 0 [(0, ⟨5000, 1⟩)]) = some (.extentCheck 0 .beyond) ∧
    error (scanning 1 600 [(1, ⟨1000, 1⟩)]) = some (.extentCheck 1 .align) ∧
    error (scanning 1 600 [(1, ⟨512, 1⟩)]) = some (.extentCheck 1 .order) ∧
    ((after (.extentScanWord 0) (scanning 0 0 [(0, ⟨1000, 4000⟩)])).job 0).state =
      .preparing (.scanning 1 5000) ∧
    ((after (.extentScanWord 0) (scanning 2 4096 [(2, ⟨4096, 4000⟩)])).job 0).state = .running ∧
    (((after (.extentScanWord 0) (scanning 2 4096 [(2, ⟨4096, 4000⟩)])).map 0).entries.map ZoneEntry.state) =
      [.excluded, .excluded, .untouched] := by decide +kernel

/-- The end of the scan of a whole drive: the run is numbered, and its first pass begins. -/
theorem test_meets_scan_ends :
    let s := (scanning 0 0 []).putJob 0 { job (.preparing (.scanning 0 0)) with extentCount := 0 }
    let t := after (.extentScanWord 0) s
    activeJob s 0 = some 0 ∧ (s.job 0).extentCount = 0 ∧ s.program 0 = [pass 0 0 0] ∧
    kindOfPass (pass 0 0 0) = .overwrite ∧ directionOfPass (pass 0 0 0) = .ascending ∧ jobCapacity (s.job 0) = 5000 ∧
    t.runCounter = 1 ∧ (t.job 0).state = .running ∧ (t.job 0).run = some 1 ∧
    ((t.map 0).entries.map ZoneEntry.due) = [4, 4, 2] := by decide +kernel

/-- The end of the scan of a list, behind words that have passed their checks, for a descending overwrite: the run
begins at the end of the last word. A word behind the scan that starts at the drive's end has not passed its checks. -/
theorem test_meets_scan_of_a_list :
    let words : List (Nat × ExtentWord) := [(0, ⟨0, 512⟩), (1, ⟨1024, 3072⟩), (2, ⟨4096, 4000⟩)]
    let s : State :=
      let u := scanning 2 4096 words
      let programs := put u.tables.programs 0 (some [{ pass 0 0 0 with direction := 1 }])
      { u with tables := { u.tables with programs := programs } }
    let t := after (.extentScanWord 0) s
    ScansChecked s ∧ scanChecked s (s.job 0) = true ∧ scanChecked s (job (.preparing (.scanning 2 4095))) = true ∧
    scanChecked (scanning 1 0 [(0, ⟨5000, 1⟩)]) ((scanning 1 0 [(0, ⟨5000, 1⟩)]).job 0) = false ∧
    scanChecked (scanning 2 4095 words) ((scanning 2 4095 words).job 0) = false ∧
    ScansChecked (after (.extentScanWord 0) (scanning 1 512 words)) ∧
    (t.job 0).state = .running ∧ (t.job 0).unitActive = true ∧ (t.context 0).map WalkContext.cursor =
      some { extent := 2, lba := 5000 } := by decide +kernel

/-- The first unit of a descending overwrite by the zone, and of a native erase. -/
theorem test_scan_ends_in_either_kind :
    let go (p : PassImage) : State :=
      let s := (scanning 0 0 []).putJob 0 { job (.preparing (.scanning 0 0)) with extentCount := 0 }
      after (.extentScanWord 0) { s with tables := { s.tables with programs := put s.tables.programs 0 (some [p]) } }
    ((go { pass 0 0 0 with direction := 1, grain := 1 }).context 0).map
      (fun w => (w.cursor.lba, w.unitEnd.map Position.lba)) = some (5000, some 4096) ∧
    ((go (pass 2 0 0)).context 0).map (fun w => (w.kind, w.cursor.lba, w.unitEnd.map Position.lba)) =
      some (.nativeErase, 0, some 5000) := by decide +kernel

/-- A bay with a stripe to issue, and one with an entry to issue again. -/
def granting : State := (busy .ready .running).putJob 0 { job .running with unitActive := true }

theorem test_meets_eligible :
    activeJob granting 0 = some 0 ∧ granting.context 0 = some walking ∧ eligible granting 0 = true ∧
    eligible (granting.putList 0 [entry .issued, entry .issued]) 0 = false ∧
    eligible (granting.putList 0 [entry .doneError, entry .issued]) 0 = true ∧
    eligible (holding (record .entry .aborting (some 8)) granting) 0 = false := by decide +kernel

theorem test_meets_engine_grant :
    (∀ b, eligible (rack .ready) b = false) ∧ (granting.slot 8).owner = .free ∧
    (∀ l : SlotId, 8 ≤ l.val → l < 8 → (granting.slot l).owner ≠ .free) ∧
    grantWork granting 0 = some (0, walking, .stripe { first := 0, length := 512 } { extent := 0, lba := 512 }) ∧
    grantWork (granting.putList 0 [entry .issued, entry .doneError, { entry .doneError with request := 5 }]) 0 =
      some (0, walking, .reissue (entry .doneError)) ∧
    (∀ c : BayId, (c - granting.grantPointer - 1).val < ((0 : BayId) - granting.grantPointer - 1).val →
      eligible granting c = false) ∧
    ((after .engineGrant granting).list 0).map Entry.stripe = [{ first := 0, length := 512 }] ∧
    ((after .engineGrant granting).zone 0 0).state = .writing := by decide +kernel
/-- The cursor after a grant: beyond the stripe while the unit has a stripe left, else the unit end. -/
theorem test_engine_grant_moves_the_cursor :
    let go (u : Position) : Option Position :=
      ((after .engineGrant (granting.putContext 0 (some { walking with unitEnd := some u }))).context 0).map
        WalkContext.cursor
    go { extent := 0, lba := 1024 } = some { extent := 0, lba := 512 } ∧
    go { extent := 0, lba := 512 } = some { extent := 0, lba := 512 } ∧
    go { extent := 0, lba := 400 } = some { extent := 0, lba := 400 } := by decide +kernel

/-- A waiting command that is issued, one that is substituted, one refused and one held at its grant check. -/
theorem test_meets_passthrough_grant :
    let waiting (s : State) : State := { s with wait := [command] }
    let s := waiting (rack .ready)
    let held : State := waiting (acting .fence ((busy .ready .running).putMap 0
      { owner := some 0, run := some 1, z := 11, zn := 3, entries := List.replicate 3 (zone .writing) }))
    (s.slot 0).owner = .free ∧ s.wait = [] ++ command :: [] ∧ judge s command = .wait ∧
    (∀ l : SlotId, l < 0 → (s.slot l).owner ≠ .free) ∧ (rack .ready).wait = [] ∧
    judge (waiting (acting .refuse (rack .ready))) command = .answered .policy ∧ judge held command = .hold ∧
    command.holdPast = false ∧ held.hold.length < 16 ∧
    (after .passthroughGrant s).toDrive = [.request 0 0 (.passthrough 0x35 8 1 1)] ∧
    (after .passthroughGrant s).sent = [.data 0 9 []] ∧
    (after .passthroughGrant (waiting (acting (.substitute .flush) (rack .ready)))).toDrive =
      [.request 0 0 (.passthrough 0 0 0 0)] ∧
    (after .passthroughGrant (waiting (acting .refuse (rack .ready)))).sent =
      [.response 0 9 0x35 .policy false] ∧
    (after .passthroughGrant held).hold.length = 1 := by decide +kernel

/-- A read held at its grant check is answered HOLD_EXPIRED with its hold time past, and BUSY with the queue full. -/
theorem test_passthrough_grant_cannot_hold :
    let s (c : PassCommand) (n : Nat) : State :=
      { acting .fence ((busy .ready .running).putMap 0
          { owner := some 0, run := some 1, z := 11, zn := 3, entries := List.replicate 3 (zone .writing) }) with
        wait := [c], hold := List.replicate n { command with tag := 3 } }
    judge (s { command with holdPast := true } 0) { command with holdPast := true } = .hold ∧
    (after .passthroughGrant (s { command with holdPast := true } 0)).sent = [.response 0 9 0x35 .holdExpired false] ∧
    (after .passthroughGrant (s command 16)).sent = [.response 0 9 0x35 .busy false] ∧
    (after .passthroughGrant (s command 15)).hold.length = 16 := by decide +kernel

/-- A command refused at its grant check gives the slot to the next ready command. -/
theorem test_passthrough_grant_goes_on :
    let next : PassCommand := { command with tag := 10, opcode := 0xE7, payload := 0 }
    let u : State := { rack .ready with
      wait := [next], tables := { (rack .ready).tables with classMap := Vector.replicate 256 .read } }
    let s : State := { u with wait := [{ command with lba := 5000 }, next] }
    (∀ d ∈ [next], d.tag ≠ 9) ∧ judge s { command with lba := 5000 } = .answered .address ∧
    (after .passthroughGrant s).toDrive = (after .passthroughGrant u).toDrive ∧
    (after .passthroughGrant u).toDrive = [.request 0 0 (.passthrough 0xE7 8 1 0)] ∧
    (after .passthroughGrant s).sent = [.response 0 9 0x35 .address false] ∧ (after .passthroughGrant s).wait = [] := by
  decide +kernel

theorem test_meets_hold_time :
    let s : State := { rack .ready with hold := [{ command with holdTime := some 0 }] }
    let u : State := { rack .ready with wait := [{ command with holdTime := some 0 }] }
    (s.hold.find? fun c => decide (c.tag = 9)) = some { command with holdTime := some 0 } ∧
    (∀ c ∈ u.hold, c.tag ≠ 9) ∧
    (after (.holdExpiry 9) s).sent = [.response 0 9 0x35 .holdExpired false] ∧ (after (.holdExpiry 9) s).hold = [] ∧
    (after (.holdExpiry 9) u).wait.map PassCommand.holdPast = [true] := by decide +kernel
/-- A held read of bay 0 is judged again: it stays over a zone still WRITING, waits once the zone is WRITTEN, is
answered EXPOSED where it FAILED, and leaves with the bay. -/
theorem test_held_reads_are_judged_again :
    let s (z : ZoneState) (x : BayState) : State := { acting .fence ((busy x .running).putMap 0
      { owner := some 0, run := some 1, z := 11, zn := 3, entries := List.replicate 3 (zone z) }) with
      hold := [{ command with key := 3, holdTime := some 0 }] }
    let go (z : ZoneState) (x : BayState) : State := reevaluate (s z x) 0
    (∀ c ∈ (s .writing .ready).hold, c.bay = 0 ∧ ∀ d ∈ (s .writing .ready).hold, d.tag = c.tag → d = c) ∧
    (go .writing .ready).hold.length = 1 ∧ ((go .written .ready).hold = [] ∧ (go .written .ready).wait.length = 1) ∧
    (go .failed .ready).sent = [.response 0 9 0x35 .exposed false] ∧
    (go .writing .resetting).sent = [.response 0 9 0x35 .bayReset false] := by decide +kernel

/-! ### Geometry, walks and patterns -/

theorem test_meets_geometry :
    (1 ≤ 65535 ∧ 65535 ≤ 65535 ∧ 1 ≤ 2 ^ 48 - 1 ∧ 2 ^ 48 - 1 < 2 ^ 48) ∧
    geometryOf 65535 (2 ^ 48 - 1) 512 = { sEff := 512, z := 38, zn := 1024 } ∧
    geometryOf 1 1 4096 = { sEff := 8, z := 11, zn := 1 } := by decide +kernel

/-- Two extents that touch, the second cut short by the capacity. -/
def extents : List Extent := [{ start := 3, stop := 16 }, { start := 16, stop := 21 }]

theorem test_meets_walks :
    0 < 8 ∧ extents ≠ [] ∧ (∀ x ∈ extents, x.start < x.stop ∧ x.stop ≤ 21) ∧
    extents.Pairwise (fun x y => x.stop ≤ y.start) ∧ totalStripes extents 8 = 3 ∧
    walkFrom .descending extents 8 4 (startPosition .descending extents 21) =
      [{ first := 16, length := 5 }, { first := 8, length := 8 }, { first := 3, length := 5 }] := by decide +kernel

/-- A sector of 8 bytes generated in two pieces; of two sectors returned, the second differs and is cut short. -/
theorem test_generator_and_comparator :
    let t : Stripe := { first := 0, length := 2 }
    let x := loadedSlot 0 4 .generate (.location 0) t 8
    let y := loadedSlot 0 4 .compare (.location 0) t 8
    (generateBytes 8 x).1 = [0, 0, 0, 0, 1, 1, 0, 0] ∧ (generateBytes 3 (generateBytes 8 x).2).1 = [0x37, 0x9E, 0] ∧
    finalMismatches (compareBytes y [0, 0, 0, 0, 1, 1, 0, 0, 0x37, 0x9E, 0]) = 1 ∧
    finalMismatches (compareBytes y [0, 0, 0, 0, 1, 1, 0, 1]) = 2 := by decide +kernel

/-- Commands that change nothing: a malformed frame, an abort refused, a data frame while the link is DOWN. -/
theorem test_commands_without_effect :
    after (.invalidFrame [1, 2]) (rack .ready) = rack .ready ∧ after (.abortRefusal 0 4) (rack .ready) = rack .ready ∧
    after (.dataFrame payloadFrame) State.reset = State.reset := by decide +kernel

theorem test_link_and_cold_resets :
    let s := queue .resetBridge (rack .ready)
    (after .upstreamLinkReset s).management = [] ∧ (after .upstreamLinkReset s).tagInUse 5 = false ∧
    (after .upstreamLinkReset s).link = .down ∧ ((after .coldReset s).port 0).state = .seating ∧
    (after .coldReset s).tables = Tables.cold := by decide +kernel

end Sys2Proof.Tests
end

section
/-! What every step keeps of the job table: at most one active job per bay (R5), and every scan behind words that have
passed their checks (R59). `JobsKept` says so of one change of state; every command is brought under it once. -/

namespace Sys2Proof.Proofs

open Sys2Proof Sys2Proof.Machine Sys2Proof.Safety

/-! ### The relation -/

/-- The two invariants of the job table go from `s` over to `t`. -/
structure JobsKept (s t : State) : Prop where
  one : OneActiveJob s → OneActiveJob t
  scans : ScansChecked s → ScansChecked t

theorem JobsKept.trans {s t u : State} (h : JobsKept s t) (k : JobsKept t u) : JobsKept s u :=
  ⟨fun x => k.one (h.one x), fun x => k.scans (h.scans x)⟩

theorem JobsKept.of_inner {s t : State} (h : Inner s t) : JobsKept s t := ⟨h.oneActiveJob, h.scans⟩

/-- What the scan has read of a job's list rests on extent memory alone. -/
theorem scanChecked_congr {s t : State} (h : t.tables.extents = s.tables.extents) (x : Job) :
    scanChecked t x = scanChecked s x := by
  unfold scanChecked; rw [h]

/-- A change that leaves the job table and extent memory alone keeps both invariants. -/
theorem JobsKept.of_same {s t : State} (hj : t.jobs = s.jobs) (he : t.tables.extents = s.tables.extents) :
    JobsKept s t where
  one h := by unfold OneActiveJob State.job at *; rw [hj]; exact h
  scans h j := by rw [scanChecked_congr he]; unfold State.job; rw [hj]; exact h j

/-- With every job FREE both invariants hold, whatever stood before. -/
theorem JobsKept.of_all_free {s t : State} (h : t.jobs = Vector.replicate 24 Job.free) : JobsKept s t := by
  have hf : ∀ j, t.job j = Job.free := fun j => by unfold State.job; rw [h]; simp
  constructor
  · intro _ i j hi
    rw [hf] at hi
    cases hi
  · intro _ j
    rw [hf]
    rfl

/-- A job whose bay has no other active job may become active, where its scan is checked. -/
theorem JobsKept.of_putJob {s : State} {j : JobId} {x : Job}
    (h : ∀ k, k ≠ j → (s.job k).state.active = true → (s.job k).bay ≠ x.bay) (hs : scanChecked s x = true) :
    JobsKept s (s.putJob j x) where
  one ho k l hk hl hb := by
    rw [State.putJob_job] at hk hl hb
    rw [State.putJob_job] at hb
    by_cases ek : k = j <;> by_cases el : l = j
    · rw [ek, el]
    · rw [if_neg el] at hl
      rw [if_pos ek, if_neg el] at hb
      exact absurd hb.symm (h l el hl)
    · rw [if_neg ek] at hk
      rw [if_neg ek, if_pos el] at hb
      exact absurd hb (h k ek hk)
    · rw [if_neg ek] at hk
      rw [if_neg el] at hl
      rw [if_neg ek, if_neg el] at hb
      exact ho k l hk hl hb
  scans hc k := by
    rw [State.putJob_job]
    split
    · exact hs
    · exact hc k

/-! ### Management commands -/

/-- A management command keeps both invariants where its effect does, on the state without the command taken. -/
theorem JobsKept.of_takeManagement {i : Instr} {s : State} {effect : ManagementCommand → State → State}
    (h : ∀ c u, managementInstr c.code c.payload = i → JobsKept u (effect c u)) :
    JobsKept s (takeManagement i s effect) := by
  rcases takeManagement_cases i s effect with ⟨c, rest, _, hi, e⟩ | ⟨c, _, _, _, hi, e⟩ | e <;> rw [e]
  · exact JobsKept.trans (t := s.putManagement rest) (.of_same rfl rfl) (h c _ hi)
  · exact JobsKept.trans (t := s.putTaking none) (.of_same rfl rfl) (h c _ hi)
  · exact JobsKept.of_inner (Inner.refl s)

/-- A command on a job slot keeps both invariants where its effect on each slot does. -/
theorem JobsKept.of_onSlot {slot : Nat} {c : ManagementCommand} {s : State} {effect : JobId → State}
    (h : ∀ j, JobsKept s (effect j)) : JobsKept s (onSlot slot c s effect) := by
  unfold onSlot
  split
  · exact h _
  · exact .of_inner (inner_refuse ..)

/-- Tables other than extent memory are written and the command is replied to. -/
theorem JobsKept.of_putTables {s : State} {x : Tables} (he : x.extents = s.tables.extents) (c : ManagementCommand)
    (d : Disposition) (data : ReplyData) : JobsKept s (reply (s.putTables x) c d data) :=
  JobsKept.trans (t := s.putTables x) (.of_same rfl he) (.of_inner (inner_reply ..))

/-! ### Commands that make or start a job -/

/-- A loaded record is in no active state. -/
theorem checkJob_loaded {s : State} {image : JobImage} {x : Job} (h : checkJob s image = .ok x) :
    x.state = .loaded := by
  unfold checkJob at h
  repeat' split at h
  all_goals cases h
  rfl

theorem jobsKept_execLoadJob {image : JobImage} {s t : State} (h : execLoadJob image s = .next t) : JobsKept s t := by
  cases h
  refine .of_takeManagement fun c u _ => .of_onSlot fun j => .of_inner ?_
  split
  · split
    · next x hx =>
      refine (inner_accept u c).trans (inner_changeJob _ _ _ (fun h => ?_) fun _ => ?_)
      · rw [checkJob_loaded hx] at h; cases h
      · unfold scanChecked; rw [checkJob_loaded hx]
    · exact inner_refuse ..
  · exact inner_refuse ..

/-- Behind the write of the record a change of a job is inner work. -/
theorem inner_behind_putJob (s : State) (j : JobId) (x : Job) : Inner (s.putJob j x) (changeJob s j x) := by
  unfold changeJob
  dsimp only
  split <;> split
  · exact inner_disown ..
  · exact Inner.refl _
  · exact ((inner_disown ..).trans (inner_reevaluate ..)).trans (inner_refreshIndicator ..)
  · exact (inner_reevaluate ..).trans (inner_refreshIndicator ..)

/-- A job may enter an active state where no other job of its bay is in one, and where it does not begin a scan. -/
theorem JobsKept.of_setState {s : State} {j : JobId} {st : JobState}
    (h : ∀ k, k ≠ j → (s.job k).state.active = true → (s.job k).bay ≠ (s.job j).bay)
    (hs : scanChecked s { s.job j with state := st } = true) : JobsKept s (setState s j st) :=
  (JobsKept.of_putJob (x := { s.job j with state := st }) h hs).trans (.of_inner (inner_behind_putJob s j _))

theorem jobsKept_startJob {s : State} {j : JobId}
    (h : ∀ k, (s.job k).state.active = true → (s.job k).bay ≠ (s.job j).bay) :
    JobsKept s (startJob s j) := by
  have hm := JobsKept.of_inner (inner_modJob s j (fun x => { x with startError := none }) fun h => ⟨h, rfl⟩)
  have others : ∀ k, k ≠ j → ((s.modJob j fun x => { x with startError := none }).job k).state.active = true →
      ((s.modJob j fun x => { x with startError := none }).job k).bay ≠
        ((s.modJob j fun x => { x with startError := none }).job j).bay := by
    intro k hk
    rw [State.modJob_job, if_neg hk, State.modJob_job_same]
    exact h k
  unfold startJob
  dsimp only
  split
  · exact hm.trans ((JobsKept.of_setState others rfl).trans (.of_inner (inner_advancePreparation ..)))
  · exact hm.trans (.of_setState others rfl)

theorem jobsKept_execStart {slot : Nat} {s t : State} (h : execStart slot s = .next t) : JobsKept s t := by
  cases h
  refine .of_takeManagement fun c u _ => .of_onSlot fun j => ?_
  split
  · exact .of_inner (inner_refuse ..)
  · split
    · exact .of_inner (inner_reply ..)
    · next hb =>
      have idle : activeJob u (u.job j).bay = none := by simpa [bayActive] using hb
      refine (JobsKept.of_inner (inner_accept u c)).trans (jobsKept_startJob ?_)
      have hj : (accept u c).jobs = u.jobs := by unfold accept; rw [reply_eq]
      unfold State.job
      rw [hj]
      exact activeJob_none.mp idle

/-! ### Extent memory -/

theorem length_readExtents (n : Nat) : ∀ bs, (readExtents n bs).length = n := by
  induction n with
  | zero => exact fun _ => rfl
  | succ n ih => exact fun bs => by simp [readExtents, ih]

/-- LOAD EXTENTS carries as many words as it announces (R181). -/
theorem length_of_managementInstr_loadExtents {code : Byte} {p : List Byte} {first count : Nat}
    {words : List ExtentWord} (h : managementInstr code p = .loadExtents first count words) :
    words.length = count := by
  unfold managementInstr at h
  dsimp only at h
  split at h
  case h_7 =>
    split at h
    · cases h
    · cases h
      exact length_readExtents _ _
  all_goals first
    | (split at h <;> cases h)
    | cases h

theorem readExtent_writeExtent_other {n k : Nat} (hk : k ≠ n) (x : ExtentWord) :
    ∀ m, readExtent (writeExtent m n x) k = readExtent m k
  | [] => by
    unfold writeExtent
    split <;> simp [readExtent, Ne.symm hk]
  | (i, w) :: m => by
    have ih := readExtent_writeExtent_other hk x m
    unfold writeExtent
    split
    · split <;> simp [readExtent, Ne.symm hk]
    · split
      · next e =>
        subst e
        split <;> simp [readExtent, Ne.symm hk]
      · simp [readExtent, ih]

/-- A write of consecutive words leaves the words before and behind them as they are (R53). -/
theorem readExtent_writeExtents_outside {k : Nat} (xs : List ExtentWord) :
    ∀ (m : List (Nat × ExtentWord)) (n : Nat), k < n ∨ n + xs.length ≤ k →
      readExtent (writeExtents m n xs) k = readExtent m k := by
  induction xs with
  | nil => exact fun _ _ _ => rfl
  | cons x xs ih =>
    intro m n h
    simp only [List.length_cons] at h
    exact (ih _ _ (by omega)).trans (readExtent_writeExtent_other (by omega) x m)

/-- Where no word of an active job's list is written, what the scan has read of it stands (R54). -/
theorem scanChecked_of_words {s t : State} {x : Job}
    (h : ∀ k, k < x.extentCount →
      readExtent t.tables.extents (x.extentFirst + k) = readExtent s.tables.extents (x.extentFirst + k))
    (hs : scanChecked s x = true) : scanChecked t x = true := by
  unfold scanChecked at hs ⊢
  dsimp only at hs ⊢
  split
  · next next e hx =>
    rw [hx] at hs
    simp only [decide_eq_true_eq] at hs ⊢
    intro k hk hc
    have hp := h (k - 1) (by omega)
    rw [h k hc, hp]
    exact hs k hk hc
  · rfl

/-- A record in no active state has no scan in progress. -/
theorem scanChecked_of_inactive {s : State} {x : Job} (h : x.state.active = false) : scanChecked s x = true := by
  unfold scanChecked
  split
  · next hx => rw [hx] at h; cases h
  · rfl

/-- A word of an active job's list lies outside a range that no active job uses (R54). -/
theorem outside_of_not_inUse {s : State} {first count k : Nat} {j : JobId} (h : extentsInUse s first count = false)
    (ha : (s.job j).state.active = true) (hk : k < (s.job j).extentCount) :
    (s.job j).extentFirst + k < first ∨ first + count ≤ (s.job j).extentFirst + k := by
  simp only [extentsInUse, List.any_eq_false, Bool.and_eq_true, decide_eq_true_eq] at h
  by_contra hk'
  exact h j (mem_allJobs j) ⟨ha, by omega⟩

theorem jobsKept_execLoadExtents {first count : Nat} {words : List ExtentWord} {s t : State}
    (h : execLoadExtents first count words s = .next t) : JobsKept s t := by
  cases h
  refine .of_takeManagement fun c u hi => ?_
  split
  · exact .of_inner (inner_refuse ..)
  · split
    · exact .of_inner (inner_refuse ..)
    · next hu =>
      refine JobsKept.trans (t := u.putTables { u.tables with extents := writeExtents u.tables.extents first words })
        ⟨id, fun hs j => ?_⟩ (.of_inner (inner_accept ..))
      cases ha : (u.job j).state.active with
      | false => exact scanChecked_of_inactive ha
      | true =>
        refine scanChecked_of_words (fun k hk => readExtent_writeExtents_outside _ _ _ ?_) (hs j)
        rw [length_of_managementInstr_loadExtents hi]
        exact outside_of_not_inUse (s := u) (by simpa using hu) ha hk

/-! ### Resets, the link and frames -/

theorem jobs_resetPorts (s : State) : (resetPorts s).jobs = s.jobs := by
  suffices h : ∀ (bs : List BayId) (s : State),
      (bs.foldl (fun s b => s.modPort b fun p => { BayPort.cold with presence := p.presence }) s).jobs = s.jobs from
    h _ s
  intro bs
  induction bs with
  | nil => exact fun _ => rfl
  | cons b bs ih => exact fun s => ih _

theorem jobsKept_warmReset (s : State) : JobsKept s (warmReset s) := by
  refine JobsKept.trans (t := resetPorts (clearOperation s)) (.of_all_free ?_) (.of_inner ?_)
  · exact jobs_resetPorts _
  · refine inner_foldl (fun s b => ?_) _ _
    split
    · exact inner_seat ..
    · exact Inner.refl s

theorem jobsKept_coldReset (s : State) : JobsKept s (coldReset s) := by
  refine JobsKept.trans (t := resetPorts (clearOperation (clearPower s))) (.of_all_free ?_) (.of_inner ?_)
  · exact jobs_resetPorts _
  · refine inner_foldl (fun s b => ?_) _ _
    split
    · exact inner_seat ..
    · exact Inner.refl s

theorem jobsKept_linkReset (s : State) : JobsKept s (linkReset s) := by
  unfold linkReset
  refine JobsKept.trans (.of_same ?_ ?_) (.of_inner (inner_foldl (fun _ _ => inner_modPort ..) _ _)) <;> rfl

theorem jobsKept_bringUp (s : State) : JobsKept s (bringUp s) := by
  unfold bringUp
  refine JobsKept.trans (t := (s.putLink .up).putTaking none) (.of_same rfl rfl) (.of_inner (inner_foldl ?_ _ _))
  intro s b
  unfold linkUpNotice
  split
  · exact inner_send ..
  · exact Inner.refl s

theorem jobsKept_takeFrame (s : State) (f : CommandFrame) : JobsKept s (takeFrame s f) := by
  unfold takeFrame
  split
  · exact .of_inner (inner_send ..)
  · unfold routeFrame
    dsimp only
    refine (JobsKept.of_inner (inner_putTag s f.tag true)).trans ?_
    split
    · exact .of_inner ((inner_bumpStamp _).trans (inner_carryOut ..))
    · split
      · unfold queueManagement
        dsimp only
        split
        · exact .of_same rfl rfl
        · exact .of_inner (inner_reply ..)
      · exact .of_inner (inner_respond ..)

theorem jobsKept_execCommandFrame {bytes : List Byte} {s t : State} (h : execCommandFrame bytes s = .next t) :
    JobsKept s t := by
  cases h
  split
  · split
    · exact jobsKept_takeFrame ..
    · exact .of_inner (Inner.refl s)
  · exact .of_inner (Inner.refl s)

theorem jobsKept_execDataFrame {bytes : List Byte} {s t : State} (h : execDataFrame bytes s = .next t) :
    JobsKept s t := by
  cases h
  refine .of_inner ?_
  split
  · exact Inner.refl s
  · split
    · split
      · split
        · exact inner_modSlot _ _ _ rfl
        · exact Inner.refl s
      · exact Inner.refl s
    · exact Inner.refl s

/-! ### Tables and settings -/

theorem jobsKept_execLoadClassMap {first count : Nat} {classes : List Nat} {s t : State}
    (h : execLoadClassMap first count classes s = .next t) : JobsKept s t := by
  cases h
  refine .of_takeManagement fun c u _ => ?_
  split
  · exact .of_inner (inner_refuse ..)
  · split
    · exact .of_inner (inner_refuse ..)
    · exact .of_putTables (by rfl) ..

theorem jobsKept_execLoadPolicy {image : PolicyImage} {s t : State} (h : execLoadPolicy image s = .next t) :
    JobsKept s t := by
  cases h
  refine .of_takeManagement fun c u _ => ?_
  split
  · exact .of_putTables (by rfl) ..
  · exact .of_inner (inner_refuse ..)

theorem jobsKept_execAssignProfile {bay profile : Nat} {s t : State} (h : execAssignProfile bay profile s = .next t) :
    JobsKept s t := by
  cases h
  refine .of_takeManagement fun c u _ => ?_
  split
  · exact .of_putTables (by rfl) ..
  · exact .of_inner (inner_refuse ..)

theorem jobsKept_execLoadProgram {program count : Nat} {passes : List PassImage} {s t : State}
    (h : execLoadProgram program count passes s = .next t) : JobsKept s t := by
  cases h
  refine .of_takeManagement fun c u _ => ?_
  split
  · exact .of_inner (inner_refuse ..)
  · repeat' split
    · exact .of_inner (inner_refuse ..)
    · exact .of_inner (inner_refuse ..)
    · exact .of_putTables (by rfl) ..

theorem jobsKept_execSetNoticeRouting {channels : List Nat} {s t : State}
    (h : execSetNoticeRouting channels s = .next t) : JobsKept s t := by
  cases h
  refine .of_takeManagement fun c u _ => ?_
  split
  · exact .of_putTables (by rfl) ..
  · exact .of_inner (inner_refuse ..)

theorem jobsKept_execSetBayParameters {image : ParameterImage} {s t : State}
    (h : execSetBayParameters image s = .next t) : JobsKept s t := by
  cases h
  refine .of_takeManagement fun c u _ => ?_
  split
  · exact .of_inner (inner_refuse ..)
  · split
    · exact .of_putTables (by rfl) ..
    · exact .of_inner (inner_refuse ..)

/-! ### Commands on a job that has begun -/

/-- A change of a job's state leaves it in that state. -/
@[simp] theorem job_setState_same (s : State) (j : JobId) (st : JobState) :
    (setState s j st).job j = { s.job j with state := st } := by
  unfold setState; rw [job_changeJob, if_pos rfl]

@[simp] theorem jobs_accept (s : State) (c : ManagementCommand) : (accept s c).jobs = s.jobs := by
  unfold accept; rw [reply_eq]

@[simp] theorem job_accept (s : State) (c : ManagementCommand) (j : JobId) : (accept s c).job j = s.job j := by
  unfold State.job; rw [jobs_accept]

theorem jobsKept_execTrigger {slot : Nat} {s t : State} (h : execTrigger slot s = .next t) : JobsKept s t := by
  cases h
  refine .of_takeManagement fun c u _ => .of_onSlot fun j => .of_inner ?_
  split
  · next hw =>
    refine ((inner_accept u c).trans (inner_setState _ j .running fun _ => ?_)).trans (inner_useTrigger _ _ ?_)
    · rw [job_accept, hw]; rfl
    · simp [JobState.active]
  · repeat' split
    · exact inner_reply ..
    · exact (inner_modJob _ _ _ fun h => ⟨h, rfl⟩).trans (inner_accept ..)
    · exact inner_refuse ..

theorem jobsKept_execCancelTrigger {slot : Nat} {s t : State} (h : execCancelTrigger slot s = .next t) :
    JobsKept s t := by
  cases h
  refine .of_takeManagement fun c u _ => .of_onSlot fun j => .of_inner ?_
  repeat' split
  · exact (inner_clearLatch ..).trans (inner_accept ..)
  · exact inner_refuse ..
  · exact inner_refuse ..

theorem jobsKept_execPause {slot : Nat} {s t : State} (h : execPause slot s = .next t) : JobsKept s t := by
  cases h
  refine .of_takeManagement fun c u _ => .of_onSlot fun j => .of_inner ?_
  split
  · next hr => exact (inner_accept u c).trans (inner_enterDraining _ _ _ (by rw [job_accept, hr]; rfl))
  · next hw =>
    refine ((inner_accept u c).trans (inner_recordResume ..)).trans (inner_setState _ _ _ fun _ => ?_)
    change ((accept u c).job j).state.active = true
    rw [job_accept, hw]; rfl
  · exact inner_refuse ..

theorem inner_resumeJob (s : State) (j : JobId) (h : (s.job j).state.active = true) : Inner s (resumeJob s j) := by
  have hm := inner_modJob s j (fun x => { x with haltReason := none }) fun h => ⟨h, rfl⟩
  unfold resumeJob
  dsimp only
  split
  · refine (hm.trans (inner_setState _ _ _ fun _ => ?_)).trans (inner_takeResume ..)
    rw [State.modJob_job_same]; exact h
  · split
    · refine (((hm.trans (inner_clearLatch _ j)).trans (inner_setState _ _ _ fun _ => ?_)).trans
        (inner_takeResume ..)).trans (inner_useTrigger _ _ ?_)
      · rw [sameStates_clearLatch, State.modJob_job_same]; exact h
      · change ((setState _ j .running).job j).state.active = true
        simp [JobState.active]
    · refine hm.trans (inner_setState _ _ _ fun _ => ?_)
      rw [State.modJob_job_same]; exact h

theorem jobsKept_execResume {slot : Nat} {s t : State} (h : execResume slot s = .next t) : JobsKept s t := by
  cases h
  refine .of_takeManagement fun c u _ => .of_onSlot fun j => .of_inner ?_
  split
  · next hp =>
    split
    · exact inner_refuse ..
    · refine (inner_accept u c).trans (inner_resumeJob _ _ ?_)
      rcases hp with hp | hp <;> rw [job_accept, hp] <;> rfl
  · exact inner_refuse ..

theorem inner_freeJob (s : State) (j : JobId) : Inner s (freeJob s j) := inner_changeJob _ _ _ nofun

theorem jobsKept_execCancel {slot : Nat} {s t : State} (h : execCancel slot s = .next t) : JobsKept s t := by
  cases h
  refine .of_takeManagement fun c u _ => .of_onSlot fun j => .of_inner ?_
  have ha := inner_accept u c
  have active : (u.job j).state.active = true → ((accept u c).job j).state.active = true := by simp
  split
  · exact ha.trans (inner_freeJob ..)
  · exact ha.trans (inner_freeJob ..)
  · exact ha.trans (inner_freeJob ..)
  · exact (ha.trans (inner_clearMap ..)).trans (inner_freeJob ..)
  · next hs => exact ha.trans (inner_enterDraining _ _ _ (active (by rw [hs]; rfl)))
  · next hs => exact ha.trans (inner_enterDraining _ _ _ (active (by rw [hs]; rfl)))
  · next hs => exact ha.trans (inner_enterDraining _ _ _ (active (by rw [hs]; rfl)))
  · exact inner_refuse ..
  · next hs => exact ha.trans (inner_enterFinishing _ _ _ (active (by rw [hs]; rfl)))
  · next hs => exact ha.trans (inner_enterFinishing _ _ _ (active (by rw [hs]; rfl)))
  · next hs => exact ha.trans (inner_enterFinishing _ _ _ (active (by rw [hs]; rfl)))
  all_goals exact inner_refuse ..

theorem jobsKept_execRelease {slot : Nat} {s t : State} (h : execRelease slot s = .next t) : JobsKept s t := by
  cases h
  refine .of_takeManagement fun c u _ => .of_onSlot fun j => .of_inner ?_
  split
  · exact (inner_accept u c).trans (inner_freeJob ..)
  · exact inner_refuse ..

/-! ### Commands that read, and commands on bays -/

theorem jobsKept_execReadJobStatus {slot : Nat} {s t : State} (h : execReadJobStatus slot s = .next t) :
    JobsKept s t := by
  cases h
  refine .of_takeManagement fun c u _ => .of_inner ?_
  split
  · exact inner_reply ..
  · exact inner_refuse ..

theorem jobsKept_execReadBayStatus {bay : Nat} {s t : State} (h : execReadBayStatus bay s = .next t) :
    JobsKept s t := by
  cases h
  refine .of_takeManagement fun c u _ => .of_inner ?_
  split
  · exact inner_reply ..
  · exact inner_refuse ..

theorem jobsKept_execReadCoverage {bay first count : Nat} {s t : State}
    (h : execReadCoverage bay first count s = .next t) : JobsKept s t := by
  cases h
  refine .of_takeManagement fun c u _ => .of_inner ?_
  split
  · exact inner_refuse ..
  · split
    · exact inner_refuse ..
    · exact inner_reply ..

theorem jobsKept_execReadCertificate {selector : Nat} {run : Word} {s t : State}
    (h : execReadCertificate selector run s = .next t) : JobsKept s t := by
  cases h
  refine .of_takeManagement fun c u _ => .of_inner ?_
  split
  · exact inner_reply ..
  · exact inner_refuse ..

theorem jobsKept_execDiscardCertificate {run : Word} {s t : State} (h : execDiscardCertificate run s = .next t) :
    JobsKept s t := by
  cases h
  refine .of_takeManagement fun c u _ => ?_
  split
  · refine JobsKept.trans (t := (accept u c).putStore (removeRecord run (accept u c).store)) (.of_same ?_ ?_)
      (.of_inner (inner_fillPlace _))
    · exact jobs_accept u c
    · exact congrArg Tables.extents (inner_accept u c).tables
  · exact .of_inner (inner_refuse ..)

theorem jobsKept_execClearAttention {bay : Nat} {mask : BitVec 16} {s t : State}
    (h : execClearAttention bay mask s = .next t) : JobsKept s t := by
  cases h
  refine .of_takeManagement fun c u _ => ?_
  split
  · exact .of_inner (inner_refuse ..)
  · next b _ =>
    split
    · exact JobsKept.trans (t := u.putAttention b (clearedSet (u.attentionOf b) mask)) (.of_same rfl rfl)
        (.of_inner (inner_reply ..))
    · exact .of_inner (inner_refuse ..)

theorem jobsKept_execSetIndicator {bay pattern : Nat} {s t : State} (h : execSetIndicator bay pattern s = .next t) :
    JobsKept s t := by
  cases h
  refine .of_takeManagement fun c u _ => .of_inner ?_
  split
  · exact ((inner_accept u c).trans (inner_modPort ..)).trans (inner_refreshIndicator ..)
  · exact inner_refuse ..

theorem jobsKept_execResetBay {bay : Nat} {s t : State} (h : execResetBay bay s = .next t) : JobsKept s t := by
  cases h
  refine .of_takeManagement fun c u _ => .of_inner ?_
  have ha := inner_accept u c
  split
  · exact inner_refuse ..
  · split
    · exact inner_reply ..
    · exact inner_reply ..
    · exact ha.trans (inner_modPort ..)
    · exact (ha.trans (inner_modPort ..)).trans (inner_selectiveReset ..)
    · exact (ha.trans (inner_modPort ..)).trans (inner_selectiveReset ..)
    · exact (ha.trans (inner_modPort ..)).trans (inner_selectiveReset ..)

/-! ### The events at a bay and the answers of a drive -/

theorem inner_beginRemoval (s : State) (b : BayId) : Inner s (beginRemoval s b) := by
  unfold beginRemoval
  dsimp only
  split
  · exact inner_removeDrive ..
  · exact inner_modPort ..

theorem inner_endRemoval (s : State) (b : BayId) : Inner s (endRemoval s b) := by
  unfold endRemoval
  split
  · exact Inner.refl s
  · exact inner_removeDrive ..

theorem inner_execPresenceAsserted {b : BayId} {s t : State} (h : execPresenceAsserted b s = .next t) : Inner s t := by
  cases h
  split
  · exact Inner.refl s
  · split
    · exact Inner.trans (t := setPresence s b true) (inner_modPort ..) (inner_seat ..)
    · exact inner_modPort ..
    all_goals exact Inner.trans (t := setPresence s b true) (inner_modPort ..) (inner_modPort ..)

theorem inner_execPresenceDropped {b : BayId} {s t : State} (h : execPresenceDropped b s = .next t) : Inner s t := by
  cases h
  have hp : Inner s (setPresence s b false) := inner_modPort ..
  split
  · split
    · exact hp
    · exact (hp.trans (inner_modPort ..)).trans (inner_setBayState ..)
    all_goals exact hp.trans (inner_beginRemoval ..)
  · exact Inner.refl s

theorem inner_execDebounceExpiry {b : BayId} {s t : State} (h : execDebounceExpiry b s = .next t) : Inner s t := by
  cases h
  split
  · split
    · exact Inner.refl s
    · split
      · exact inner_completeInsertion ..
      · exact Inner.refl s
    all_goals exact inner_endRemoval ..
  · exact Inner.refl s

theorem inner_execDeviceFaultIndication {b : BayId} {s t : State} (h : execDeviceFaultIndication b s = .next t) :
    Inner s t := by
  cases h
  split
  case h_3 => exact inner_selectiveReset ..
  case h_4 => exact inner_selectiveReset ..
  all_goals exact Inner.refl s

theorem inner_execResetTimerExpiry {b : BayId} {s t : State} (h : execResetTimerExpiry b s = .next t) : Inner s t := by
  cases h
  split
  · unfold endReset
    dsimp only
    split
    · exact ((inner_modPort ..).trans (inner_setBayState ..)).trans (inner_issueIdentify ..)
    · exact (inner_modPort ..).trans (inner_enterFaulted ..)
  · exact Inner.refl s

theorem inner_execRequestCompletion {b : BayId} {id : Nat} {status : CompletionStatus} {d : DriveIdentity} {s t : State}
    (h : execRequestCompletion b id status d s = .next t) : Inner s t := by
  cases h
  split
  · exact inner_takeCompletion ..
  · exact Inner.refl s

theorem inner_execAbortConfirmation {b : BayId} {id : Nat} {s t : State} (h : execAbortConfirmation b id s = .next t) :
    Inner s t := by
  cases h
  split
  · split
    · exact inner_takeConfirmation ..
    · exact Inner.refl s
  · exact Inner.refl s

theorem inner_execT1Expiry {b : BayId} {id : Nat} {s t : State} (h : execT1Expiry b id s = .next t) : Inner s t := by
  cases h
  split
  · split
    · exact inner_expireT1 ..
    · exact Inner.refl s
  · exact Inner.refl s

theorem inner_execT2Expiry {b : BayId} {id : Nat} {s t : State} (h : execT2Expiry b id s = .next t) : Inner s t := by
  cases h
  split
  · split
    · exact inner_selectiveReset ..
    · exact Inner.refl s
  · exact Inner.refl s

/-! ### Data through a slot: its owner stands -/

@[simp] theorem owner_advanceWord (x : Slot) : (advanceWord x).owner = x.owner := by
  unfold advanceWord; dsimp only; split <;> rfl

@[simp] theorem owner_compareByte (x : Slot) (b : Byte) : (compareByte x b).owner = x.owner := by
  unfold compareByte
  dsimp only
  split
  · split
    · rfl
    · rw [owner_advanceWord]
  · rfl

@[simp] theorem owner_compareBytes (bs : List Byte) : ∀ x : Slot, (compareBytes x bs).owner = x.owner := by
  induction bs with
  | nil => exact fun _ => rfl
  | cons b bs ih => exact fun x => (ih _).trans (owner_compareByte x b)

@[simp] theorem owner_passIn (n : Nat) (x : Slot) : (passIn n x).owner = x.owner := by
  unfold passIn; split <;> rfl

@[simp] theorem owner_generateBytes (n : Nat) : ∀ x : Slot, (generateBytes n x).2.owner = x.owner := by
  induction n with
  | zero => exact fun _ => rfl
  | succ n ih =>
    intro x
    unfold generateBytes
    split
    · dsimp only
      rw [ih]
      split
      · rfl
      · exact owner_advanceWord x
    · rfl

@[simp] theorem owner_slotOutput (r : Record) (n : Nat) (x : Slot) : (slotOutput r n x).2.owner = x.owner := by
  unfold slotOutput
  split
  · split
    · exact owner_generateBytes n x
    · rfl
  · rfl
  · rfl

theorem inner_takeDataIn (s : State) (b : BayId) (r : Record) (k : SlotId) (bs : List Byte) :
    Inner s (takeDataIn s b r k bs) := by
  unfold takeDataIn
  split
  · split
    · exact inner_modSlot _ _ _ (owner_compareBytes bs _)
    · exact Inner.refl s
  · exact Inner.refl s
  · have hm := inner_modSlot s k (passIn bs.length) (owner_passIn _ _)
    dsimp only
    split
    · exact hm.trans (inner_foldl (fun _ _ => inner_send ..) _ _)
    · exact hm

theorem inner_execDriveDataIn {b : BayId} {id : Nat} {bs : List Byte} {s t : State}
    (h : execDriveDataIn b id bs s = .next t) : Inner s t := by
  cases h
  split
  · split
    · exact inner_takeDataIn ..
    · exact Inner.refl s
  · exact Inner.refl s

theorem inner_execDriveDataOut {b : BayId} {id n : Nat} {s t : State} (h : execDriveDataOut b id n s = .next t) :
    Inner s t := by
  cases h
  split
  · split
    · refine (inner_putSlot _ _ _ fun hp => ?_).trans (inner_signal ..)
      rw [owner_slotOutput]
      exact hp _
    · exact Inner.refl s
  · exact Inner.refl s

/-! ### The bridge's own steps -/

theorem inner_execExtentScanWord {b : BayId} {s t : State} (h : execExtentScanWord b s = .next t) : Inner s t := by
  cases h
  split
  · split
    · next hs hg => exact inner_scanStep _ _ _ _ _ hs hg
    · exact Inner.refl s
  · exact Inner.refl s

theorem inner_execPassthroughGrant {s t : State} (h : execPassthroughGrant s = .next t) : Inner s t := by
  cases h
  split
  · next hk => exact inner_grantPassthrough _ (mem_of_firstFree hk) _ _
  · exact Inner.refl s

theorem inner_execHoldExpiry {tag : Tag} {s t : State} (h : execHoldExpiry tag s = .next t) : Inner s t := by
  cases h
  split
  · exact (inner_putHold _ _ (length_withoutTag _ _)).trans (inner_answer ..)
  · exact inner_putWait ..

theorem inner_execBuildComplete {j : JobId} {s t : State} (h : execBuildComplete j s = .next t) : Inner s t := by
  cases h
  split
  · exact inner_completeBuild ..
  · exact Inner.refl s

/-! ### Every command, and every step -/

/-- Every command keeps both invariants of the job table (R5, R59). -/
theorem jobsKept_exec {i : Instr} {s t : State} (h : exec i s = .next t) : JobsKept s t := by
  cases i with
  | coldReset =>
    obtain rfl : coldReset s = t := Host.Outcome.next.inj h
    exact jobsKept_coldReset s
  | upstreamLinkReset =>
    obtain rfl : linkReset s = t := Host.Outcome.next.inj h
    exact jobsKept_linkReset s
  | linkUp =>
    obtain rfl : (if s.link = .down then bringUp s else s) = t := Host.Outcome.next.inj h
    split
    · exact jobsKept_bringUp s
    · exact .of_inner (Inner.refl s)
  | commandFrame bytes => exact jobsKept_execCommandFrame h
  | invalidFrame bytes => cases h; exact .of_inner (Inner.refl s)
  | dataFrame bytes => exact jobsKept_execDataFrame h
  | identifyBridge => cases h; exact .of_takeManagement fun _ _ _ => .of_inner (inner_reply ..)
  | setClock value =>
    cases h
    exact .of_takeManagement fun c u _ => JobsKept.trans (t := u.putClock value) (.of_same rfl rfl)
      (.of_inner (inner_accept ..))
  | loadClassMap first count classes => exact jobsKept_execLoadClassMap h
  | loadPolicy image => exact jobsKept_execLoadPolicy h
  | assignProfile bay profile => exact jobsKept_execAssignProfile h
  | loadProgram program count passes => exact jobsKept_execLoadProgram h
  | loadExtents first count words => exact jobsKept_execLoadExtents h
  | loadJob image => exact jobsKept_execLoadJob h
  | start slot => exact jobsKept_execStart h
  | trigger slot => exact jobsKept_execTrigger h
  | cancelTrigger slot => exact jobsKept_execCancelTrigger h
  | pause slot => exact jobsKept_execPause h
  | resume slot => exact jobsKept_execResume h
  | cancel slot => exact jobsKept_execCancel h
  | release slot => exact jobsKept_execRelease h
  | readJobStatus slot => exact jobsKept_execReadJobStatus h
  | readBayStatus bay => exact jobsKept_execReadBayStatus h
  | readCoverage bay first count => exact jobsKept_execReadCoverage h
  | readCertificate selector run => exact jobsKept_execReadCertificate h
  | discardCertificate run => exact jobsKept_execDiscardCertificate h
  | clearAttention bay mask => exact jobsKept_execClearAttention h
  | setNoticeRouting channels => exact jobsKept_execSetNoticeRouting h
  | setIndicator bay pattern => exact jobsKept_execSetIndicator h
  | setBayParameters image => exact jobsKept_execSetBayParameters h
  | resetBay bay => exact jobsKept_execResetBay h
  | resetBridge =>
    cases h
    exact .of_takeManagement fun c u _ => (JobsKept.of_inner (inner_accept u c)).trans (jobsKept_warmReset _)
  | unknownCommand code payload => cases h; exact .of_takeManagement fun _ _ _ => .of_inner (inner_refuse ..)
  | presenceAsserted bay => exact .of_inner (inner_execPresenceAsserted h)
  | presenceDropped bay => exact .of_inner (inner_execPresenceDropped h)
  | debounceExpiry bay => exact .of_inner (inner_execDebounceExpiry h)
  | deviceFaultIndication bay => exact .of_inner (inner_execDeviceFaultIndication h)
  | resetTimerExpiry bay => exact .of_inner (inner_execResetTimerExpiry h)
  | requestCompletion bay request status identity => exact .of_inner (inner_execRequestCompletion h)
  | abortConfirmation bay request => exact .of_inner (inner_execAbortConfirmation h)
  | abortRefusal bay request => cases h; exact .of_inner (Inner.refl s)
  | t1Expiry bay request => exact .of_inner (inner_execT1Expiry h)
  | t2Expiry bay request => exact .of_inner (inner_execT2Expiry h)
  | driveDataIn bay request bytes => exact .of_inner (inner_execDriveDataIn h)
  | driveDataOut bay request count => exact .of_inner (inner_execDriveDataOut h)
  | extentScanWord bay => exact .of_inner (inner_execExtentScanWord h)
  | engineGrant => cases h; exact .of_inner (inner_grantEngine s)
  | nativeEraseIssue bay => cases h; exact .of_inner (inner_nativeEraseStep ..)
  | passthroughGrant => exact .of_inner (inner_execPassthroughGrant h)
  | holdExpiry tag => exact .of_inner (inner_execHoldExpiry h)
  | buildComplete slot => exact .of_inner (inner_execBuildComplete h)
  | indicatorPhase bay => cases h; exact .of_inner (inner_modPort ..)
  | clockSecond => cases h; exact .of_same rfl rfl

/-- Every step keeps both invariants of the job table (R5, R59). -/
theorem jobsKept_step {s t : State} (h : step s = .next t) : JobsKept s t := by
  unfold step at h
  split at h
  · cases h; exact .of_inner (Inner.refl s)
  · next c rest _ => exact JobsKept.trans (t := s.putPending rest) (.of_same rfl rfl) (jobsKept_exec h)

/-- Settles O8: no command gives a bay a second active job; START alone makes a job active, and only where its bay has
none. -/
theorem oneActiveJobPerBay : Obligations.OneActiveJobPerBay := by
  unfold Obligations.OneActiveJobPerBay
  exact fun _ _ h => (jobsKept_step h).one

end Sys2Proof.Proofs
end

section
/-! The active job of a bay and what the command filter reads of it. -/

namespace Sys2Proof.Proofs

open Sys2Proof Sys2Proof.Machine Sys2Proof.Safety

/-- With at most one active job per bay, `activeJob` finds the active job of a bay (R5). -/
theorem activeJob_eq_some {s : State} {b : BayId} {j : JobId} (ho : OneActiveJob s)
    (ha : (s.job j).state.active = true) (hb : (s.job j).bay = b) : activeJob s b = some j := by
  cases h : activeJob s b with
  | none => exact absurd hb (activeJob_none.mp h j ha)
  | some k =>
    obtain ⟨ka, kb⟩ := activeJob_spec h
    rw [ho k j ka ha (kb.trans hb.symm)]

/-- A bay with an active job is ACTIVE and bears its key and its zones (R4, R100, R148, R150). -/
theorem filter_reads_active {s : State} {b : BayId} {j : JobId} (h : activeJob s b = some j) :
    bayKey s b = (s.job j).key ∧
    (∀ cls : OpClass, actionFor s b cls = (bayProfile s b).active[cls.number]) ∧
    ∀ i, zoneAnswer s b i =
      if (s.map b).owner = some j ∧ i < (s.map b).zn then ((s.zone b i).state, (s.zone b i).out)
      else (.untouched, 0) := by
  refine ⟨by simp [bayKey, h], fun cls => by simp [actionFor, bayActive, h], fun i => ?_⟩
  unfold zoneAnswer State.zone
  dsimp only
  rw [h]
  cases ho : (s.map b).owner with
  | none => simp
  | some k =>
    by_cases hk : k = j
    · simp [hk]
    · simp [hk, Ne.symm hk]

/-- A bay with no active job is IDLE: key 0, and no map proves anything of a zone (R4, R100, R148, R150). -/
theorem filter_reads_idle {s : State} {b : BayId} (h : activeJob s b = none) :
    bayKey s b = 0 ∧ (∀ cls : OpClass, actionFor s b cls = (bayProfile s b).idle[cls.number]) ∧
      ∀ i, zoneAnswer s b i = (.untouched, 0) := by
  refine ⟨by simp [bayKey, h], fun cls => by simp [actionFor, bayActive, h], fun i => ?_⟩
  unfold zoneAnswer
  dsimp only
  rw [h]
  cases (s.map b).owner <;> simp

/-- Settles O18: the filter's reads go through `activeJob`, which finds the bay's one active job or none. -/
theorem filterReadsTheActiveJob : Obligations.FilterReadsTheActiveJob := by
  unfold Obligations.FilterReadsTheActiveJob
  intro s b
  exact ⟨fun j ho ha hb => filter_reads_active (activeJob_eq_some ho ha hb),
    fun h => filter_reads_idle (activeJob_none.mpr h)⟩

end Sys2Proof.Proofs
end

section
/-! The command filter's own work. A re-evaluation changes only the passthrough path (hold queue, capacity wait, tags,
frames sent), and a refreshed indicator only what its port shows; `Rejudged` holds both, goes on through changes of the
other blocks, and gives `AfterRejudging` and `JudgedAgain` of Safety.lean. -/

namespace Sys2Proof.Proofs

open Sys2Proof Sys2Proof.Machine Sys2Proof.Safety

/-! ### The passthrough path and the ports laid over a state -/

/-- `u` with the passthrough path and the ports of `t`. -/
def overlay (u t : State) : State :=
  { u with hold := t.hold, wait := t.wait, tags := t.tags, sent := t.sent, ports := t.ports }

@[simp] theorem overlay_self (u : State) : overlay u u = u := rfl

/-- A held read is judged again within the passthrough path. -/
theorem rejudge_frame (s : State) (c : PassCommand) : rejudge s c =
    { s with hold := (rejudge s c).hold, wait := (rejudge s c).wait, tags := (rejudge s c).tags
             sent := (rejudge s c).sent } := by
  unfold rejudge
  split
  · rfl
  · unfold answer; rw [respond_eq]; rfl
  · rfl

/-- A re-evaluation stays within the passthrough path. -/
theorem reevaluate_frame (s : State) (b : BayId) : reevaluate s b =
    { s with hold := (reevaluate s b).hold, wait := (reevaluate s b).wait, tags := (reevaluate s b).tags
             sent := (reevaluate s b).sent } := by
  suffices h : ∀ (cs : List PassCommand) (s : State), ∃ h w g x, cs.foldl rejudge s =
      { s with hold := h, wait := w, tags := g, sent := x } by
    obtain ⟨h, w, g, x, e⟩ := h (s.hold.filter fun c => decide (c.bay = b)) s
    unfold reevaluate
    rw [e]
  intro cs
  induction cs with
  | nil => exact fun s => ⟨s.hold, s.wait, s.tags, s.sent, rfl⟩
  | cons c cs ih =>
    intro s
    obtain ⟨h, w, g, x, e⟩ := ih (rejudge s c)
    refine ⟨h, w, g, x, ?_⟩
    rw [List.foldl_cons, e, rejudge_frame s c]

section
variable (s : State) (b : BayId)
@[simp] theorem reevaluate_pending : (reevaluate s b).pending = s.pending := by rw [reevaluate_frame]
@[simp] theorem reevaluate_link : (reevaluate s b).link = s.link := by rw [reevaluate_frame]
@[simp] theorem reevaluate_toDrive : (reevaluate s b).toDrive = s.toDrive := by rw [reevaluate_frame]
@[simp] theorem reevaluate_tables : (reevaluate s b).tables = s.tables := by rw [reevaluate_frame]
@[simp] theorem reevaluate_management : (reevaluate s b).management = s.management := by rw [reevaluate_frame]
@[simp] theorem reevaluate_taking : (reevaluate s b).taking = s.taking := by rw [reevaluate_frame]
@[simp] theorem reevaluate_clock : (reevaluate s b).clock = s.clock := by rw [reevaluate_frame]
@[simp] theorem reevaluate_runCounter : (reevaluate s b).runCounter = s.runCounter := by rw [reevaluate_frame]
@[simp] theorem reevaluate_attention : (reevaluate s b).attention = s.attention := by rw [reevaluate_frame]
@[simp] theorem reevaluate_jobs : (reevaluate s b).jobs = s.jobs := by rw [reevaluate_frame]
@[simp] theorem reevaluate_walk : (reevaluate s b).walk = s.walk := by rw [reevaluate_frame]
@[simp] theorem reevaluate_inFlight : (reevaluate s b).inFlight = s.inFlight := by rw [reevaluate_frame]
@[simp] theorem reevaluate_slots : (reevaluate s b).slots = s.slots := by rw [reevaluate_frame]
@[simp] theorem reevaluate_grantPointer : (reevaluate s b).grantPointer = s.grantPointer := by rw [reevaluate_frame]
@[simp] theorem reevaluate_coverage : (reevaluate s b).coverage = s.coverage := by rw [reevaluate_frame]
@[simp] theorem reevaluate_ports : (reevaluate s b).ports = s.ports := by rw [reevaluate_frame]
@[simp] theorem reevaluate_store : (reevaluate s b).store = s.store := by rw [reevaluate_frame]
@[simp] theorem reevaluate_building : (reevaluate s b).building = s.building := by rw [reevaluate_frame]
@[simp] theorem reevaluate_nextRequest : (reevaluate s b).nextRequest = s.nextRequest := by rw [reevaluate_frame]
@[simp] theorem reevaluate_stamp : (reevaluate s b).stamp = s.stamp := by rw [reevaluate_frame]
@[simp] theorem reevaluate_job (j : JobId) : (reevaluate s b).job j = s.job j := by simp [State.job]
@[simp] theorem reevaluate_port (c : BayId) : (reevaluate s b).port c = s.port c := by simp [State.port]
@[simp] theorem reevaluate_map (c : BayId) : (reevaluate s b).map c = s.map c := by simp [State.map]
@[simp] theorem reevaluate_context (c : BayId) : (reevaluate s b).context c = s.context c := by simp [State.context]
@[simp] theorem reevaluate_list (c : BayId) : (reevaluate s b).list c = s.list c := by simp [State.list]
@[simp] theorem reevaluate_slot (k : SlotId) : (reevaluate s b).slot k = s.slot k := by simp [State.slot]
@[simp] theorem reevaluate_attentionOf (c : BayId) : (reevaluate s b).attentionOf c = s.attentionOf c := by
  simp [State.attentionOf]
@[simp] theorem reevaluate_program (p : ProgramId) : (reevaluate s b).program p = s.program p := by
  simp [State.program]
@[simp] theorem reevaluate_parameters (c : BayId) : (reevaluate s b).parameters c = s.parameters c := by
  simp [State.parameters]
@[simp] theorem reevaluate_zone (c : BayId) (i : Nat) : (reevaluate s b).zone c i = s.zone c i := by simp [State.zone]
end

/-- A refreshed indicator changes the ports alone. -/
theorem refreshIndicator_frame (s : State) (b : BayId) :
    refreshIndicator s b = { s with ports := (refreshIndicator s b).ports } := by
  unfold refreshIndicator; dsimp only; split <;> rfl

section
variable (s : State) (b : BayId)
@[simp] theorem refreshIndicator_pending : (refreshIndicator s b).pending = s.pending := by rw [refreshIndicator_frame]
@[simp] theorem refreshIndicator_link : (refreshIndicator s b).link = s.link := by rw [refreshIndicator_frame]
@[simp] theorem refreshIndicator_tags : (refreshIndicator s b).tags = s.tags := by rw [refreshIndicator_frame]
@[simp] theorem refreshIndicator_sent : (refreshIndicator s b).sent = s.sent := by rw [refreshIndicator_frame]
@[simp] theorem refreshIndicator_toDrive : (refreshIndicator s b).toDrive = s.toDrive := by rw [refreshIndicator_frame]
@[simp] theorem refreshIndicator_tables : (refreshIndicator s b).tables = s.tables := by rw [refreshIndicator_frame]
@[simp] theorem refreshIndicator_wait : (refreshIndicator s b).wait = s.wait := by rw [refreshIndicator_frame]
@[simp] theorem refreshIndicator_hold : (refreshIndicator s b).hold = s.hold := by rw [refreshIndicator_frame]
@[simp] theorem refreshIndicator_clock : (refreshIndicator s b).clock = s.clock := by rw [refreshIndicator_frame]
@[simp] theorem refreshIndicator_runCounter : (refreshIndicator s b).runCounter = s.runCounter := by
  rw [refreshIndicator_frame]
@[simp] theorem refreshIndicator_attention : (refreshIndicator s b).attention = s.attention := by
  rw [refreshIndicator_frame]
@[simp] theorem refreshIndicator_jobs : (refreshIndicator s b).jobs = s.jobs := by rw [refreshIndicator_frame]
@[simp] theorem refreshIndicator_walk : (refreshIndicator s b).walk = s.walk := by rw [refreshIndicator_frame]
@[simp] theorem refreshIndicator_inFlight : (refreshIndicator s b).inFlight = s.inFlight := by
  rw [refreshIndicator_frame]
@[simp] theorem refreshIndicator_slots : (refreshIndicator s b).slots = s.slots := by rw [refreshIndicator_frame]
@[simp] theorem refreshIndicator_coverage : (refreshIndicator s b).coverage = s.coverage := by
  rw [refreshIndicator_frame]
@[simp] theorem refreshIndicator_building : (refreshIndicator s b).building = s.building := by
  rw [refreshIndicator_frame]
@[simp] theorem refreshIndicator_nextRequest : (refreshIndicator s b).nextRequest = s.nextRequest := by
  rw [refreshIndicator_frame]
@[simp] theorem refreshIndicator_job (j : JobId) : (refreshIndicator s b).job j = s.job j := by simp [State.job]
@[simp] theorem refreshIndicator_map (c : BayId) : (refreshIndicator s b).map c = s.map c := by simp [State.map]
@[simp] theorem refreshIndicator_context (c : BayId) : (refreshIndicator s b).context c = s.context c := by
  simp [State.context]
@[simp] theorem refreshIndicator_list (c : BayId) : (refreshIndicator s b).list c = s.list c := by simp [State.list]
@[simp] theorem refreshIndicator_slot (k : SlotId) : (refreshIndicator s b).slot k = s.slot k := by simp [State.slot]
@[simp] theorem refreshIndicator_attentionOf (c : BayId) :
    (refreshIndicator s b).attentionOf c = s.attentionOf c := by simp [State.attentionOf]
@[simp] theorem refreshIndicator_program (p : ProgramId) : (refreshIndicator s b).program p = s.program p := by
  simp [State.program]
@[simp] theorem refreshIndicator_zone (c : BayId) (i : Nat) : (refreshIndicator s b).zone c i = s.zone c i := by
  simp [State.zone]
@[simp] theorem refreshIndicator_tagInUse (x : Tag) : (refreshIndicator s b).tagInUse x = s.tagInUse x := by
  simp [State.tagInUse]
end

/-! ### What a judgement and an indicator rest on -/

/-- The job table gives the filter and the indicator the same of two states: activity, bay and key of every slot. -/
abbrev SameActivity (s t : State) : Prop :=
  ∀ j, (t.job j).state.active = (s.job j).state.active ∧ (t.job j).bay = (s.job j).bay ∧
    (t.job j).key = (s.job j).key

theorem SameActivity.of_jobs {s t : State} (h : t.jobs = s.jobs) : SameActivity s t := fun j => by
  unfold State.job; rw [h]; exact ⟨rfl, rfl, rfl⟩

theorem activeJob_congr_activity {s t : State} (h : SameActivity s t) (b : BayId) :
    activeJob t b = activeJob s b := by
  unfold activeJob
  congr 1
  funext j
  rw [(h j).1, (h j).2.1]

/-- A held read's judgement rests on the tables, the maps' answers, the bays' states and drives, and the activity of
the jobs. -/
theorem judgeHeld_congr {s t : State} (ht : t.tables = s.tables) (hj : SameActivity s t)
    (hm : ∀ b, (t.map b).owner = (s.map b).owner ∧ (t.map b).z = (s.map b).z ∧ (t.map b).zn = (s.map b).zn ∧
      ∀ i, (t.zone b i).state = (s.zone b i).state ∧ (t.zone b i).out = (s.zone b i).out)
    (hp : ∀ b, (t.port b).state = (s.port b).state ∧ (t.port b).identity = (s.port b).identity) (c : PassCommand) :
    judgeHeld t c = judgeHeld s c := by
  have ha := activeJob_congr_activity hj
  have hb : ∀ b, bayActive t b = bayActive s b := fun b => by simp [bayActive, ha]
  have hk : ∀ b, bayKey t b = bayKey s b := fun b => by
    unfold bayKey
    rw [ha]
    split
    · exact (hj _).2.2
    · rfl
  have hz : zoneAnswer t c.bay = zoneAnswer s c.bay := by
    funext i
    obtain ⟨ho, _, hn, hs⟩ := hm c.bay
    unfold zoneAnswer
    dsimp only
    rw [ho, hn, ha]
    split
    · rfl
    · split
      · have := hs i
        unfold State.zone at this
        rw [this.1, this.2]
      · rfl
  have hf : ∀ l n, fence t c.bay l n = fence s c.bay l n := fun l n => by
    unfold fence; rw [hz, (hm c.bay).2.1]
  have hd : judge t c = judge s c := by
    unfold judge addressStage bayCapacity actionFor bayProfile opcodeClass
    simp only [ht, hb, hf, (hp c.bay).2]
  unfold judgeHeld bayReady leavingStatus
  rw [hd, hb, hk, (hp c.bay).1]

theorem judgeHeld_of_path {s t : State} (h : t.tables = s.tables) (hj : t.jobs = s.jobs) (hc : t.coverage = s.coverage)
    (hp : ∀ b, (t.port b).state = (s.port b).state ∧ (t.port b).identity = (s.port b).identity) (c : PassCommand) :
    judgeHeld t c = judgeHeld s c := by
  have hm : ∀ b, t.map b = s.map b := fun b => by unfold State.map; rw [hc]
  refine judgeHeld_congr h (.of_jobs hj) (fun b => ?_) hp c
  simp [State.zone, hm]

/-! ### One re-evaluation on the passthrough path -/

/-- How the passthrough path goes from `u` to `t` where held reads of bay `b` alone are judged. -/
structure PathMoved (b : BayId) (u t : State) : Prop where
  sent : u.sent <+: t.sent
  hold : ∀ c ∈ t.hold, c ∈ u.hold
  others : ∀ c ∈ u.hold, c.bay ≠ b → (∀ d ∈ u.hold, d.tag = c.tag → d = c) → c ∈ t.hold
  waits : ∀ c ∈ u.wait, c ∈ t.wait
  came : ∀ c ∈ t.wait, c ∈ u.wait ∨ (c ∈ u.hold ∧ c.bay = b)
  tags : ∀ x, t.tagInUse x = u.tagInUse x ∨ (t.tagInUse x = false ∧ ∃ c ∈ u.hold, c.bay = b ∧ c.tag = x)
  idle : (∀ c ∈ u.hold, c.bay ≠ b) → t.hold = u.hold ∧ t.wait = u.wait ∧ t.tags = u.tags ∧ t.sent = u.sent

theorem PathMoved.of_same {b : BayId} {u t : State} (hh : t.hold = u.hold) (hw : t.wait = u.wait)
    (hg : t.tags = u.tags) (hs : t.sent = u.sent) : PathMoved b u t where
  sent := by rw [hs]
  hold := by rw [hh]; exact fun _ h => h
  others := by rw [hh]; exact fun _ h _ _ => h
  waits := by rw [hw]; exact fun _ h => h
  came := by rw [hw]; exact fun _ h => .inl h
  tags := fun x => .inl (by unfold State.tagInUse; rw [hg])
  idle := fun _ => ⟨hh, hw, hg, hs⟩

theorem PathMoved.refl (b : BayId) (u : State) : PathMoved b u u := .of_same rfl rfl rfl rfl

theorem PathMoved.trans {b : BayId} {u t v : State} (h : PathMoved b u t) (k : PathMoved b t v) : PathMoved b u v where
  sent := h.sent.trans k.sent
  hold c hc := h.hold c (k.hold c hc)
  others c hc hb hu := k.others c (h.others c hc hb hu) hb fun d hd => hu d (h.hold d hd)
  waits c hc := k.waits c (h.waits c hc)
  came c hc := by
    rcases k.came c hc with hw | ⟨hh, hb⟩
    · exact h.came c hw
    · exact .inr ⟨h.hold c hh, hb⟩
  tags x := by
    rcases k.tags x with e | ⟨e, c, hc, hb, ht⟩
    · rw [e]; exact h.tags x
    · exact .inr ⟨e, c, h.hold c hc, hb, ht⟩
  idle hn := by
    obtain ⟨eh, ew, et, es⟩ := h.idle hn
    obtain ⟨fh, fw, ft, fs⟩ := k.idle (by rw [eh]; exact hn)
    exact ⟨fh.trans eh, fw.trans ew, ft.trans et, fs.trans es⟩

/-- The passthrough path only goes on: frames are added, held reads leave, waiting commands stay, tags become free. -/
structure Onward (s t : State) : Prop where
  sent : s.sent <+: t.sent
  hold : ∀ c ∈ t.hold, c ∈ s.hold
  waits : ∀ c ∈ s.wait, c ∈ t.wait
  free : ∀ x, s.tagInUse x = false → t.tagInUse x = false

theorem Onward.trans {s t u : State} (h : Onward s t) (k : Onward t u) : Onward s u where
  sent := h.sent.trans k.sent
  hold c hc := h.hold c (k.hold c hc)
  waits c hc := k.waits c (h.waits c hc)
  free x hx := k.free x (h.free x hx)

theorem PathMoved.onward {b : BayId} {u t : State} (h : PathMoved b u t) : Onward u t where
  sent := h.sent
  hold := h.hold
  waits := h.waits
  free x hx := by
    rcases h.tags x with e | ⟨e, _⟩
    · rw [e, hx]
    · exact e

@[simp] theorem mem_withoutTag {x : Tag} {c : PassCommand} {cs : List PassCommand} :
    c ∈ withoutTag x cs ↔ c ∈ cs ∧ c.tag ≠ x := by simp [withoutTag]

/-- The three results of one judgement of a held read (R158). -/
theorem rejudge_hold {s : State} {c : PassCommand} (h : judgeHeld s c = .hold) : rejudge s c = s := by
  unfold rejudge; rw [h]

theorem rejudge_answered {s : State} {c : PassCommand} {x : ResponseStatus} (h : judgeHeld s c = .answered x) :
    rejudge s c = { s with
      hold := withoutTag c.tag s.hold
      sent := if s.link = .up then s.sent ++ [.response c.bay.val c.tag c.opcode x false] else s.sent
      tags := put s.tags c.tag false } := by
  unfold rejudge; rw [h]; unfold answer; simp only [respond_eq]; rfl

theorem rejudge_wait {s : State} {c : PassCommand} (h : judgeHeld s c = .wait) :
    rejudge s c = { s with hold := withoutTag c.tag s.hold, wait := insertByArrival c s.wait } := by
  unfold rejudge; rw [h]; rfl

theorem pathMoved_rejudge {b : BayId} {u s : State} {c : PassCommand} (h : PathMoved b u s) (hc : c ∈ u.hold)
    (hb : c.bay = b) : PathMoved b u (rejudge s c) := by
  have stays : ∀ d ∈ u.hold, d.bay ≠ b → (∀ e ∈ u.hold, e.tag = d.tag → e = d) → d.tag ≠ c.tag :=
    fun d _ hd hu ht => hd (hu c hc ht.symm ▸ hb)
  have busy : (∀ d ∈ u.hold, d.bay ≠ b) → False := fun hn => hn c hc hb
  cases hv : judgeHeld s c with
  | hold => rw [rejudge_hold hv]; exact h
  | answered x =>
    rw [rejudge_answered hv]
    refine ⟨?_, ?_, ?_, h.waits, h.came, ?_, fun hn => (busy hn).elim⟩
    · dsimp only
      split
      · exact h.sent.trans (List.prefix_append _ _)
      · exact h.sent
    · exact fun d hd => h.hold d (mem_withoutTag.mp hd).1
    · exact fun d hd hdb hu => mem_withoutTag.mpr ⟨h.others d hd hdb hu, stays d hd hdb hu⟩
    · intro x
      change (s.putTag c.tag false).tagInUse x = _ ∨ (s.putTag c.tag false).tagInUse x = false ∧ _
      rw [State.putTag_tagInUse]
      split
      · next e => exact .inr ⟨rfl, c, hc, hb, e.symm⟩
      · exact h.tags x
  | wait =>
    rw [rejudge_wait hv]
    refine ⟨h.sent, ?_, ?_, ?_, ?_, h.tags, fun hn => (busy hn).elim⟩
    · exact fun d hd => h.hold d (mem_withoutTag.mp hd).1
    · exact fun d hd hdb hu => mem_withoutTag.mpr ⟨h.others d hd hdb hu, stays d hd hdb hu⟩
    · exact fun d hd => (mem_insertByArrival ..).mpr (.inr (h.waits d hd))
    · intro d hd
      rcases (mem_insertByArrival ..).mp hd with rfl | hd
      · exact .inr ⟨hc, hb⟩
      · exact h.came d hd

theorem pathMoved_reevaluate (s : State) (b : BayId) : PathMoved b s (reevaluate s b) := by
  suffices h : ∀ cs : List PassCommand, (∀ c ∈ cs, c ∈ s.hold ∧ c.bay = b) →
      ∀ t, PathMoved b s t → PathMoved b s (cs.foldl rejudge t) from
    h _ (fun c hc => by simpa using hc) s (.refl b s)
  intro cs
  induction cs with
  | nil => exact fun _ _ h => h
  | cons c cs ih =>
    intro hcs t ht
    have hc := hcs c List.mem_cons_self
    exact ih (fun d hd => hcs d (List.mem_cons_of_mem _ hd)) _ (pathMoved_rejudge ht hc.1 hc.2)

/-! ### What a re-evaluation makes of each held read -/

/-- A verdict on a held read of bay `b` has been carried out in `t`. -/
def Carried (b : BayId) (l : Link) (c : PassCommand) (v : Verdict) (t : State) : Prop :=
  (v = .hold → c ∈ t.hold) ∧
  (v = .wait → c ∉ t.hold ∧ c ∈ t.wait) ∧
  ∀ x, v = .answered x → c ∉ t.hold ∧ t.tagInUse c.tag = false ∧
    (l = .up → .response b.val c.tag c.opcode x false ∈ t.sent)

/-- What has been carried out for a read stays so, where a read still held stays held. -/
theorem Carried.mono {b : BayId} {l : Link} {c : PassCommand} {v : Verdict} {s t : State} (h : Carried b l c v s)
    (hm : Onward s t) (hh : v = .hold → c ∈ t.hold) : Carried b l c v t := by
  obtain ⟨_, hw, ha⟩ := h
  refine ⟨hh, fun e => ?_, fun x e => ?_⟩
  · obtain ⟨h1, h2⟩ := hw e
    exact ⟨fun k => h1 (hm.hold c k), hm.waits c h2⟩
  · obtain ⟨h1, h2, h3⟩ := ha x e
    exact ⟨fun k => h1 (hm.hold c k), hm.free _ h2, fun e => hm.sent.subset (h3 e)⟩

theorem carried_rejudge {b : BayId} {s : State} {c : PassCommand} (hb : c.bay = b)
    (hc : judgeHeld s c = .hold → c ∈ s.hold) :
    Carried b s.link c (judgeHeld s c) (rejudge s c) := by
  subst hb
  cases hv : judgeHeld s c with
  | hold => rw [rejudge_hold hv]; exact ⟨fun _ => hc hv, nofun, nofun⟩
  | wait => rw [rejudge_wait hv]; exact ⟨nofun, fun _ => by simp, nofun⟩
  | answered x =>
    rw [rejudge_answered hv]
    refine ⟨nofun, nofun, fun y hy => ?_⟩
    cases hy
    refine ⟨by simp, ?_, fun hl => by simp [hl]⟩
    exact State.putTag_tagInUse_same ..

theorem onward_rejudge (s : State) (d : PassCommand) : Onward s (rejudge s d) := by
  cases hv : judgeHeld s d with
  | hold => rw [rejudge_hold hv]; exact (PathMoved.refl d.bay s).onward
  | wait =>
    rw [rejudge_wait hv]
    exact ⟨List.prefix_rfl, fun _ h => (mem_withoutTag.mp h).1, fun _ h => (mem_insertByArrival ..).mpr (.inr h),
      fun _ h => h⟩
  | answered x =>
    rw [rejudge_answered hv]
    refine ⟨?_, fun _ h => (mem_withoutTag.mp h).1, fun _ h => h, fun y hy => ?_⟩
    · dsimp only
      split
      · exact List.prefix_append _ _
      · exact List.prefix_rfl
    · change (s.putTag d.tag false).tagInUse y = false
      rw [State.putTag_tagInUse, hy, ite_self]

/-- A read stays held while reads of other tags are judged. -/
theorem mem_hold_rejudge {s : State} {c d : PassCommand} (h : c ∈ s.hold) (ht : c.tag ≠ d.tag) :
    c ∈ (rejudge s d).hold := by
  cases hv : judgeHeld s d with
  | hold => rw [rejudge_hold hv]; exact h
  | wait => rw [rejudge_wait hv]; exact mem_withoutTag.mpr ⟨h, ht⟩
  | answered x => rw [rejudge_answered hv]; exact mem_withoutTag.mpr ⟨h, ht⟩

theorem judgeHeld_rejudge (s : State) (c d : PassCommand) : judgeHeld (rejudge s c) d = judgeHeld s d := by
  rw [rejudge_frame s c]
  exact judgeHeld_of_path rfl rfl rfl (fun _ => ⟨rfl, rfl⟩) d

theorem judgeHeld_reevaluate (s : State) (b : BayId) (c : PassCommand) :
    judgeHeld (reevaluate s b) c = judgeHeld s c := by
  rw [reevaluate_frame s b]
  exact judgeHeld_of_path rfl rfl rfl (fun _ => ⟨rfl, rfl⟩) c

/-- Every held read of the bay with a tag of its own has the verdict of the state carried out (R158). -/
theorem carried_reevaluate {s : State} {b : BayId} {c : PassCommand} (hc : c ∈ s.hold) (hb : c.bay = b)
    (hu : ∀ d ∈ s.hold, d.tag = c.tag → d = c) : Carried b s.link c (judgeHeld s c) (reevaluate s b) := by
  suffices h : ∀ cs : List PassCommand, (∀ d ∈ cs, d ∈ s.hold ∧ d.bay = b) → ∀ t : State, t.link = s.link →
      judgeHeld t c = judgeHeld s c → PathMoved b s t →
      (c ∈ cs ∧ c ∈ t.hold ∨ Carried b s.link c (judgeHeld s c) t) →
      Carried b s.link c (judgeHeld s c) (cs.foldl rejudge t) from
    h _ (fun d hd => by simpa using hd) s rfl rfl (.refl b s) (.inl ⟨by simp [hc, hb], hc⟩)
  intro cs
  induction cs with
  | nil =>
    intro _ t _ _ _ h
    exact h.resolve_left (by simp)
  | cons d cs ih =>
    intro hcs t hl hj hm h
    obtain ⟨hd, hdb⟩ := hcs d List.mem_cons_self
    refine ih (fun e he => hcs e (List.mem_cons_of_mem _ he)) _ ?_ ?_ (pathMoved_rejudge hm hd hdb) ?_
    · rw [rejudge_frame]; exact hl
    · rw [judgeHeld_rejudge, hj]
    · by_cases hdc : d = c
      · subst hdc
        have hold : judgeHeld t d = .hold → d ∈ t.hold := fun e => by
          rcases h with ⟨_, h⟩ | h
          · exact h
          · exact h.1 (hj ▸ e)
        refine .inr ?_
        rw [← hj, ← hl]
        exact carried_rejudge hdb hold
      · have ht : c.tag ≠ d.tag := fun e => hdc (hu d hd e.symm)
        rcases h with ⟨hcs, hh⟩ | h
        · exact .inl ⟨(List.mem_cons.mp hcs).resolve_left (Ne.symm hdc), mem_hold_rejudge hh ht⟩
        · exact .inr (h.mono (onward_rejudge t d) fun e => mem_hold_rejudge (h.1 e) ht)

/-- A re-evaluation judges the held reads of its bay with the state as it stands (R158). -/
theorem judgedAgain_reevaluate (s : State) (b : BayId) : JudgedAgain b s (reevaluate s b) := by
  intro c hc hb hu
  rw [judgeHeld_reevaluate]
  exact carried_reevaluate hc hb hu

/-! ### `Rejudged`: the path moved and the indicator refreshed -/

/-- `t` is `u` but for the passthrough path, which has moved by judgements of bay `b`, and for what `b`'s indicator
shows. -/
structure Rejudged (b : BayId) (u t : State) : Prop where
  frame : t = overlay u t
  others : ∀ c, c ≠ b → t.port c = u.port c
  port : t.port b = u.port b ∨ ∃ p, t.port b = { u.port b with shown := p, phase := 0 }
  path : PathMoved b u t

theorem Rejudged.refl (b : BayId) (u : State) : Rejudged b u u := ⟨rfl, fun _ _ => rfl, .inl rfl, .refl b u⟩

theorem Rejudged.trans {b : BayId} {u t v : State} (h : Rejudged b u t) (k : Rejudged b t v) : Rejudged b u v where
  frame := by
    have e := k.frame
    rw [h.frame] at e
    exact e
  others c hc := (k.others c hc).trans (h.others c hc)
  port := by
    rcases k.port with e | ⟨p, e⟩
    · rw [e]; exact h.port
    · rcases h.port with f | ⟨q, f⟩ <;> rw [e, f] <;> exact .inr ⟨p, rfl⟩
  path := h.path.trans k.path

theorem rejudged_reevaluate (s : State) (b : BayId) : Rejudged b s (reevaluate s b) where
  frame := by
    conv_lhs => rw [reevaluate_frame]
    unfold overlay
    rw [reevaluate_ports]
  others c _ := by simp
  port := .inl (by simp)
  path := pathMoved_reevaluate s b

/-- A refreshed indicator shows the wanted pattern; the other bays stand. -/
theorem refreshIndicator_cases (s : State) (b : BayId) :
    (∀ c, c ≠ b → (refreshIndicator s b).port c = s.port c) ∧
    ((s.port b).shown = wantedPattern s b ∧ (refreshIndicator s b).port b = s.port b ∨
      (refreshIndicator s b).port b = { s.port b with shown := wantedPattern s b, phase := 0 }) := by
  unfold refreshIndicator
  dsimp only
  split
  · next h => exact ⟨fun _ _ => rfl, .inl ⟨h, rfl⟩⟩
  · exact ⟨fun c hc => by rw [State.modPort_port, if_neg hc], .inr (State.modPort_port_same ..)⟩

/-- Two records give an indicator the same: whether the job is active or closed, on which bay, and its pattern. -/
structure SameLight (x y : Job) : Prop where
  active : y.state.active = x.state.active := by rfl
  closed : (y.state = .closed) = (x.state = .closed) := by rfl
  bay : y.bay = x.bay := by rfl
  order : y.closeOrder = x.closeOrder := by rfl
  pattern : jobPattern y = jobPattern x := by rfl

/-- The wanted pattern of a bay rests on its state, its override and what the jobs give an indicator. -/
theorem wantedPattern_congr {s t : State} {b : BayId} (hj : ∀ j, SameLight (s.job j) (t.job j))
    (hs : (t.port b).state = (s.port b).state) (ho : (t.port b).override = (s.port b).override) :
    wantedPattern t b = wantedPattern s b := by
  have ha : activeJob t b = activeJob s b := by
    unfold activeJob
    congr 1
    funext j
    rw [(hj j).active, (hj j).bay]
  have hc : ∀ js, latestClosed t b js = latestClosed s b js := fun js => by
    induction js with
    | nil => rfl
    | cons j js ih => unfold latestClosed; simp only [ih, (hj _).closed, (hj _).bay, (hj _).order]
  unfold wantedPattern autoPattern shownJob
  rw [hs, ho, ha, hc]
  simp only [(hj _).pattern]

theorem SameLight.of_jobs {s t : State} (h : t.jobs = s.jobs) (j : JobId) : SameLight (s.job j) (t.job j) := by
  unfold State.job; rw [h]; exact {}

theorem port_refreshIndicator_state (s : State) (b c : BayId) :
    ((refreshIndicator s b).port c).state = (s.port c).state ∧
      ((refreshIndicator s b).port c).identity = (s.port c).identity ∧
      ((refreshIndicator s b).port c).override = (s.port c).override ∧
      ((refreshIndicator s b).port c).queue = (s.port c).queue := by
  obtain ⟨ho, hb⟩ := refreshIndicator_cases s b
  by_cases h : c = b
  · subst h
    rcases hb with ⟨_, e⟩ | e <;> rw [e] <;> exact ⟨rfl, rfl, rfl, rfl⟩
  · rw [ho c h]; exact ⟨rfl, rfl, rfl, rfl⟩

/-- Once refreshed, the indicator shows the wanted pattern. -/
theorem shown_refreshIndicator (s : State) (b : BayId) :
    ((refreshIndicator s b).port b).shown = wantedPattern (refreshIndicator s b) b := by
  obtain ⟨hs, _, ho, _⟩ := port_refreshIndicator_state s b b
  rw [wantedPattern_congr (.of_jobs (refreshIndicator_jobs s b)) hs ho]
  rcases (refreshIndicator_cases s b).2 with ⟨h, e⟩ | e
  · rw [e, h]
  · rw [e]

theorem rejudged_refreshIndicator (s : State) (b : BayId) : Rejudged b s (refreshIndicator s b) where
  frame := by
    conv_lhs => rw [refreshIndicator_frame]
    simp [overlay]
  others := (refreshIndicator_cases s b).1
  port := by
    rcases (refreshIndicator_cases s b).2 with ⟨_, e⟩ | e
    · exact .inl e
    · exact .inr ⟨_, e⟩
  path := .of_same (by simp) (by simp) (by simp) (by simp)

/-- An operation that reads and writes neither the passthrough path nor the ports. -/
def Aside (g : State → State) : Prop := ∀ u t, g (overlay u t) = overlay (g u) t

/-- What such an operation makes of two states, of which the second is the first rejudged, is rejudged as well. -/
theorem Rejudged.map {b : BayId} {u t : State} (h : Rejudged b u t) {g : State → State} (hg : Aside g) :
    Rejudged b (g u) (g t) := by
  have hu : g u = overlay (g u) u := hg u u
  have ht : g t = overlay (g u) t := by rw [← hg u t, ← h.frame]
  have port : ∀ c, (g u).port c = u.port c ∧ (g t).port c = t.port c := fun c => by
    constructor
    · rw [hu]; rfl
    · rw [ht]; rfl
  refine ⟨?_, fun c hc => ?_, ?_, ?_⟩
  · rw [ht]; rfl
  · rw [(port c).1, (port c).2]; exact h.others c hc
  · rw [(port b).1, (port b).2]; exact h.port
  · rw [hu, ht]
    exact ⟨h.path.sent, h.path.hold, h.path.others, h.path.waits, h.path.came, h.path.tags, h.path.idle⟩

theorem aside_putJob (j : JobId) (x : Job) : Aside fun s => s.putJob j x := fun _ _ => rfl
theorem aside_putMap (b : BayId) (x : CoverageMap) : Aside fun s => s.putMap b x := fun _ _ => rfl
theorem aside_putContext (b : BayId) (x : Option WalkContext) : Aside fun s => s.putContext b x := fun _ _ => rfl
theorem aside_putBuilding (x : List PendingRecord) : Aside fun s => s.putBuilding x := fun _ _ => rfl
theorem aside_disown (b : BayId) (j : JobId) : Aside fun s => disown s b j := fun u t => by
  have hm : (overlay u t).map b = u.map b := rfl
  by_cases h : (u.map b).owner = some j
  · simp only [disown, hm, if_pos h]; rfl
  · simp only [disown, hm, if_neg h]

/-- Where the indicator shows the wanted pattern, `Rejudged` is what Safety.lean says of a change of a job's state. -/
theorem Rejudged.afterRejudging {b : BayId} {u t : State} (h : Rejudged b u t)
    (hs : (t.port b).shown = wantedPattern t b) : AfterRejudging b u t := by
  refine ⟨h.frame, h.others, ?_, h.path.sent, h.path.hold, h.path.others, h.path.waits, h.path.came, h.path.tags,
    h.path.idle⟩
  rcases h.port with e | ⟨p, e⟩
  · exact .inl e
  · right
    rw [e] at hs
    rw [e, ← hs]

/-! ### Two judgements in one command -/

/-- The held reads of bay `b` in `u`, each with a tag of its own, have their verdicts carried out in `t`. -/
abbrev AllCarried (b : BayId) (u : State) (verdict : PassCommand → Verdict) (t : State) : Prop :=
  ∀ c ∈ u.hold, c.bay = b → (∀ d ∈ u.hold, d.tag = c.tag → d = c) → Carried b u.link c (verdict c) t

/-- A second judgement is taken of the reads that the first one still holds. -/
theorem AllCarried.andThen {b : BayId} {u t v : State} {f g : PassCommand → Verdict} (h : AllCarried b u f t)
    (hh : ∀ c ∈ t.hold, c ∈ u.hold) (hl : t.link = u.link) (k : AllCarried b t g v) (ho : Onward t v) :
    AllCarried b u (fun c => if f c = .hold then g c else f c) v := by
  intro c hc hb hu
  have hf := h c hc hb hu
  dsimp only
  split
  · next e => rw [← hl]; exact k c (hf.1 e) hb fun d hd => hu d (hh d hd)
  · next e => exact hf.mono ho fun e' => absurd e' e

end Sys2Proof.Proofs
end

section
/-! Changes of a job's state, and the management commands that load, pause, cancel and release a job or read its status
(R2, R13, R15, R20, R24, R26, R145). -/

namespace Sys2Proof.Proofs

open Sys2Proof Sys2Proof.Machine Sys2Proof.Safety

/-! ### The command at the front of the management queue -/

section
variable (s : State) (c : ManagementCommand) (rest : List ManagementCommand) (d : Disposition) (data : ReplyData)

/-- The reply to a command that has left the queue. -/
@[simp] theorem reply_putManagement : reply (s.putManagement rest) c d data = replied s c rest d data := by
  rw [reply_eq]; rfl

@[simp] theorem accept_putManagement : accept (s.putManagement rest) c = accepted s c rest := reply_putManagement ..

@[simp] theorem refuse_putManagement (r : Reason) :
    refuse (s.putManagement rest) c r = replied s c rest (.refused r) .nothing := reply_putManagement ..

@[simp] theorem replied_link : (replied s c rest d data).link = s.link := rfl
@[simp] theorem replied_tables : (replied s c rest d data).tables = s.tables := rfl
@[simp] theorem replied_clock : (replied s c rest d data).clock = s.clock := rfl
@[simp] theorem replied_jobs : (replied s c rest d data).jobs = s.jobs := rfl
@[simp] theorem replied_coverage : (replied s c rest d data).coverage = s.coverage := rfl
@[simp] theorem replied_hold : (replied s c rest d data).hold = s.hold := rfl
@[simp] theorem replied_building : (replied s c rest d data).building = s.building := rfl
@[simp] theorem replied_job (j : JobId) : (replied s c rest d data).job j = s.job j := rfl
@[simp] theorem replied_port (b : BayId) : (replied s c rest d data).port b = s.port b := rfl
@[simp] theorem replied_map (b : BayId) : (replied s c rest d data).map b = s.map b := rfl
@[simp] theorem replied_context (b : BayId) : (replied s c rest d data).context b = s.context b := rfl
@[simp] theorem replied_list (b : BayId) : (replied s c rest d data).list b = s.list b := rfl
@[simp] theorem replied_program (p : ProgramId) : (replied s c rest d data).program p = s.program p := rfl
end

@[simp] theorem jobOf_val (j : JobId) : jobOf j.val = some j := by simp [jobOf]

theorem jobOf_eq_none {n : Nat} (h : 24 ≤ n) : jobOf n = none := by simp [jobOf]; omega

@[simp] theorem bayOf_val (b : BayId) : bayOf b.val = some b := by simp [bayOf]

theorem bayOf_eq_none {n : Nat} (h : 16 ≤ n) : bayOf n = none := by simp [bayOf]; omega

/-- A command on a slot number above 23 is refused (R1). -/
theorem onSlot_high {slot : Nat} (h : 24 ≤ slot) (c : ManagementCommand) (s : State) (effect : JobId → State) :
    onSlot slot c s effect = refuse s c .badSlot := by
  unfold onSlot; rw [jobOf_eq_none h]

@[simp] theorem onSlot_val (j : JobId) (c : ManagementCommand) (s : State) (effect : JobId → State) :
    onSlot j.val c s effect = effect j := by
  unfold onSlot; rw [jobOf_val]

/-! ### Writes over writes -/

section
variable (s : State)
@[simp] theorem putJob_putJob (j : JobId) (x y : Job) : (s.putJob j x).putJob j y = s.putJob j y := by
  simp [State.putJob]
@[simp] theorem putPort_putPort (b : BayId) (x y : BayPort) : (s.putPort b x).putPort b y = s.putPort b y := by
  simp [State.putPort]
@[simp] theorem putMap_putMap (b : BayId) (x y : CoverageMap) : (s.putMap b x).putMap b y = s.putMap b y := by
  simp [State.putMap]
@[simp] theorem putContext_putContext (b : BayId) (x y : Option WalkContext) :
    (s.putContext b x).putContext b y = s.putContext b y := by simp [State.putContext]
@[simp] theorem putList_putList (b : BayId) (x y : List Entry) : (s.putList b x).putList b y = s.putList b y := by
  simp [State.putList]
end

/-! ### A change of a job's record -/

/-- The state with a job's record written, and its map without an owner where the job leaves the active group (R88). -/
def written (s : State) (j : JobId) (x : Job) : State :=
  if (s.job j).state.active && !x.state.active then disown (s.putJob j x) (changedBay (s.job j) x) j else s.putJob j x

/-- A job that stays active keeps its map, and one that was not active has none. -/
theorem written_of_kept {s : State} {j : JobId} {x : Job} (h : x.state.active = true ∨ (s.job j).state.active = false) :
    written s j x = s.putJob j x := by
  unfold written
  rcases h with h | h <;> simp [h]

theorem written_of_left {s : State} {j : JobId} {x : Job} (h : (s.job j).state.active = true)
    (hx : x.state.active = false) : written s j x = disown (s.putJob j x) (changedBay (s.job j) x) j := by
  unfold written; simp [h, hx]

theorem changedBay_of_ne_free {x y : Job} (h : x.state ≠ .free) : changedBay x y = x.bay := if_neg h

/-- A record written in the same state is reported to nobody. -/
theorem changeJob_same {s : State} {j : JobId} {x : Job} (h : (s.job j).state = x.state) :
    changeJob s j x = s.putJob j x := by
  unfold changeJob; simp [h]

/-- The report of a change at a bay to the filter and to the indicator (R4, R143). -/
abbrev report (u : State) (b : BayId) : State := refreshIndicator (reevaluate u b) b

/-- A change of a job's state is reported to the filter and to the indicator of its bay (R4). -/
theorem changeJob_new {s : State} {j : JobId} {x : Job} (h : (s.job j).state ≠ x.state) :
    changeJob s j x = report (written s j x) (changedBay (s.job j) x) := by
  unfold changeJob written; simp [h]

theorem rejudged_report (u : State) (b : BayId) : Rejudged b u (report u b) :=
  (rejudged_reevaluate u b).trans (rejudged_refreshIndicator _ b)

theorem judgeHeld_refreshIndicator (s : State) (b : BayId) (c : PassCommand) :
    judgeHeld (refreshIndicator s b) c = judgeHeld s c :=
  judgeHeld_of_path (by simp) (by simp) (by simp)
    (fun d => ⟨(port_refreshIndicator_state s b d).1, (port_refreshIndicator_state s b d).2.1⟩) c

/-- A report to the filter and the indicator (R4, R143, R158). -/
theorem reported_report (u : State) (b : BayId) : Reported b u (report u b) := by
  refine ⟨(rejudged_report u b).afterRejudging (shown_refreshIndicator _ b), ?_⟩
  intro c hc hb hu
  rw [judgeHeld_refreshIndicator, judgeHeld_reevaluate]
  obtain ⟨h1, h2, h3⟩ := carried_reevaluate hc hb hu
  refine ⟨fun e => ?_, fun e => ?_, fun x e => ?_⟩
  · rw [refreshIndicator_hold]; exact h1 e
  · rw [refreshIndicator_hold, refreshIndicator_wait]; exact h2 e
  · rw [refreshIndicator_hold, refreshIndicator_tagInUse, refreshIndicator_sent]; exact h3 x e

theorem reported_changeJob {s : State} {j : JobId} {x : Job} (h : (s.job j).state ≠ x.state) :
    Reported (changedBay (s.job j) x) (written s j x) (changeJob s j x) := by
  rw [changeJob_new h]; exact reported_report ..

/-- A job of a bay goes into another active state. -/
theorem reported_activate {s : State} {j : JobId} {x : Job} (hs : (s.job j).state ≠ x.state)
    (hf : (s.job j).state ≠ .free) (ha : x.state.active = true ∨ (s.job j).state.active = false) :
    Reported (s.job j).bay (s.putJob j x) (changeJob s j x) := by
  have h := reported_changeJob hs
  rwa [written_of_kept ha, changedBay_of_ne_free hf] at h

/-- A change of a job's state writes the record and reports it, where the job stays in or out of the active group. -/
theorem changeJob_report {s : State} {j : JobId} {x : Job} (hs : (s.job j).state ≠ x.state)
    (hf : (s.job j).state ≠ .free) (ha : x.state.active = true ∨ (s.job j).state.active = false) :
    changeJob s j x = report (s.putJob j x) (s.job j).bay := by
  rw [changeJob_new hs, written_of_kept ha, changedBay_of_ne_free hf]

section
variable (s : State) (b c : BayId) (j : JobId)
@[simp] theorem disown_tables : (disown s b j).tables = s.tables := by unfold disown; split <;> rfl
@[simp] theorem disown_clock : (disown s b j).clock = s.clock := by unfold disown; split <;> rfl
@[simp] theorem disown_building : (disown s b j).building = s.building := by unfold disown; split <;> rfl
@[simp] theorem disown_attention : (disown s b j).attention = s.attention := by unfold disown; split <;> rfl
@[simp] theorem disown_walk : (disown s b j).walk = s.walk := by unfold disown; split <;> rfl
@[simp] theorem disown_slots : (disown s b j).slots = s.slots := by unfold disown; split <;> rfl
@[simp] theorem disown_toDrive : (disown s b j).toDrive = s.toDrive := by unfold disown; split <;> rfl
@[simp] theorem disown_runCounter : (disown s b j).runCounter = s.runCounter := by unfold disown; split <;> rfl
@[simp] theorem disown_nextRequest : (disown s b j).nextRequest = s.nextRequest := by unfold disown; split <;> rfl
@[simp] theorem disown_inFlight : (disown s b j).inFlight = s.inFlight := by unfold disown; split <;> rfl
end

section
variable (s : State) (j : JobId) (x : Job)
@[simp] theorem changeJob_tables : (changeJob s j x).tables = s.tables := (inner_behind_putJob s j x).tables
@[simp] theorem changeJob_clock : (changeJob s j x).clock = s.clock := (inner_behind_putJob s j x).clock
@[simp] theorem changeJob_link : (changeJob s j x).link = s.link := (inner_behind_putJob s j x).link
@[simp] theorem changeJob_building : (changeJob s j x).building = s.building := by
  unfold changeJob; dsimp only; split <;> split <;> simp
@[simp] theorem changeJob_attention : (changeJob s j x).attention = s.attention := by
  unfold changeJob; dsimp only; split <;> split <;> simp
@[simp] theorem changeJob_walk : (changeJob s j x).walk = s.walk := by
  unfold changeJob; dsimp only; split <;> split <;> simp
@[simp] theorem changeJob_inFlight : (changeJob s j x).inFlight = s.inFlight := by
  unfold changeJob; dsimp only; split <;> split <;> simp
@[simp] theorem changeJob_slots : (changeJob s j x).slots = s.slots := by
  unfold changeJob; dsimp only; split <;> split <;> simp
@[simp] theorem changeJob_toDrive : (changeJob s j x).toDrive = s.toDrive := by
  unfold changeJob; dsimp only; split <;> split <;> simp
@[simp] theorem changeJob_runCounter : (changeJob s j x).runCounter = s.runCounter := by
  unfold changeJob; dsimp only; split <;> split <;> simp
@[simp] theorem changeJob_nextRequest : (changeJob s j x).nextRequest = s.nextRequest := by
  unfold changeJob; dsimp only; split <;> split <;> simp
@[simp] theorem changeJob_job_same : (changeJob s j x).job j = x := by rw [job_changeJob, if_pos rfl]
@[simp] theorem changeJob_context (b : BayId) : (changeJob s j x).context b = s.context b := by simp [State.context]
@[simp] theorem changeJob_list (b : BayId) : (changeJob s j x).list b = s.list b := by simp [State.list]
@[simp] theorem changeJob_attentionOf (b : BayId) : (changeJob s j x).attentionOf b = s.attentionOf b := by
  simp [State.attentionOf]
@[simp] theorem changeJob_program (p : ProgramId) : (changeJob s j x).program p = s.program p := by
  simp [State.program]
end

/-- A change of a job's state alone is a change of its record. -/
@[simp] theorem setState_eq (s : State) (j : JobId) (st : JobState) :
    setState s j st = changeJob s j { s.job j with state := st } := rfl

/-- The map of a job that stays in the active group is not touched. -/
theorem changeJob_map {s : State} {j : JobId} {x : Job} (ha : x.state.active = true ∨ (s.job j).state.active = false)
    (b : BayId) : (changeJob s j x).map b = s.map b := by
  have hw : ∀ k, ((written s j x).map k) = s.map k := fun k => by rw [written_of_kept ha]; rfl
  by_cases h : (s.job j).state = x.state
  · rw [changeJob_same h]; rfl
  · rw [changeJob_new h]; simp [hw]

/-! ### Two reports in one command -/

/-- Two changes of a bay reported one after the other, the second one made aside the passthrough path (R4). -/
theorem rejudged_twice (u : State) (b : BayId) {g : State → State} (hg : Aside g) :
    Rejudged b (g u) (report (g (report u b)) b) :=
  ((rejudged_report u b).map hg).trans (rejudged_report _ b)

theorem afterRejudging_twice (u : State) (b : BayId) {g : State → State} (hg : Aside g) :
    AfterRejudging b (g u) (report (g (report u b)) b) :=
  (rejudged_twice u b hg).afterRejudging (shown_refreshIndicator _ b)

theorem allCarried_report (u : State) (b : BayId) : AllCarried b u (judgeHeld u) (report u b) := by
  intro c hc hb hu
  obtain ⟨_, h⟩ := reported_report u b
  have hv : judgeHeld (report u b) c = judgeHeld u c := by rw [judgeHeld_refreshIndicator, judgeHeld_reevaluate]
  rw [← hv]
  exact h c hc hb hu

/-- An operation made aside the passthrough path takes what has been carried out along. -/
theorem AllCarried.map {b : BayId} {u t : State} {f : PassCommand → Verdict} (h : AllCarried b u f t)
    {g : State → State} (hg : Aside g) (hl : (g u).link = u.link) : AllCarried b (g u) f (g t) := by
  have e : ∀ s, g s = overlay (g s) s := fun s => hg s s
  have hu : (g u).hold = u.hold := by rw [e u]; rfl
  intro c hc hb hun
  rw [hu] at hc hun
  have hc' := h c hc hb hun
  rw [hl, e t]
  exact hc'

/-- Where the two changes give every held read the same verdict, the two reports are as one. -/
theorem reported_twice (u : State) (b : BayId) {g : State → State} (hg : Aside g) (hl : (g u).link = u.link)
    (hj : ∀ c, judgeHeld (g (report u b)) c = judgeHeld u c) : Reported b (g u) (report (g (report u b)) b) := by
  have r1 := (rejudged_report u b).map hg
  have both : AllCarried b (g u) _ (report (g (report u b)) b) :=
    ((allCarried_report u b).map hg hl).andThen r1.path.hold (by rw [r1.frame]; rfl)
      (allCarried_report (g (report u b)) b) (rejudged_report (g (report u b)) b).path.onward
  refine ⟨afterRejudging_twice u b hg, fun c hc hb hun => ?_⟩
  rw [judgeHeld_refreshIndicator, judgeHeld_reevaluate, hj]
  have hc' := both c hc hb hun
  simp only [hj, ite_self] at hc'
  exact hc'

/-! ### Draining -/

/-- A job that is not DRAINING, or whose list is not empty, has no drain to end (R16). -/
theorem settleDrain_standing {s : State} {j : JobId} (h : s.list (s.job j).bay ≠ []) : settleDrain s j = s := by
  unfold settleDrain
  split
  · rw [if_neg (by simpa using h)]
  · rfl

theorem settleDrain_not_draining {s : State} {j : JobId} (h : ∀ t, (s.job j).state ≠ .draining t) :
    settleDrain s j = s := by
  unfold settleDrain
  split
  · next t e => exact absurd e (h t)
  · rfl

theorem settleDrain_empty {s : State} {j : JobId} {t : DrainTarget} (hs : (s.job j).state = .draining t)
    (hl : s.list (s.job j).bay = []) : settleDrain s j = enterTarget s j t := by
  unfold settleDrain
  rw [hs]
  simp [hl]

/-! ### LOAD_JOB -/

theorem checkJob_range_first {s : State} {x : JobImage} (h : 16 ≤ x.bay ∨ x.key = 0 ∨ 15 < x.key ∨ 8 ≤ x.program) :
    checkJob s x = .error .range := by
  unfold checkJob
  split
  · rfl
  · next b hb =>
    have hb16 : x.bay < 16 := by
      by_contra h16
      rw [bayOf_eq_none (by omega)] at hb
      cases hb
    split
    · rfl
    · have hp : programOf x.program = none := by simp [programOf]; omega
      rw [hp]

/-- What the fields behind the program's number make of LOAD JOB (R2). -/
theorem checkJob_behind {s : State} {x : JobImage} {b : BayId} {p : ProgramId} (hb : b.val = x.bay)
    (hp : p.val = x.program) (hk : ¬ (x.key = 0 ∨ 15 < x.key)) :
    checkJob s x =
      if (s.tables.programs[p]).isNone then .error .badProgram
      else if 4095 < x.extentFirst ∨ 4096 < x.extentFirst + x.extentCount ∨ x.stripeRequest = 0 ∨
        65535 < x.stripeRequest ∨ 1024 < x.tolerance ∨ 16 < x.labelLength then .error .range
      else .ok (loadedJob x b p) := by
  have hp' : programOf x.program = some p := by rw [← hp]; simp [programOf]
  unfold checkJob
  rw [← hb, bayOf_val, hp']
  simp only [hk, if_false]
  split
  · rfl
  · repeat' split
    all_goals first | rfl | (exfalso; omega)

/-- A program that is not loaded (R27). -/
theorem program_unloaded {s : State} {p : ProgramId} {n : Nat} (hp : p.val = n) :
    (s.tables.programs[p]).isNone = true ↔ s.tables.programs[n]? = some none := by
  subst hp
  simp

/-- LOAD JOB of a record that passed its checks writes it into a slot that is FREE or LOADED (R2, R4). -/
theorem afterRejudging_load {s : State} {j : JobId} {x : Job} (hs : (s.job j).state = .free ∨ (s.job j).state = .loaded)
    (hx : x.state = .loaded) : AfterRejudging x.bay (s.putJob j x) (changeJob s j x) := by
  rcases hs with hs | hs
  · have hne : (s.job j).state ≠ x.state := by rw [hs, hx]; nofun
    have h := (reported_changeJob hne).1
    rwa [written_of_kept (.inr (by rw [hs]; rfl)), changedBay, if_pos hs] at h
  · rw [changeJob_same (hs.trans hx.symm)]
    exact ⟨rfl, fun _ _ => rfl, .inl rfl, List.prefix_rfl, fun _ h => h, fun _ h _ _ => h, fun _ h => h,
      fun _ h => .inl h, fun _ => .inl rfl, fun _ => ⟨rfl, rfl, rfl, rfl⟩⟩

/-- Settles O26: the checks of `checkJob` in their order, then one write of the record. -/
theorem loadJobWritesTheRecord : Obligations.LoadJobWritesTheRecord := by
  unfold Obligations.LoadJobWritesTheRecord
  rintro s c rest x ⟨hm, hi⟩
  simp only [exec, execLoadJob, takeManagement_front hm hi]
  refine ⟨fun h => by rw [onSlot_high h, refuse_putManagement], fun j hj => ?_⟩
  rw [← hj, onSlot_val]
  simp only [State.putManagement_job, accept_putManagement, refuse_putManagement]
  by_cases hs : (s.job j).state = .free ∨ (s.job j).state = .loaded
  case neg => rw [if_neg hs, if_pos (by tauto)]
  rw [if_pos hs, if_neg (by tauto)]
  by_cases hr : 16 ≤ x.bay ∨ x.key = 0 ∨ 15 < x.key ∨ 8 ≤ x.program
  · rw [if_pos hr, checkJob_range_first hr]
  obtain ⟨b, hb⟩ : ∃ b : BayId, b.val = x.bay := ⟨⟨x.bay, by omega⟩, rfl⟩
  obtain ⟨p, hp⟩ : ∃ p : ProgramId, p.val = x.program := ⟨⟨x.program, by omega⟩, rfl⟩
  rw [if_neg hr, checkJob_behind hb hp (by omega)]
  simp only [program_unloaded hp, State.putManagement_tables]
  split
  · rfl
  · split
    · rfl
    · exact ⟨_, b, p, hb, hp, rfl, afterRejudging_load (s := accepted s c rest) (x := loadedJob x b p) hs rfl⟩

/-! ### RELEASE and CANCEL_TRIGGER -/

/-- A CLOSED job becomes FREE, and its bay is told (R24). -/
theorem release_reported {s : State} {j : JobId} (h : (s.job j).state = .closed) :
    Reported (s.job j).bay (s.putJob j Job.free) (freeJob s j) := by
  refine reported_activate ?_ ?_ (.inr ?_) <;> rw [h]
  · nofun
  · nofun
  · rfl

/-- The effect of CANCEL TRIGGER on a slot, by the states in which a latch can be set (R13). -/
theorem exec_cancelTrigger {s : State} {c : ManagementCommand} {rest : List ManagementCommand} {j : JobId}
    (h : AtFront s c rest (.cancelTrigger j.val)) : exec (.cancelTrigger j.val) s = .next (
      if (s.job j).state.latching then
        if (s.job j).latch then (accepted s c rest).putJob j { s.job j with latch := false }
        else replied s c rest (.refused .nothingLatched) .nothing
      else replied s c rest (.refused .state) .nothing) := by
  have hc : accept (clearLatch (s.putManagement rest) j) c =
      (accepted s c rest).putJob j { s.job j with latch := false } := by
    unfold accept; rw [reply_eq]; rfl
  simp only [exec, execCancelTrigger, takeManagement_front h.1 h.2, onSlot_val, State.putManagement_job, hc,
    refuse_putManagement]

/-- Settles O29: RELEASE is one change of a record that is not active; CANCEL TRIGGER writes the latch alone. -/
theorem cancelTriggerAndRelease : Obligations.CancelTriggerAndRelease := by
  unfold Obligations.CancelTriggerAndRelease
  refine fun s c rest slot => ⟨fun h => ⟨fun hn => ?_, fun j hj => ?_⟩, fun h => ⟨fun hn => ?_, fun j hj => ?_⟩⟩
  · simp only [exec, execRelease, takeManagement_front h.1 h.2, onSlot_high hn, refuse_putManagement]
  · subst hj
    simp only [exec, execRelease, takeManagement_front h.1 h.2, onSlot_val, State.putManagement_job,
      accept_putManagement, refuse_putManagement]
    split
    · next hs => exact ⟨_, rfl, release_reported (s := accepted s c rest) hs⟩
    · rfl
  · simp only [exec, execCancelTrigger, takeManagement_front h.1 h.2, onSlot_high hn, refuse_putManagement]
  · subst hj
    have e := exec_cancelTrigger h
    dsimp only
    cases hs : (s.job j).state
    all_goals
      simp only [hs, JobState.latching, if_true, Bool.false_eq_true, if_false] at e
      rw [e]
    all_goals first | rfl | exact ⟨fun hl => by rw [if_pos hl], fun hl => by rw [if_neg (by simp [hl])]⟩

/-! ### PAUSE -/

/-- The walk restarts where Safety.lean says it would (R47). -/
theorem restartPosition_eq (s : State) (x : Job) (w : WalkContext) : restartPosition s x w = restartAt s x w := by
  unfold restartPosition restartAt
  split <;> rename_i h <;> rw [h]

/-- Safety's restart position rests on the bay's list, extent memory and what the job's list is cut from. -/
theorem restartAt_congr {s t : State} {x y : Job} {w : WalkContext} (ht : t.tables = s.tables)
    (hl : t.list x.bay = s.list x.bay) (hb : y.bay = x.bay) (he : jobExtents s y = jobExtents s x) :
    restartAt t y w = restartAt s x w := by
  have he' : jobExtents t y = jobExtents s x := by rw [← he]; unfold jobExtents; rw [ht]
  unfold restartAt
  rw [hb, hl, he']

/-- The walk context of a bay whose job stops: the resume cursor is recorded (R47). -/
theorem recordResume_eq (s : State) (j : JobId) : recordResume s j = s.putContext (s.job j).bay
    ((s.context (s.job j).bay).map fun w => { w with resumeCursor := some (restartAt s (s.job j) w) }) := by
  unfold recordResume State.modContext
  simp only [restartPosition_eq]

/-- A running or draining job whose list is not empty drains (R16). -/
theorem enterDraining_standing {s : State} {j : JobId} {t : DrainTarget} (hl : s.list (s.job j).bay ≠ []) :
    enterDraining s j t = changeJob s j { s.job j with state := .draining t } := by
  unfold enterDraining
  rw [setState_eq, settleDrain_standing (by simpa using hl)]

theorem enterDraining_empty {s : State} {j : JobId} {t : DrainTarget} (hl : s.list (s.job j).bay = []) :
    enterDraining s j t = enterTarget (changeJob s j { s.job j with state := .draining t }) j t := by
  unfold enterDraining
  rw [setState_eq, settleDrain_empty (t := t) (by simp) (by simpa using hl)]

theorem judgeHeld_report (s : State) (b : BayId) (c : PassCommand) : judgeHeld (report s b) c = judgeHeld s c := by
  rw [judgeHeld_refreshIndicator, judgeHeld_reevaluate]

/-- What a stop writes: the job's record and its bay's walk context. -/
def stopping (b : BayId) (w : Option WalkContext) (j : JobId) (x : Job) (s : State) : State :=
  (s.putJob j x).putContext b w

theorem aside_stopping (b : BayId) (w : Option WalkContext) (j : JobId) (x : Job) : Aside (stopping b w j x) :=
  fun _ _ => rfl

theorem judgeHeld_stopping {s : State} {b : BayId} {w : Option WalkContext} {j : JobId} {x : Job}
    (hx : x.state.active = (s.job j).state.active ∧ x.bay = (s.job j).bay ∧ x.key = (s.job j).key) (c : PassCommand) :
    judgeHeld (stopping b w j x s) c = judgeHeld s c := by
  refine judgeHeld_congr (s := s) (t := stopping b w j x s) rfl (fun k => ?_)
    (fun b => ⟨rfl, rfl, rfl, fun i => ⟨rfl, rfl⟩⟩) (fun b => ⟨rfl, rfl⟩) c
  have hk : (stopping b w j x s).job k = if k = j then x else s.job k := State.putJob_job s j k x
  rw [hk]
  split
  · next e => subst e; exact hx
  · exact ⟨rfl, rfl, rfl⟩

/-- The walk context with the place where the job would restart now. -/
abbrev resumable (s : State) (x : Job) : Option WalkContext :=
  (s.context x.bay).map fun w => { w with resumeCursor := some (restartAt s x w) }

/-- A job stops into PAUSED with its resume cursor recorded. -/
theorem pause_eq {s : State} {j : JobId} (hs : (s.job j).state = .waitingTrigger ∨ ∃ t, (s.job j).state = .draining t) :
    setState (recordResume s j) j .paused =
      report (stopping (s.job j).bay (resumable s (s.job j)) j { s.job j with state := .paused } s) (s.job j).bay := by
  rw [recordResume_eq, setState_eq]
  have hs' : ∀ w, ((s.putContext (s.job j).bay w).job j) = s.job j := fun _ => rfl
  refine (changeJob_report ?_ ?_ (.inl ?_)).trans ?_
  · rcases hs with hs | ⟨t, hs⟩ <;> rw [hs', hs] <;> nofun
  · rcases hs with hs | ⟨t, hs⟩ <;> rw [hs', hs] <;> nofun
  · rfl
  · rfl

/-- The place of a restart is the same before and behind a report, for a record of the same list. -/
theorem resumable_report {s : State} {j : JobId} {x y : Job} {b : BayId} (hb : y.bay = x.bay)
    (he : jobExtents s y = jobExtents s x) : resumable (report (s.putJob j y) b) y = resumable s x := by
  have hr : ∀ w, restartAt (report (s.putJob j y) b) y w = restartAt s x w :=
    fun w => restartAt_congr (by simp) (by simp) hb he
  unfold resumable
  simp [hr, hb]

/-- A running job whose list is empty drains at once: two changes of its record, of which the filter sees one. -/
theorem reported_pause_at_once {s : State} {j : JobId} {x : Job} (hx : s.job j = x) (hs : x.state = .running)
    (hl : s.list x.bay = []) :
    Reported x.bay (stopping x.bay (resumable s x) j { x with state := .paused } s) (enterDraining s j .paused) := by
  have e1 : changeJob s j { x with state := .draining .paused } =
      report (s.putJob j { x with state := .draining .paused }) x.bay := by
    rw [← hx] at hs ⊢
    exact changeJob_report (by rw [hs]; nofun) (by rw [hs]; nofun) (.inl rfl)
  rw [enterDraining_empty (by rw [hx]; exact hl), hx, e1]
  have ej : (report (s.putJob j { x with state := .draining .paused }) x.bay).job j =
      { x with state := .draining .paused } := by simp
  have e2 := pause_eq (.inr ⟨_, congrArg Job.state ej⟩)
  have ew : resumable (report (s.putJob j { x with state := .draining .paused }) x.bay)
      { x with state := .draining .paused } = resumable s x := resumable_report rfl rfl
  rw [ej, ew] at e2
  rw [show enterTarget _ j .paused = _ from e2]
  have h := reported_twice (s.putJob j { x with state := .draining .paused }) x.bay
    (aside_stopping x.bay (resumable s x) j { x with state := .paused }) rfl fun c => ?_
  · have e : stopping x.bay (resumable s x) j { x with state := .paused }
        (s.putJob j { x with state := .draining .paused }) =
      stopping x.bay (resumable s x) j { x with state := .paused } s := by
      unfold stopping; rw [putJob_putJob]
    rw [e] at h
    exact h
  · rw [judgeHeld_stopping (by rw [ej]; exact ⟨rfl, rfl, rfl⟩), judgeHeld_report]

/-- Settles O30: with entries in flight one change into DRAINING; else the job pauses at once. -/
theorem pauseDrainsOrStops : Obligations.PauseDrainsOrStops := by
  unfold Obligations.PauseDrainsOrStops
  rintro s c rest slot ⟨hm, hi⟩
  simp only [exec, execPause, takeManagement_front hm hi]
  refine ⟨fun h => by rw [onSlot_high h, refuse_putManagement], fun j hj => ?_⟩
  subst hj
  rw [onSlot_val]
  simp only [State.putManagement_job, accept_putManagement, refuse_putManagement]
  cases hs : (s.job j).state with
  | running =>
    by_cases hl : s.list (s.job j).bay = []
    · simp only [hl, ne_eq, not_true_eq_false, and_false, if_false, true_or, if_true]
      exact ⟨_, rfl, reported_pause_at_once (s := accepted s c rest) rfl hs hl⟩
    · simp only [hl, ne_eq, not_false_eq_true, and_true, if_true]
      refine ⟨_, rfl, ?_⟩
      rw [enterDraining_standing (s := accepted s c rest) hl]
      exact reported_activate (s := accepted s c rest) (by simp [hs]) (by simp [hs]) (.inl rfl)
  | waitingTrigger =>
    simp only [reduceCtorEq, false_and, if_false, false_or, if_true]
    refine ⟨_, rfl, ?_⟩
    rw [pause_eq (s := accepted s c rest) (.inl hs)]
    exact reported_report ..
  | _ => simp

/-! ### CANCEL -/

/-- What the entry to FINISHING writes: the job's record, its bay's empty walk context, and the pending records. -/
def finishing (b : BayId) (j : JobId) (x : Job) (ps : List PendingRecord) (s : State) : State :=
  ((s.putJob j x).putContext b none).putBuilding ps

theorem aside_finishing (b : BayId) (j : JobId) (x : Job) (ps : List PendingRecord) : Aside (finishing b j x ps) :=
  fun _ _ => rfl

/-- An active job enters FINISHING by one change of its record (R23, R33, R166). -/
theorem enterFinishing_eq {s : State} {j : JobId} {x : Job} {o : RunOutcome} (hx : s.job j = x)
    (hs : x.state ≠ .finishing) (hf : x.state ≠ .free) : enterFinishing s j o =
      report (finishing x.bay j (closing x o) (s.building ++ [{ slot := j, record := none }]) s) x.bay := by
  subst hx
  exact changeJob_report hs hf (.inl rfl)

/-- A job that stops for good enters FINISHING with one report. -/
theorem afterRejudging_finish {s : State} {j : JobId} {x : Job} {o : RunOutcome} (hx : s.job j = x)
    (hs : x.state ≠ .finishing) (hf : x.state ≠ .free) : AfterRejudging x.bay
      (finishing x.bay j (closing x o) (s.building ++ [{ slot := j, record := none }]) s) (enterFinishing s j o) := by
  rw [enterFinishing_eq hx hs hf]
  exact (reported_report ..).1

/-- A job that drains with nothing in flight enters FINISHING by way of DRAINING (R16). -/
theorem afterRejudging_finish_at_once {s : State} {j : JobId} {x : Job} {o : RunOutcome} (hx : s.job j = x)
    (hs : x.state ≠ .draining (.finishing o)) (hf : x.state ≠ .free) (hl : s.list x.bay = []) : AfterRejudging x.bay
      (finishing x.bay j (closing x o) (s.building ++ [{ slot := j, record := none }]) s)
      (enterDraining s j (.finishing o)) := by
  have e1 : changeJob s j { x with state := .draining (.finishing o) } =
      report (s.putJob j { x with state := .draining (.finishing o) }) x.bay := by
    subst hx
    exact changeJob_report hs hf (.inl rfl)
  rw [enterDraining_empty (by rw [hx]; exact hl), hx, e1]
  have e2 : enterTarget (report (s.putJob j { x with state := .draining (.finishing o) }) x.bay) j (.finishing o) = _ :=
    enterFinishing_eq (x := { x with state := .draining (.finishing o) }) (by simp) nofun nofun
  rw [e2]
  have h := afterRejudging_twice (s.putJob j { x with state := .draining (.finishing o) }) x.bay
    (aside_finishing x.bay j (closing x o) (s.building ++ [{ slot := j, record := none }]))
  have e : finishing x.bay j (closing x o) (s.building ++ [{ slot := j, record := none }])
      (s.putJob j { x with state := .draining (.finishing o) }) =
    finishing x.bay j (closing x o) (s.building ++ [{ slot := j, record := none }]) s := by
    unfold finishing; rw [putJob_putJob]
  have eb : (report (s.putJob j { x with state := .draining (.finishing o) }) x.bay).building = s.building := by simp
  rw [e] at h
  rw [eb]
  exact h

/-- A job without a run becomes FREE; where it was active its map has no owner any more (R9, R20, R88). -/
theorem afterRejudging_free {s : State} {j : JobId} {x : Job} (hx : s.job j = x) (hf : x.state ≠ .free) :
    AfterRejudging x.bay (written s j Job.free) (freeJob s j) := by
  subst hx
  have h := (reported_changeJob (s := s) (j := j) (x := Job.free) hf).1
  rwa [changedBay_of_ne_free hf] at h

/-- A scan that ends without a run: its job leaves the active group behind its cleared map (R8, R9, R66, R88). -/
theorem changeJob_clearMap {s : State} {j : JobId} {x y : Job} {n e : Nat} (hx : s.job j = x)
    (hs : x.state = .preparing (.scanning n e)) (hy : y.state.active = false) :
    changeJob (clearMap s x.bay) j y = report ((clearMap s x.bay).putJob j y) x.bay := by
  have hj : (clearMap s x.bay).job j = x := by unfold clearMap; simpa using hx
  have hf : x.state ≠ .free := by rw [hs]; nofun
  have hne : x.state ≠ y.state := fun h => by rw [← h, hs] at hy; exact Bool.false_ne_true hy.symm
  have hw : written (clearMap s x.bay) j y = (clearMap s x.bay).putJob j y := by
    rw [written_of_left (by rw [hj, hs]; rfl) hy, changedBay_of_ne_free (by rw [hj]; exact hf), hj]
    unfold disown
    rw [if_neg]
    simp [clearMap, CoverageMap.cleared]
  have h := changeJob_new (s := clearMap s x.bay) (j := j) (x := y) (by rw [hj]; exact hne)
  rwa [hw, changedBay_of_ne_free (by rw [hj]; exact hf), hj] at h

theorem afterRejudging_clearMap {s : State} {j : JobId} {x y : Job} {n e : Nat} (hx : s.job j = x)
    (hs : x.state = .preparing (.scanning n e)) (hy : y.state.active = false) :
    AfterRejudging x.bay ((s.putMap x.bay CoverageMap.cleared).putJob j y) (changeJob (clearMap s x.bay) j y) := by
  rw [changeJob_clearMap hx hs hy]
  exact (((rejudged_reevaluate (s.putMap x.bay CoverageMap.cleared) x.bay).map (aside_putJob j y)).trans
    (rejudged_report _ _)).afterRejudging (shown_refreshIndicator _ _)

/-- A job whose scan had begun becomes FREE behind its cleared map (R9, R20, R66). -/
theorem afterRejudging_free_scan {s : State} {j : JobId} {x : Job} {n e : Nat} (hx : s.job j = x)
    (hs : x.state = .preparing (.scanning n e)) :
    AfterRejudging x.bay ((s.putJob j Job.free).putMap x.bay CoverageMap.cleared)
      (freeJob (clearMap s x.bay) j) :=
  afterRejudging_clearMap hx hs rfl

/-- CANCEL of a running or draining job: it drains, or finishes at once with nothing in flight (R16, R20). -/
theorem cancel_drains {s : State} {j : JobId} {x : Job} {r : Host.Outcome State Fault Refusal} (hx : s.job j = x)
    (hr : r = .next (enterDraining s j (.finishing .cancelled))) (hf : x.state ≠ .free)
    (hs : x.state ≠ .draining (.finishing .cancelled)) :
    if s.list x.bay = [] then ∃ t, r = .next t ∧ AfterRejudging x.bay
      (finishing x.bay j (closing x .cancelled) (s.building ++ [{ slot := j, record := none }]) s) t
    else ∃ t, r = .next t ∧
      AfterRejudging x.bay (s.putJob j { x with state := .draining (.finishing .cancelled) }) t := by
  split
  · next hl => exact ⟨_, hr, afterRejudging_finish_at_once hx hs hf hl⟩
  · next hl =>
    refine ⟨_, hr, ?_⟩
    subst hx
    rw [enterDraining_standing hl]
    exact (reported_activate hs hf (.inl rfl)).1

/-- Settles O32: the state of the job picks one of the changes above. -/
theorem cancelEndsTheJob : Obligations.CancelEndsTheJob := by
  unfold Obligations.CancelEndsTheJob
  rintro s c rest slot ⟨hm, hi⟩
  simp only [exec, execCancel, takeManagement_front hm hi]
  refine ⟨fun h => by rw [onSlot_high h, refuse_putManagement], fun j hj => ?_⟩
  subst hj
  rw [onSlot_val]
  simp only [State.putManagement_job, accept_putManagement, refuse_putManagement]
  have frees := afterRejudging_free (s := accepted s c rest) (j := j) rfl
  have finishes := afterRejudging_finish (s := accepted s c rest) (j := j) (o := .cancelled) rfl
  have drains := cancel_drains (s := accepted s c rest) (j := j) rfl rfl
  simp only [replied_job] at frees finishes drains
  cases hs : (s.job j).state with
  | loaded =>
    have h := frees (by simp [hs])
    rw [written_of_kept (.inr (by simp [hs, JobState.active]))] at h
    exact ⟨_, rfl, h⟩
  | waitingBay =>
    have h := frees (by simp [hs])
    rw [written_of_left (by simp [hs, JobState.active]) rfl, changedBay_of_ne_free (by simp [hs])] at h
    exact ⟨_, rfl, h⟩
  | preparing p =>
    cases p with
    | draining =>
      have h := frees (by simp [hs])
      rw [written_of_left (by simp [hs, JobState.active]) rfl, changedBay_of_ne_free (by simp [hs])] at h
      exact ⟨_, rfl, h⟩
    | scanning n e => exact ⟨_, rfl, afterRejudging_free_scan (s := accepted s c rest) rfl hs⟩
  | running => exact drains (by simp [hs]) (by simp [hs])
  | draining t =>
    cases t with
    | paused => exact drains (by simp [hs]) (by simp [hs])
    | halted r => exact drains (by simp [hs]) (by simp [hs])
    | finishing o => rfl
  | waitingTrigger => exact ⟨_, rfl, finishes (by simp [hs]) (by simp [hs])⟩
  | paused => exact ⟨_, rfl, finishes (by simp [hs]) (by simp [hs])⟩
  | halted => exact ⟨_, rfl, finishes (by simp [hs]) (by simp [hs])⟩
  | _ => rfl

/-! ### READ_JOB_STATUS and READ_BAY_STATUS -/

/-- The passthrough slots are those below 8, the engine's the others (R121). -/
theorem passthroughSlots_eq : passthroughSlots = (List.finRange 32).filter fun k : SlotId => decide (k.val < 8) := by
  decide

theorem engineSlots_eq : engineSlots = (List.finRange 32).filter fun k : SlotId => decide (8 ≤ k.val) := by
  decide

@[simp] theorem getElem?_allBays (d : BayId) : allBays[d.val]? = some d := by revert d; decide

@[simp] theorem length_allBays : allBays.length = 16 := rfl

theorem isOf_engine (d : BayId) (o : SlotOwner) : o.isOf d .engine =
    match o with
    | .engine c _ => decide (c = d)
    | .passthrough _ _ _ => false
    | .free => false := by
  cases o <;> simp [SlotOwner.isOf]

theorem isOf_passthrough (d : BayId) (o : SlotOwner) : o.isOf d .passthrough =
    match o with
    | .passthrough c _ _ => decide (c = d)
    | .engine _ _ => false
    | .free => false := by
  cases o <;> simp [SlotOwner.isOf]

/-- A bay is stalled while one of its records is ABORTING (R111). -/
theorem stalled_iff (s : State) (b : BayId) :
    stalled s b = true ↔ ((s.port b).queue.filter fun r => decide (r.status = .aborting)).length ≠ 0 := by
  simp [stalled]

/-- Settles O33: both commands reply with what stands, and write nothing. -/
theorem statusRepliesCarryTheRecords : Obligations.StatusRepliesCarryTheRecords := by
  unfold Obligations.StatusRepliesCarryTheRecords
  refine fun s c rest n => ⟨fun h => ⟨fun hn => ?_, fun j hj => ?_⟩, fun h => ⟨fun hn => ?_, fun b hb => ?_⟩⟩
  · simp only [exec, execReadJobStatus, takeManagement_front h.1 h.2, jobOf_eq_none hn, refuse_putManagement]
  · subst hj
    simp only [exec, execReadJobStatus, takeManagement_front h.1 h.2, jobOf_val, reply_putManagement]
    rfl
  · simp only [exec, execReadBayStatus, takeManagement_front h.1 h.2, bayOf_eq_none hn, refuse_putManagement]
  · subst hb
    refine ⟨bayReport s b, ?_, ?_⟩
    · simp only [exec, execReadBayStatus, takeManagement_front h.1 h.2, bayOf_val, reply_putManagement]
      rfl
    · refine ⟨rfl, rfl, rfl, ?_, ?_, rfl, rfl, rfl, rfl, rfl, rfl, ?_, rfl, fun d => ?_, ?_, ?_, rfl, rfl, fun d => ?_⟩
      · cases h : (s.port b).state <;> simp [bayReport, h, BayState.occupied]
      · simp [bayReport, Option.isSome_iff_ne_none]
      · simp [bayReport, Option.isSome_iff_ne_none]
      · refine ⟨queueReport s d, ?_, rfl, rfl, rfl, stalled_iff s d⟩
        simp only [bayReport, List.getElem?_map, getElem?_allBays, Option.map_some]
      · simp only [bayReport, slotsFree, passthroughSlots_eq, List.filter_filter]
        exact congrArg List.length (List.filter_congr fun k _ => by simp [slotFree, Bool.and_comm])
      · simp only [bayReport, slotsFree, engineSlots_eq, List.filter_filter]
        exact congrArg List.length (List.filter_congr fun k _ => by simp [slotFree, Bool.and_comm])
      · simp only [bayReport, List.getElem?_map, getElem?_allBays, Option.map_some, slotsOwned, passthroughSlots_eq,
          engineSlots_eq, List.filter_filter, isOf_engine, isOf_passthrough, Bool.and_comm] <;> rfl

end Sys2Proof.Proofs
end

section
/-! Units and passes: what the walk of a job rests on, the unit that begins now, the passes that begin one after another,
and the commands that set a job going again, TRIGGER and RESUME (R12, R14, R19, R38, R48). -/

namespace Sys2Proof.Proofs

open Sys2Proof Sys2Proof.Machine Sys2Proof.Safety

/-! ### What a walk rests on -/

/-- Two records give the walk the same list, stripe and bay. -/
structure SameWalk (x y : Job) : Prop where
  bay : y.bay = x.bay := by rfl
  first : y.extentFirst = x.extentFirst := by rfl
  count : y.extentCount = x.extentCount := by rfl
  identity : y.identity = x.identity := by rfl
  geometry : y.geometry = x.geometry := by rfl

/-- Two maps give the walk the same zones: their shift and their due counts. -/
structure SameDue (m n : CoverageMap) : Prop where
  z : n.z = m.z := by rfl
  due : ∀ i, (n.entries.getD i ZoneEntry.cleared).due = (m.entries.getD i ZoneEntry.cleared).due := by
    exact fun _ => rfl

theorem jobCapacity_congr {x y : Job} (h : SameWalk x y) : jobCapacity y = jobCapacity x := by
  unfold jobCapacity; rw [h.identity]

theorem jobStripe_congr {x y : Job} (h : SameWalk x y) : jobStripe y = jobStripe x := by
  unfold jobStripe; rw [h.geometry]

theorem jobExtents_congr {s t : State} {x y : Job} (ht : t.tables = s.tables) (h : SameWalk x y) :
    jobExtents t y = jobExtents s x := by
  unfold jobExtents; rw [ht, h.first, h.count, jobCapacity_congr h]

theorem passEnd_congr {s t : State} {x y : Job} (ht : t.tables = s.tables) (h : SameWalk x y) (w : WalkContext) :
    passEnd t y w = passEnd s x w := by
  unfold passEnd; rw [jobExtents_congr ht h, jobCapacity_congr h]

theorem issues_congr {m n : CoverageMap} (h : SameDue m n) (w : WalkContext) (xs : List Extent) (S : Nat) (t : Stripe) :
    issues w n xs S t = issues w m xs S t := by
  unfold issues
  dsimp only
  rw [h.z, h.due]

theorem findIssued_congr {m n : CoverageMap} (h : SameDue m n) (w : WalkContext) (xs : List Extent) (S : Nat) (k : Nat) :
    ∀ p, findIssued w n xs S k p = findIssued w m xs S k p := by
  induction k with
  | zero => exact fun _ => rfl
  | succ k ih => intro p; unfold findIssued; simp only [issues_congr h, ih]

theorem nextStripe_congr {s t : State} {x y : Job} (ht : t.tables = s.tables) (h : SameWalk x y)
    (hm : SameDue (s.map x.bay) (t.map x.bay)) (w : WalkContext) : nextStripe t y w = nextStripe s x w := by
  unfold nextStripe
  dsimp only
  rw [jobExtents_congr ht h, jobStripe_congr h, h.bay, findIssued_congr hm]

/-- The search for the next stripe reads neither the unit's end nor the resume cursor. -/
theorem findIssued_unit (w : WalkContext) (u r : Option Position) (m : CoverageMap) (xs : List Extent) (S k : Nat) :
    ∀ p, findIssued { w with unitEnd := u, resumeCursor := r } m xs S k p = findIssued w m xs S k p := by
  induction k with
  | zero => exact fun _ => rfl
  | succ k ih => intro p; unfold findIssued; simp only [ih]; rfl

theorem nextStripe_unit (s : State) (x : Job) (w : WalkContext) (u : Option Position) :
    nextStripe s x { w with unitEnd := u } = nextStripe s x w :=
  findIssued_unit w u w.resumeCursor ..

theorem passHasWork_congr {s t : State} {x y : Job} (ht : t.tables = s.tables) (h : SameWalk x y)
    (hm : SameDue (s.map x.bay) (t.map x.bay)) (w : WalkContext) : passHasWork t y w = passHasWork s x w := by
  unfold passHasWork; rw [nextStripe_congr ht h hm, passEnd_congr ht h]

theorem unitEndNow_congr {s t : State} {x y : Job} (ht : t.tables = s.tables) (h : SameWalk x y)
    (hm : SameDue (s.map x.bay) (t.map x.bay)) (w : WalkContext) : unitEndNow t y w = unitEndNow s x w := by
  unfold unitEndNow
  dsimp only
  rw [jobExtents_congr ht h, jobCapacity_congr h, nextStripe_congr ht h hm, h.bay, hm.z]

theorem unitLeft_congr {s t : State} {x y : Job} (ht : t.tables = s.tables) (h : SameWalk x y)
    (hm : SameDue (s.map x.bay) (t.map x.bay)) (w : WalkContext) : unitLeft t y w = unitLeft s x w := by
  unfold unitLeft; rw [nextStripe_congr ht h hm]

/-! ### A unit begins -/

/-- The unit end that the grain gives for the next stripe is the one of Safety.lean (R38). -/
theorem unitEndFor_next {s : State} {x : Job} {w : WalkContext} (hk : w.kind ≠ .nativeErase) :
    ((nextStripe s x w).map fun r => unitEndFor s x w r.1 r.2) = unitEndNow s x w := by
  unfold unitEndNow
  dsimp only
  rw [if_neg hk]
  congr 1
  funext r
  unfold unitEndFor passEnd
  dsimp only
  cases w.grain <;> cases w.direction <;> rfl

theorem unitEndNow_native {s : State} {x : Job} {w : WalkContext} (hk : w.kind = .nativeErase) :
    unitEndNow s x w = some (passEnd s x w) := if_pos hk

theorem beginUnit_none {s : State} {j : JobId} (hw : s.context (s.job j).bay = none) :
    beginUnit s j = s.putJob j { s.job j with unitActive := true } := by
  unfold beginUnit
  simp only [State.putJob_context, hw]

/-- A unit begins: the flag in the job's record, and the unit end of its grain in the walk (R10, R38, R49). -/
theorem beginUnit_some {s : State} {j : JobId} {w : WalkContext} (hw : s.context (s.job j).bay = some w) :
    beginUnit s j = (s.putJob j { s.job j with unitActive := true }).putContext (s.job j).bay
      (some { w with unitEnd := unitEndNow s (s.job j) w }) := by
  unfold beginUnit
  simp only [State.putJob_context, hw]
  split <;> rename_i hk
  · rw [unitEndNow_native hk]; rfl
  · rw [← unitEndFor_next (by rw [hk]; nofun)]; rfl
  · rw [← unitEndFor_next (by rw [hk]; nofun)]; rfl

/-- Beside the job's record a unit that begins changes the walk alone. -/
theorem beginUnit_frame (s : State) (j : JobId) : beginUnit s j =
    { s.putJob j { s.job j with unitActive := true } with walk := (beginUnit s j).walk } := by
  cases hw : s.context (s.job j).bay with
  | none => rw [beginUnit_none hw]
  | some w => rw [beginUnit_some hw]; rfl

/-- A unit begins with the unit end of its grain (R38, R49). -/
theorem beginUnit_context_same (s : State) (j : JobId) : (beginUnit s j).context (s.job j).bay =
    (s.context (s.job j).bay).map fun w => { w with unitEnd := unitEndNow s (s.job j) w } := by
  cases hw : s.context (s.job j).bay with
  | none => rw [beginUnit_none hw]; exact hw
  | some w => rw [beginUnit_some hw]; exact State.putContext_context_same ..

theorem beginUnit_context_other (s : State) (j : JobId) {b : BayId} (hb : b ≠ (s.job j).bay) :
    (beginUnit s j).context b = s.context b := by
  cases hw : s.context (s.job j).bay with
  | none => rw [beginUnit_none hw]; rfl
  | some w => rw [beginUnit_some hw, State.putContext_context, if_neg hb]; rfl

@[simp] theorem beginUnit_job_same (s : State) (j : JobId) :
    (beginUnit s j).job j = { s.job j with unitActive := true } := by
  rw [beginUnit_frame]; exact State.putJob_job_same ..

/-! ### Attention raised -/

section
variable (s : State) (b : BayId) (k : AttentionKind)
/-- An attention kind that is raised changes the attention set and what is sent. -/
theorem raise_frame : raise s b k = { s with attention := (raise s b k).attention, sent := (raise s b k).sent } := by
  unfold raise
  dsimp only
  split
  · rfl
  · split
    · rfl
    · rw [send_eq]; rfl

@[simp] theorem raise_link : (raise s b k).link = s.link := by rw [raise_frame]
@[simp] theorem raise_tags : (raise s b k).tags = s.tags := by rw [raise_frame]
@[simp] theorem raise_toDrive : (raise s b k).toDrive = s.toDrive := by rw [raise_frame]
@[simp] theorem raise_tables : (raise s b k).tables = s.tables := by rw [raise_frame]
@[simp] theorem raise_wait : (raise s b k).wait = s.wait := by rw [raise_frame]
@[simp] theorem raise_hold : (raise s b k).hold = s.hold := by rw [raise_frame]
@[simp] theorem raise_clock : (raise s b k).clock = s.clock := by rw [raise_frame]
@[simp] theorem raise_runCounter : (raise s b k).runCounter = s.runCounter := by rw [raise_frame]
@[simp] theorem raise_jobs : (raise s b k).jobs = s.jobs := by rw [raise_frame]
@[simp] theorem raise_walk : (raise s b k).walk = s.walk := by rw [raise_frame]
@[simp] theorem raise_inFlight : (raise s b k).inFlight = s.inFlight := by rw [raise_frame]
@[simp] theorem raise_slots : (raise s b k).slots = s.slots := by rw [raise_frame]
@[simp] theorem raise_coverage : (raise s b k).coverage = s.coverage := by rw [raise_frame]
@[simp] theorem raise_ports : (raise s b k).ports = s.ports := by rw [raise_frame]
@[simp] theorem raise_building : (raise s b k).building = s.building := by rw [raise_frame]
@[simp] theorem raise_nextRequest : (raise s b k).nextRequest = s.nextRequest := by rw [raise_frame]
@[simp] theorem raise_job (j : JobId) : (raise s b k).job j = s.job j := by simp [State.job]
@[simp] theorem raise_port (c : BayId) : (raise s b k).port c = s.port c := by simp [State.port]
@[simp] theorem raise_map (c : BayId) : (raise s b k).map c = s.map c := by simp [State.map]
@[simp] theorem raise_context (c : BayId) : (raise s b k).context c = s.context c := by simp [State.context]
@[simp] theorem raise_list (c : BayId) : (raise s b k).list c = s.list c := by simp [State.list]
@[simp] theorem raise_slot (i : SlotId) : (raise s b k).slot i = s.slot i := by simp [State.slot]
@[simp] theorem raise_program (p : ProgramId) : (raise s b k).program p = s.program p := by simp [State.program]
@[simp] theorem raise_zone (c : BayId) (i : Nat) : (raise s b k).zone c i = s.zone c i := by simp [State.zone]
@[simp] theorem raise_tagInUse (x : Tag) : (raise s b k).tagInUse x = s.tagInUse x := by simp [State.tagInUse]
end

/-! ### What the work on a job of a bay leaves alone -/

/-- What the job controller and the walk engine may change when they carry a run on: of the job table the run's fields
of the job alone, of the maps the done counts, of the walks the bay's own; beside these the passthrough path, the
attention sets and what the indicators show. -/
structure RunFrame (b : BayId) (j : JobId) (s t : State) : Prop where
  inner : Inner s t
  job : t.job j = { s.job j with
    state := (t.job j).state, haltReason := (t.job j).haltReason, outcome := (t.job j).outcome
    passIndex := (t.job j).passIndex, passComplete := (t.job j).passComplete, latch := (t.job j).latch
    unitActive := (t.job j).unitActive, passEnds := (t.job j).passEnds, permille := (t.job j).permille }
  others : ∀ k, k ≠ j → t.job k = s.job k
  runCounter : t.runCounter = s.runCounter
  inFlight : t.inFlight = s.inFlight
  slots : t.slots = s.slots
  toDrive : t.toDrive = s.toDrive
  map : ∀ c, t.map c = { s.map c with entries := (t.map c).entries }
  length : ∀ c, (t.map c).entries.length = (s.map c).entries.length
  zone : ∀ c i, t.zone c i = { s.zone c i with done := (t.zone c i).done }
  walks : ∀ c, c ≠ b → t.context c = s.context c
  building : ∀ p ∈ s.building, p ∈ t.building

theorem RunFrame.trans {b : BayId} {j : JobId} {s t u : State} (h : RunFrame b j s t) (k : RunFrame b j t u) :
    RunFrame b j s u where
  inner := h.inner.trans k.inner
  job := by rw [k.job, h.job]
  others i hi := (k.others i hi).trans (h.others i hi)
  runCounter := k.runCounter.trans h.runCounter
  inFlight := k.inFlight.trans h.inFlight
  slots := k.slots.trans h.slots
  toDrive := k.toDrive.trans h.toDrive
  map c := by rw [k.map c, h.map c]
  length c := (k.length c).trans (h.length c)
  zone c i := by rw [k.zone c i, h.zone c i]
  walks c hc := (k.walks c hc).trans (h.walks c hc)
  building p hp := k.building p (h.building p hp)

/-- The run's list, stripes and program are those of the state before. -/
theorem RunFrame.sameWalk {b : BayId} {j : JobId} {s t : State} (h : RunFrame b j s t) :
    SameWalk (s.job j) (t.job j) := by
  rw [h.job]; exact {}

theorem RunFrame.tables {b : BayId} {j : JobId} {s t : State} (h : RunFrame b j s t) : t.tables = s.tables :=
  h.inner.tables

theorem RunFrame.bay {b : BayId} {j : JobId} {s t : State} (h : RunFrame b j s t) : (t.job j).bay = (s.job j).bay := by
  rw [h.job]

theorem RunFrame.program {b : BayId} {j : JobId} {s t : State} (h : RunFrame b j s t) :
    t.program (t.job j).program = s.program (s.job j).program := by
  rw [h.job]; unfold State.program; rw [h.tables]

theorem RunFrame.list {b : BayId} {j : JobId} {s t : State} (h : RunFrame b j s t) (c : BayId) :
    t.list c = s.list c := by
  unfold State.list; rw [h.inFlight]

theorem RunFrame.sameDue {b : BayId} {j : JobId} {s t : State} (h : RunFrame b j s t) (c : BayId) :
    SameDue (s.map c) (t.map c) where
  z := by rw [h.map c]
  due i := by
    have e := congrArg ZoneEntry.due (h.zone c i)
    exact e

/-- A change that leaves every block alone but the job's record, the bay's walk, the path and the flags. -/
theorem RunFrame.of_blocks {b : BayId} {j : JobId} {s t : State} (hi : Inner s t)
    (hj : t.job j = { s.job j with
      state := (t.job j).state, haltReason := (t.job j).haltReason, outcome := (t.job j).outcome
      passIndex := (t.job j).passIndex, passComplete := (t.job j).passComplete, latch := (t.job j).latch
      unitActive := (t.job j).unitActive, passEnds := (t.job j).passEnds, permille := (t.job j).permille })
    (ho : ∀ k, k ≠ j → t.job k = s.job k) (hr : t.runCounter = s.runCounter) (hl : t.inFlight = s.inFlight)
    (hs : t.slots = s.slots) (hd : t.toDrive = s.toDrive) (hm : ∀ c, t.map c = s.map c)
    (hw : ∀ c, c ≠ b → t.context c = s.context c) (hb : ∀ p ∈ s.building, p ∈ t.building) : RunFrame b j s t where
  inner := hi
  job := hj
  others := ho
  runCounter := hr
  inFlight := hl
  slots := hs
  toDrive := hd
  map c := by rw [hm]
  length c := by rw [hm]
  zone c i := by unfold State.zone; rw [hm]
  walks := hw
  building := hb

theorem RunFrame.refl (b : BayId) (j : JobId) (s : State) : RunFrame b j s s :=
  .of_blocks (Inner.refl s) rfl (fun _ _ => rfl) rfl rfl rfl rfl (fun _ => rfl) (fun _ _ => rfl) fun _ h => h

theorem runFrame_raise (b : BayId) (j : JobId) (s : State) (c : BayId) (k : AttentionKind) :
    RunFrame b j s (raise s c k) :=
  .of_blocks (inner_raise ..) (by simp) (fun _ _ => by simp) (by simp) (by simp) (by simp) (by simp) (fun _ => by simp)
    (fun _ _ => by simp) (fun _ => by simp)

/-- A write of the run's fields of a job. -/
theorem runFrame_putJob {b : BayId} {j : JobId} {s : State} {x : Job}
    (hx : x = { s.job j with
      state := x.state, haltReason := x.haltReason, outcome := x.outcome, passIndex := x.passIndex
      passComplete := x.passComplete, latch := x.latch, unitActive := x.unitActive, passEnds := x.passEnds
      permille := x.permille })
    (ha : x.state.active = true → (s.job j).state.active = true)
    (hs : scanChecked s (s.job j) = true → scanChecked s x = true) : RunFrame b j s (s.putJob j x) := by
  have hb : x.bay = (s.job j).bay := by rw [hx]
  refine .of_blocks (inner_putJob s j x (fun h => ⟨ha h, hb⟩) hs) ?_ (fun k hk => ?_) rfl rfl rfl rfl (fun _ => rfl)
    (fun _ _ => rfl) fun _ h => h
  · rw [State.putJob_job_same]; exact hx
  · rw [State.putJob_job, if_neg hk]

theorem runFrame_clearLatch (b : BayId) (j : JobId) (s : State) : RunFrame b j s (clearLatch s j) :=
  runFrame_putJob rfl id id

theorem runFrame_putContext {b : BayId} {j : JobId} {s : State} (x : Option WalkContext) :
    RunFrame b j s (s.putContext b x) :=
  .of_blocks (inner_putContext ..) rfl (fun _ _ => rfl) rfl rfl rfl rfl (fun _ => rfl)
    (fun c hc => by rw [State.putContext_context, if_neg hc]) fun _ h => h

theorem runFrame_beginUnit {b : BayId} {j : JobId} {s : State} (hb : (s.job j).bay = b) :
    RunFrame b j s (beginUnit s j) := by
  have hj : RunFrame b j s (s.putJob j { s.job j with unitActive := true }) := runFrame_putJob rfl id id
  cases hw : s.context (s.job j).bay with
  | none => rw [beginUnit_none hw]; exact hj
  | some w => rw [beginUnit_some hw, hb]; exact hj.trans (runFrame_putContext _)

theorem runFrame_recordPassEnd (b : BayId) (j : JobId) (s : State) : RunFrame b j s (recordPassEnd s j) := by
  refine RunFrame.trans ?_ (runFrame_raise ..)
  exact runFrame_putJob rfl id id

/-- The done counts of a bay's zones return to 0 (R90). -/
theorem runFrame_clearDone (b : BayId) (j : JobId) (s : State) :
    RunFrame b j s (putEntries s b ((s.map b).entries.map fun e => { e with done := 0 })) where
  inner := inner_putEntries ..
  job := rfl
  others _ _ := rfl
  runCounter := rfl
  inFlight := rfl
  slots := rfl
  toDrive := rfl
  map c := by
    unfold putEntries
    rw [State.putMap_map]
    split
    · next e => subst e; rfl
    · rfl
  length c := by
    unfold putEntries
    rw [State.putMap_map]
    split
    · next e => subst e; simp
    · rfl
  zone c i := by
    unfold putEntries State.zone
    rw [State.putMap_map]
    split
    · next e =>
      subst e
      simp only [List.getD_eq_getElem?_getD, List.getElem?_map]
      cases (s.map c).entries[i]? <;> rfl
    · rfl
  walks _ _ := rfl
  building _ h := h

theorem runFrame_startPass {b : BayId} {j : JobId} {s : State} (hb : (s.job j).bay = b) (i : Nat) :
    RunFrame b j s (startPass s j i) := by
  unfold startPass
  dsimp only
  split
  · exact .refl b j s
  · subst hb
    refine RunFrame.trans ?_ (runFrame_putContext _)
    exact RunFrame.trans (runFrame_clearDone _ j s) (runFrame_putJob rfl id id)

/-- A change of state within the active group. -/
theorem runFrame_changeJob {b : BayId} {j : JobId} {s : State} {x : Job}
    (hx : x = { s.job j with
      state := x.state, haltReason := x.haltReason, outcome := x.outcome, passIndex := x.passIndex
      passComplete := x.passComplete, latch := x.latch, unitActive := x.unitActive, passEnds := x.passEnds
      permille := x.permille })
    (ha : (s.job j).state.active = true) (hxa : x.state.active = true)
    (hs : scanChecked s (s.job j) = true → scanChecked s x = true) : RunFrame b j s (changeJob s j x) := by
  refine .of_blocks (inner_changeJob s j x (fun _ => ⟨ha, by rw [hx]⟩) hs) ?_ (fun k hk => ?_) (by simp) (by simp)
    (by simp) (by simp) (changeJob_map (.inl hxa)) (fun _ _ => by simp) (fun _ h => by simpa using h)
  · rw [changeJob_job_same]; exact hx
  · rw [job_changeJob, if_neg hk]

theorem runFrame_putBuilding (b : BayId) (j : JobId) (s : State) (p : PendingRecord) :
    RunFrame b j s (s.putBuilding (s.building ++ [p])) :=
  .of_blocks (inner_putBuilding ..) rfl (fun _ _ => rfl) rfl rfl rfl rfl (fun _ => rfl) (fun _ _ => rfl)
    fun _ h => List.mem_append_left _ h

theorem runFrame_enterFinishing {b : BayId} {j : JobId} {s : State} (hb : (s.job j).bay = b)
    (ha : (s.job j).state.active = true) (o : RunOutcome) : RunFrame b j s (enterFinishing s j o) := by
  subst hb
  refine RunFrame.trans ?_ (runFrame_changeJob rfl ha rfl fun _ => rfl)
  exact RunFrame.trans (runFrame_putContext none) (runFrame_putBuilding _ j _ _)

@[simp] theorem enterFinishing_job (s : State) (j : JobId) (o : RunOutcome) :
    (enterFinishing s j o).job j = closing (s.job j) o := by
  unfold enterFinishing; rw [changeJob_job_same]; rfl

/-- The entry to FINISHING in the words of Safety.lean (R12, R23, R33, R166). -/
theorem finishes_enterFinishing {b : BayId} {j : JobId} {s : State} (hb : (s.job j).bay = b) (o : RunOutcome) :
    Finishes b j o (enterFinishing s j o) := by
  subst hb
  refine ⟨by rw [enterFinishing_job]; rfl, by rw [enterFinishing_job]; rfl, by rw [enterFinishing_job]; rfl,
    by rw [enterFinishing_job]; rfl, ?_, ?_⟩
  · unfold enterFinishing; simp
  · unfold enterFinishing; simp

/-! ### Passes begin -/

/-- The outcome of a run as Safety.lean decides it (R22). -/
theorem decideOutcome_eq (es : List ZoneEntry) : decideOutcome es = outcomeOf es := by
  have hb : ∀ z : ZoneEntry, z.state.bad = true ↔ z.state = .failed ∨ z.state = .mismatched := fun z => by
    cases z.state <;> simp [ZoneState.bad]
  unfold decideOutcome outcomeOf
  simp [List.all_eq_true, List.any_eq_true, hb]

/-- What holds of a job of bay `b` behind passes that began one after another, from the one of an index on: the last of
them runs its first unit, or all of them had no work and the program waits or has ended (R14, R45). -/
structure PassBegun (b : BayId) (j : JobId) (index : Nat) (s t : State) : Prop where
  frame : RunFrame b j s t
  least : index ≤ (t.job j).passIndex
  most : (t.job j).passIndex < (s.program (s.job j).program).length
  outcome : (t.job j).state = .running ∧ (t.job j).unitActive = true ∧ (t.job j).passComplete = false ∨
    (t.job j).passComplete = true ∧
      ((t.job j).state = .waitingTrigger ∨ Finishes b j (outcomeOf (t.map b).entries) t)
  latch : (s.job j).latch = false → (t.job j).latch = false
  halt : (t.job j).haltReason = (s.job j).haltReason
  ends : ∀ k, k < index → (t.job j).passEnds[k]? = (s.job j).passEnds[k]?

/-- A pass of the program begins: its index is set (R14). -/
theorem startPass_job {s : State} {j : JobId} {i : Nat} (h : i < (s.program (s.job j).program).length) :
    (startPass s j i).job j = { s.job j with passIndex := i, passComplete := false, permille := 0 } := by
  unfold startPass
  simp [List.getElem?_eq_getElem h]

@[simp] theorem recordPassEnd_job (s : State) (j : JobId) : (recordPassEnd s j).job j =
    { s.job j with passEnds := (s.job j).passEnds.set (s.job j).passIndex (some s.clock), passComplete := true
                   permille := 1000 } := by
  unfold recordPassEnd; simp

theorem clearLatch_job (s : State) (j : JobId) : (clearLatch s j).job j = { s.job j with latch := false } :=
  State.modJob_job_same ..

/-- The pass that ends is the last of its program, or a pass follows. -/
theorem lt_of_passSuccessor {s : State} {x : Job} (h : passSuccessor s x ≠ .finish) :
    x.passIndex + 1 < (s.program x.program).length := by
  unfold passSuccessor lastPass at h
  by_contra hc
  rw [if_pos (by simpa using hc)] at h
  exact h rfl

/-- The end of a pass that had no work, the next one waiting for a trigger (R14). -/
theorem runFrame_waitTrigger {b : BayId} {j : JobId} {s : State} (ha : (s.job j).state.active = true) :
    RunFrame b j s (setState s j .waitingTrigger) :=
  runFrame_changeJob rfl ha rfl fun _ => rfl

/-- A pass without work: it begins and ends at once (R45). -/
def passedOver (s : State) (j : JobId) (i : Nat) : State := recordPassEnd (startPass s j i) j

theorem runFrame_passedOver {b : BayId} {j : JobId} {s : State} (hb : (s.job j).bay = b) (i : Nat) :
    RunFrame b j s (passedOver s j i) := (runFrame_startPass hb i).trans (runFrame_recordPassEnd ..)

theorem passedOver_job {s : State} {j : JobId} {i : Nat} (h : i < (s.program (s.job j).program).length) :
    (passedOver s j i).job j = { s.job j with
      passIndex := i, passEnds := (s.job j).passEnds.set i (some s.clock), passComplete := true, permille := 1000 } := by
  unfold passedOver
  have hc : (startPass s j i).clock = s.clock := (inner_startPass s j i).clock
  rw [recordPassEnd_job, startPass_job h, hc]

/-- What follows from a state behind passes without work, the first of them that of index `i`. -/
structure Passing (b : BayId) (j : JobId) (i : Nat) (s u : State) : Prop where
  frame : RunFrame b j s u
  bay : (u.job j).bay = b
  state : (u.job j).state = .running
  index : (u.job j).passIndex = i
  complete : (u.job j).passComplete = true
  latch : (s.job j).latch = false → (u.job j).latch = false
  halt : (u.job j).haltReason = (s.job j).haltReason
  ends : ∀ k, k < i → (u.job j).passEnds[k]? = (s.job j).passEnds[k]?

theorem passing_passedOver {b : BayId} {j : JobId} {i : Nat} {s : State} (hb : (s.job j).bay = b)
    (hs : (s.job j).state = .running) (hi : i < (s.program (s.job j).program).length) :
    Passing b j i s (passedOver s j i) := by
  have e := passedOver_job hi
  refine ⟨runFrame_passedOver hb i, ?_, ?_, ?_, ?_, ?_, ?_, ?_⟩ <;> rw [e]
  · exact hb
  · exact hs
  · exact id
  · exact fun k hk => List.getElem?_set_ne (by omega)

theorem Passing.clearLatch {b : BayId} {j : JobId} {i : Nat} {s u : State} (h : Passing b j i s u) :
    Passing b j i s (clearLatch u j) := by
  have e := clearLatch_job u j
  refine ⟨h.frame.trans (runFrame_clearLatch b j u), ?_, ?_, ?_, ?_, ?_, ?_, ?_⟩ <;> rw [e]
  · exact h.bay
  · exact h.state
  · exact h.index
  · exact h.complete
  · exact fun _ => rfl
  · exact h.halt
  · exact h.ends

/-- The passes that follow begin from the next index on. -/
theorem Passing.begin {b : BayId} {j : JobId} {i : Nat} {s u t : State} (h : Passing b j i s u)
    (k : PassBegun b j (i + 1) u t) : PassBegun b j i s t where
  frame := h.frame.trans k.frame
  least := by have := k.least; omega
  most := by rw [← h.frame.program]; exact k.most
  outcome := k.outcome
  latch e := k.latch (h.latch e)
  halt := k.halt.trans h.halt
  ends m hm := (k.ends m (by omega)).trans (h.ends m hm)

/-- The program has ended. -/
theorem Passing.finish {b : BayId} {j : JobId} {i : Nat} {s u : State} (h : Passing b j i s u)
    (hi : i < (s.program (s.job j).program).length) :
    PassBegun b j i s (enterFinishing u j (decideOutcome (u.map (u.job j).bay).entries)) := by
  have e := enterFinishing_job u j (decideOutcome (u.map (u.job j).bay).entries)
  have hf := finishes_enterFinishing h.bay (decideOutcome (u.map (u.job j).bay).entries)
  have hm : (enterFinishing u j (decideOutcome (u.map (u.job j).bay).entries)).map b = u.map b := by
    unfold enterFinishing
    rw [changeJob_map (.inl rfl)]
    rfl
  have f := h.frame.trans (runFrame_enterFinishing h.bay (by rw [h.state]; rfl)
    (decideOutcome (u.map (u.job j).bay).entries))
  refine ⟨f, ?_, ?_, .inr ⟨?_, .inr ?_⟩, ?_, ?_, ?_⟩
  · rw [e]; exact h.index.ge
  · rw [e]; exact h.index.trans_lt hi
  · rw [e]; exact h.complete
  · rw [hm, ← decideOutcome_eq, ← h.bay]
    rw [← h.bay] at hf
    exact hf
  · exact fun _ => hf.2.2.1
  · rw [e]; exact h.halt
  · rw [e]; exact h.ends

/-- The next pass waits for a trigger. -/
theorem Passing.wait {b : BayId} {j : JobId} {i : Nat} {s u : State} (h : Passing b j i s u)
    (hi : i < (s.program (s.job j).program).length) : PassBegun b j i s (setState u j .waitingTrigger) := by
  have e := job_setState_same u j .waitingTrigger
  have f : RunFrame b j s (setState u j .waitingTrigger) :=
    h.frame.trans (runFrame_changeJob rfl (by rw [h.state]; rfl) rfl fun _ => rfl)
  refine ⟨f, ?_, ?_, .inr ⟨?_, .inl ?_⟩, ?_, ?_, ?_⟩ <;> rw [e]
  · exact h.index.ge
  · exact h.index.trans_lt hi
  · exact h.complete
  · exact h.latch
  · exact h.halt
  · exact h.ends

/-- Passes begin one after another until one has work or the program ends (R14, R45). -/
theorem passBegun_beginPass (n : Nat) : ∀ {b : BayId} {s : State} {j : JobId} {i : Nat}, (s.job j).bay = b →
    (s.job j).state = .running → i < (s.program (s.job j).program).length →
    (s.program (s.job j).program).length ≤ i + n → PassBegun b j i s (beginPass n s j i) := by
  induction n with
  | zero => intro b s j i _ _ h1 h2; omega
  | succ n ih =>
    intro b s j i hb hs hi hn
    have f1 := runFrame_startPass hb i
    unfold beginPass
    dsimp only
    split
    · have e := (beginUnit_job_same (startPass s j i) j).trans (by rw [startPass_job hi])
      have f := f1.trans (runFrame_beginUnit (j := j) (f1.bay.trans hb))
      refine ⟨f, by rw [e], by rw [e]; exact hi, .inl ?_, by rw [e]; exact id, by rw [e], by rw [e]; exact fun _ _ => rfl⟩
      rw [e]
      exact ⟨hs, rfl, rfl⟩
    · rw [show recordPassEnd (startPass s j i) j = passedOver s j i from rfl]
      have p := passing_passedOver hb hs hi
      have next : ∀ {u}, Passing b j i s u → i + 1 < (s.program (s.job j).program).length →
          PassBegun b j i s (beginPass n u j (i + 1)) := fun hu hlt =>
        hu.begin (ih hu.bay hu.state (by rw [hu.frame.program]; exact hlt) (by rw [hu.frame.program]; omega))
      have follows : passSuccessor (passedOver s j i) ((passedOver s j i).job j) ≠ .finish →
          i + 1 < (s.program (s.job j).program).length := fun h => by
        have := lt_of_passSuccessor h
        rwa [p.frame.program, p.index] at this
      split
      · exact p.finish hi
      · next h => exact next p (follows (by rw [h]; nofun))
      · next h => exact next p.clearLatch (follows (by rw [h]; nofun))
      · exact p.wait hi

/-- Passes that begin leave alone what `RunFrame` names, whatever the program. -/
theorem runFrame_beginPass (n : Nat) : ∀ {b : BayId} {s : State} {j : JobId} (i : Nat), (s.job j).bay = b →
    (s.job j).state.active = true → RunFrame b j s (beginPass n s j i) := by
  induction n with
  | zero => exact fun _ _ _ => .refl ..
  | succ n ih =>
    intro b s j i hb ha
    have f1 := runFrame_startPass hb i
    have f2 := runFrame_passedOver hb i
    have a2 : ((passedOver s j i).job j).state.active = true := by
      rw [passedOver, sameStates_recordPassEnd, sameStates_startPass]; exact ha
    unfold beginPass
    dsimp only
    rw [show recordPassEnd (startPass s j i) j = passedOver s j i from rfl]
    split
    · exact f1.trans (runFrame_beginUnit (f1.bay.trans hb))
    · split
      · exact f2.trans (runFrame_enterFinishing (f2.bay.trans hb) a2 _)
      · exact f2.trans (ih _ (f2.bay.trans hb) a2)
      · have f3 := f2.trans (runFrame_clearLatch b j _)
        exact f3.trans (ih _ (f3.bay.trans hb) (by rw [sameStates_clearLatch]; exact a2))
      · exact f2.trans (runFrame_changeJob rfl a2 rfl fun _ => rfl)

theorem runFrame_useTrigger {b : BayId} {s : State} {j : JobId} (hb : (s.job j).bay = b)
    (ha : (s.job j).state.active = true) : RunFrame b j s (useTrigger s j) := by
  unfold useTrigger
  split
  · exact runFrame_beginPass _ _ hb ha
  · exact runFrame_beginUnit hb

/-! ### TRIGGER -/

/-- What a unit that begins writes: the job's record and the walk. -/
def unitBegun (j : JobId) (x : Job) (w : Vector (Option WalkContext) 16) (s : State) : State :=
  { s.putJob j x with walk := w }

/-- A unit that begins behind a report leaves the report as it is (R38). -/
theorem afterRejudging_beginUnit {b : BayId} {u v : State} {j : JobId} (h : Rejudged b u v)
    (hs : (v.port b).shown = wantedPattern v b) : AfterRejudging b
      { u.putJob j { v.job j with unitActive := true } with walk := (beginUnit v j).walk } (beginUnit v j) := by
  have hm : Rejudged b (unitBegun j { v.job j with unitActive := true } (beginUnit v j).walk u)
      (unitBegun j { v.job j with unitActive := true } (beginUnit v j).walk v) := h.map fun _ _ => rfl
  rw [show unitBegun j { v.job j with unitActive := true } (beginUnit v j).walk v = beginUnit v j from
    (beginUnit_frame v j).symm] at hm
  refine hm.afterRejudging ?_
  have hp : (beginUnit v j).port b = v.port b := by rw [beginUnit_frame]; rfl
  rw [wantedPattern_congr (s := v) (fun k => ?_) (by rw [hp]) (by rw [hp]), hp, hs]
  by_cases hk : k = j
  · subst hk; rw [beginUnit_job_same]; exact {}
  · rw [(runFrame_beginUnit (b := (v.job j).bay) rfl).others k hk]; exact {}

/-- What a trigger's later pass leaves of its job (R12, R14). -/
theorem PassBegun.later {b : BayId} {j : JobId} {i : Nat} {s t : State} (h : PassBegun b j (i + 1) s t) :
    i < (t.job j).passIndex ∧ (t.job j).passIndex < (s.program (s.job j).program).length ∧
      (((t.job j).state = .running ∧ (t.job j).unitActive = true ∧ (t.job j).passComplete = false) ∨
        ((t.job j).passComplete = true ∧ ((t.job j).state = .waitingTrigger ∨ (t.job j).state = .finishing))) := by
  refine ⟨h.least, h.most, h.outcome.imp id fun o => ⟨o.1, o.2.imp id fun f => ?_⟩⟩
  exact f.1

/-- A trigger on a job that waits behind a pass begins a later pass (R12, R14). -/
theorem passBegun_useTrigger {b : BayId} {s : State} {j : JobId} (hb : (s.job j).bay = b)
    (hs : (s.job j).state = .running) (hc : (s.job j).passComplete = true)
    (h8 : (s.program (s.job j).program).length ≤ 8) (hi : (s.job j).passIndex + 1 < (s.program (s.job j).program).length) :
    PassBegun b j ((s.job j).passIndex + 1) s (useTrigger s j) := by
  unfold useTrigger
  rw [if_pos hc]
  exact passBegun_beginPass passBound hb hs hi (by unfold passBound; omega)

/-- A trigger used behind a report: a unit begins with the report as it is, or a later pass does (R12, R14). -/
theorem useTrigger_behind {b : BayId} {u v : State} {j : JobId} {y : Job} (h : Rejudged b u v)
    (hs : (v.port b).shown = wantedPattern v b) (hy : v.job j = y) (hb : y.bay = b) (hr : y.state = .running) :
    RunFrame b j v (useTrigger v j) ∧
    (y.passComplete = false →
      AfterRejudging b { u.putJob j { y with unitActive := true } with walk := (useTrigger v j).walk } (useTrigger v j) ∧
      (∀ d, d ≠ b → (useTrigger v j).context d = u.context d) ∧
      (useTrigger v j).context b = (u.context b).map fun w => { w with unitEnd := unitEndNow u y w }) ∧
    (y.passComplete = true → (u.program y.program).length ≤ 8 → y.passIndex + 1 < (u.program y.program).length →
      PassBegun b j (y.passIndex + 1) v (useTrigger v j)) := by
  subst hy
  have hw : v.context = u.context := by rw [h.frame]; rfl
  refine ⟨runFrame_useTrigger hb (by rw [hr]; rfl), fun hc => ?_, fun hc h8 hi => ?_⟩
  · rw [show useTrigger v j = beginUnit v j from if_neg (by simp [hc])]
    refine ⟨afterRejudging_beginUnit h hs, fun d hd => ?_, ?_⟩
    · rw [beginUnit_context_other v j (by rw [hb]; exact hd), hw]
    · rw [← hb, beginUnit_context_same, hw]
      congr 1
      funext w
      rw [unitEndNow_congr (s := u) (x := v.job j) (by rw [h.frame]; rfl) {} (by rw [h.frame]; exact {})]
  · have hp : v.program = u.program := by rw [h.frame]; rfl
    exact passBegun_useTrigger hb hr hc (by rw [hp]; exact h8) (by rw [hp]; exact hi)

/-- The state of the waiting job that takes a trigger (R12). -/
theorem setState_running_eq {s : State} {j : JobId} {x : Job} (hx : s.job j = x) (hs : x.state ≠ .running)
    (hf : x.state ≠ .free) :
    setState s j .running = report (s.putJob j { x with state := .running }) x.bay := by
  subst hx
  exact changeJob_report hs hf (.inl rfl)

/-- The effect of TRIGGER on a slot (R12). -/
theorem exec_trigger {s : State} {c : ManagementCommand} {rest : List ManagementCommand} {j : JobId}
    (h : AtFront s c rest (.trigger j.val)) : exec (.trigger j.val) s = .next (
      if (s.job j).state = .waitingTrigger then useTrigger (setState (accepted s c rest) j .running) j
      else if (s.job j).state.latching then
        if (s.job j).latch then replied s c rest .busy .nothing
        else (accepted s c rest).putJob j { s.job j with latch := true }
      else replied s c rest (.refused .state) .nothing) := by
  have hc : accept ((s.putManagement rest).modJob j fun x => { x with latch := true }) c =
      (accepted s c rest).putJob j { s.job j with latch := true } := by
    unfold accept; rw [reply_eq]; rfl
  simp only [exec, execTrigger, takeManagement_front h.1 h.2, onSlot_val, State.putManagement_job, hc,
    refuse_putManagement, accept_putManagement, reply_putManagement]

/-- Settles O28: the latch is one write; a job that waits is set running and begins a unit or a later pass. -/
theorem triggerLatchesOrBegins : Obligations.TriggerLatchesOrBegins := by
  unfold Obligations.TriggerLatchesOrBegins
  refine fun s c rest slot hfront => ⟨fun hn => ?_, fun j hj => ?_⟩
  · simp only [exec, execTrigger, takeManagement_front hfront.1 hfront.2, onSlot_high hn, refuse_putManagement]
  · subst hj
    have e := exec_trigger hfront
    dsimp only
    cases hs : (s.job j).state
    case waitingTrigger =>
      rw [if_pos hs, setState_running_eq (s := accepted s c rest) rfl (by simp [hs]) (by simp [hs])] at e
      simp only [replied_job] at e
      have hv : (report ((accepted s c rest).putJob j { s.job j with state := .running }) (s.job j).bay).job j =
          { s.job j with state := .running } := by simp
      obtain ⟨f, hu, hl⟩ := useTrigger_behind (rejudged_report _ _) (shown_refreshIndicator _ _) hv rfl rfl
      refine ⟨_, e, fun k hk => ?_, ?_, fun hc => ?_, fun hc h8 hi => ?_⟩
      · rw [f.others k hk, refreshIndicator_job, reevaluate_job, State.putJob_job, if_neg hk]; rfl
      · exact (rejudged_report ((accepted s c rest).putJob j { s.job j with state := .running }) _).path.sent.trans
          f.inner.sent
      · obtain ⟨h1, h2, h3⟩ := hu hc
        rw [putJob_putJob] at h1
        refine ⟨h1, fun d hd => ?_, ?_⟩
        · rw [h2 d hd]; rfl
        · have hw : ∀ w, unitEndNow ((accepted s c rest).putJob j { s.job j with state := .running })
              { s.job j with state := .running } w = unitEndNow s (s.job j) w := unitEndNow_congr rfl {} {}
          simp only [h3, hw]
          rfl
      · have later := (hl hc h8 hi).later
        simp only [hv, refreshIndicator_program, reevaluate_program] at later
        exact later
    all_goals
      simp only [hs, JobState.latching, if_true, Bool.false_eq_true, if_false, reduceCtorEq] at e
      rw [e]
    all_goals first | rfl | exact ⟨fun hl => by rw [if_pos hl], fun hl => by rw [if_neg (by simp [hl])]⟩

end Sys2Proof.Proofs
end

section
/-! RESUME: the job goes on from its resume cursor, on a latched trigger, or waits for one (R19, R38, R48). -/

namespace Sys2Proof.Proofs

open Sys2Proof Sys2Proof.Machine Sys2Proof.Safety

/-- Two identities are those of one drive where the recorded one holds the drive's values (R133). -/
theorem sameDrive_iff (d : DriveIdentity) (r : RecordedIdentity) :
    sameDrive d r = true ↔ r = { serial := d.serial, capacity := d.capacity, sectorSize := d.sectorSize } := by
  cases r
  simp only [sameDrive, Bool.and_eq_true, decide_eq_true_eq, RecordedIdentity.mk.injEq, and_assoc]
  simp only [eq_comm]

/-- RESUME finds the recorded drive where the two identities agree (R19, R133). -/
theorem resumeCheck_eq (s : State) (x : Job) : resumeCheck s x =
    if (s.port x.bay).state ≠ .ready then some .bayNotReady
    else if ¬ ∃ d ∈ (s.port x.bay).identity, x.identity =
      some { serial := d.serial, capacity := d.capacity, sectorSize := d.sectorSize } then some .foreignDrive
    else none := by
  unfold resumeCheck bayReady
  by_cases hr : (s.port x.bay).state = .ready
  · simp only [hr, decide_true, Bool.true_eq_false, if_false, ne_eq, not_true_eq_false]
    rcases (s.port x.bay).identity with _ | d
    · simp
    · rcases x.identity with _ | r
      · simp
      · by_cases h : r = { serial := d.serial, capacity := d.capacity, sectorSize := d.sectorSize } <;>
          simp [sameDrive_iff, h]
  · simp [hr]

/-- The state of a resumed job before its walk goes on (R19). -/
theorem setState_resumed {s : State} {j : JobId} {x : Job} {st : JobState}
    (hx : x.state = .paused ∨ x.state = .halted) (hst : st = .running ∨ st = .waitingTrigger) :
    setState (s.putJob j x) j st = report (s.putJob j { x with state := st }) x.bay := by
  have h := changeJob_report (s := s.putJob j x) (j := j) (x := { x with state := st })
  simp only [State.putJob_job_same, putJob_putJob] at h
  rw [setState_eq, State.putJob_job_same]
  refine h ?_ ?_ (.inl ?_)
  · rcases hx with e | e <;> rcases hst with f | f <;> rw [e, f] <;> nofun
  · rcases hx with e | e <;> rw [e] <;> nofun
  · rcases hst with f | f <;> rw [f] <;> rfl

/-- The walk context placed at its resume cursor (R48). -/
def resumed (w : WalkContext) : WalkContext := { w with cursor := w.resumeCursor.getD w.cursor, resumeCursor := none }

theorem takeResume_eq (s : State) (b : BayId) : takeResume s b = s.putContext b ((s.context b).map resumed) := rfl

/-- A walk placed at its resume cursor behind a report is placed there before it (R48). -/
theorem takeResume_report (u : State) (b : BayId) :
    Rejudged b (u.putContext b ((u.context b).map resumed)) (takeResume (report u b) b) ∧
    ((takeResume (report u b) b).port b).shown = wantedPattern (takeResume (report u b) b) b := by
  rw [takeResume_eq]
  have hc : (report u b).context b = u.context b := by simp
  rw [hc]
  exact ⟨(rejudged_report u b).map (aside_putContext b _), shown_refreshIndicator _ b⟩

/-- The three ways on of a job that resumes (R19). -/
theorem resumeJob_eq {s : State} {j : JobId} {x : Job} (hx : s.job j = x) (hs : x.state = .paused ∨ x.state = .halted) :
    resumeJob s j =
      if x.unitActive then takeResume (report (s.putJob j { x with state := .running, haltReason := none }) x.bay) x.bay
      else if x.latch then
        useTrigger (takeResume
          (report (s.putJob j { x with state := .running, haltReason := none, latch := false }) x.bay) x.bay) j
      else report (s.putJob j { x with state := .waitingTrigger, haltReason := none }) x.bay := by
  subst hx
  have h (st) := setState_resumed (s := s) (j := j) (x := { s.job j with haltReason := none }) (st := st) hs
  have hl := setState_resumed (s := s) (j := j) (x := { s.job j with haltReason := none, latch := false })
    (st := .running) hs (.inl rfl)
  have hm : s.modJob j (fun x => { x with haltReason := none }) = s.putJob j { s.job j with haltReason := none } := rfl
  have hc : clearLatch (s.putJob j { s.job j with haltReason := none }) j =
      s.putJob j { s.job j with haltReason := none, latch := false } := by
    unfold clearLatch State.modJob
    simp
  unfold resumeJob
  dsimp only
  rw [hm, hc, State.putJob_job_same, hl, h .running (.inl rfl), h .waitingTrigger (.inr rfl)]

theorem Rejudged.job {b : BayId} {u t : State} (h : Rejudged b u t) (k : JobId) : t.job k = u.job k := by
  rw [h.frame]; rfl

/-- A job that resumes on a latched trigger: a unit begins at the resume cursor, or a later pass does (R19, R48). -/
theorem useTrigger_resumed {s : State} {j : JobId} {y : Job} (hr : y.state = .running) :
    let t := useTrigger (takeResume (report (s.putJob j y) y.bay) y.bay) j
    (∀ k, k ≠ j → t.job k = s.job k) ∧ s.sent <+: t.sent ∧
    (y.passComplete = false →
      AfterRejudging y.bay { s.putJob j { y with unitActive := true } with walk := t.walk } t ∧
      (∀ d, d ≠ y.bay → t.context d = s.context d) ∧
      t.context y.bay = (s.context y.bay).map fun w => { resumed w with unitEnd := unitEndNow s y (resumed w) }) ∧
    (y.passComplete = true → (s.program y.program).length ≤ 8 → y.passIndex + 1 < (s.program y.program).length →
      PassBegun y.bay j (y.passIndex + 1) (takeResume (report (s.putJob j y) y.bay) y.bay) t) := by
  obtain ⟨h, hp⟩ := takeResume_report (s.putJob j y) y.bay
  have hj : (takeResume (report (s.putJob j y) y.bay) y.bay).job j = y := by rw [h.job]; exact State.putJob_job_same ..
  obtain ⟨f, hu, hl⟩ := useTrigger_behind h hp hj rfl hr
  refine ⟨fun k hk => ?_, h.path.sent.trans f.inner.sent, fun hc => ?_, hl⟩
  · rw [f.others k hk, h.job]; exact (State.putJob_job s j k y).trans (if_neg hk)
  · obtain ⟨h1, h2, h3⟩ := hu hc
    refine ⟨?_, fun d hd => ?_, ?_⟩
    · have e := putJob_putJob s j y { y with unitActive := true }
      rw [← e]
      exact h1
    · rw [h2 d hd, State.putContext_context, if_neg hd]; rfl
    · have hw : ∀ w, unitEndNow ((s.putJob j y).putContext y.bay (((s.putJob j y).context y.bay).map resumed)) y w =
          unitEndNow s y w := unitEndNow_congr rfl {} {}
      rw [h3, State.putContext_context_same, Option.map_map]
      simp only [Function.comp_def, hw]
      rfl

/-- A job that waits or goes on within one report (R19). -/
theorem resumed_behind {b : BayId} {s u t : State} {j : JobId} (h : Rejudged b u t) (hj : ∀ k, k ≠ j → u.job k = s.job k)
    (hs : u.sent = s.sent) : (∀ k, k ≠ j → t.job k = s.job k) ∧ s.sent <+: t.sent :=
  ⟨fun k hk => (h.job k).trans (hj k hk), hs ▸ h.path.sent⟩

/-- What RESUME makes of its job, by the unit flag and the latch (R19, R38, R48). -/
theorem resumeJob_restarts {s : State} {j : JobId} {x : Job} (hx : s.job j = x)
    (hs : x.state = .paused ∨ x.state = .halted) :
    let t := resumeJob s j
    (∀ k, k ≠ j → t.job k = s.job k) ∧ s.sent <+: t.sent ∧
    (x.unitActive = true → AfterRejudging x.bay ((s.putJob j { x with state := .running, haltReason := none }).putContext
      x.bay ((s.context x.bay).map resumed)) t) ∧
    (x.unitActive = false → x.latch = false →
      AfterRejudging x.bay (s.putJob j { x with state := .waitingTrigger, haltReason := none }) t) ∧
    (x.unitActive = false → x.latch = true → x.passComplete = false →
      AfterRejudging x.bay { s.putJob j
        { x with state := .running, haltReason := none, latch := false, unitActive := true } with walk := t.walk } t ∧
      (∀ b, b ≠ x.bay → t.context b = s.context b) ∧
      t.context x.bay = (s.context x.bay).map fun w => { resumed w with unitEnd := unitEndNow s x (resumed w) }) ∧
    (x.unitActive = false → x.latch = true → x.passComplete = true → (s.program x.program).length ≤ 8 →
      x.passIndex + 1 < (s.program x.program).length →
      (t.job j).haltReason = none ∧ (t.job j).latch = false ∧ x.passIndex < (t.job j).passIndex ∧
      (((t.job j).state = .running ∧ (t.job j).unitActive = true ∧ (t.job j).passComplete = false) ∨
        ((t.job j).passComplete = true ∧ ((t.job j).state = .waitingTrigger ∨ (t.job j).state = .finishing)))) := by
  dsimp only
  rw [resumeJob_eq hx hs]
  have other : ∀ y k, k ≠ j → (s.putJob j y).job k = s.job k := fun y k hk =>
     (State.putJob_job s j k y).trans (if_neg hk)
  by_cases hu : x.unitActive = true
  · rw [if_pos hu]
    obtain ⟨h, hp⟩ := takeResume_report (s.putJob j { x with state := .running, haltReason := none }) x.bay
    obtain ⟨ho, hse⟩ := resumed_behind (s := s) h (other _) rfl
    exact ⟨ho, hse, fun _ => h.afterRejudging hp, fun h => by simp [hu] at h, fun h => by simp [hu] at h,
      fun h => by simp [hu] at h⟩
  · rw [if_neg hu]
    by_cases hl : x.latch = true
    · rw [if_pos hl]
      obtain ⟨ho, hse, hunit, hpass⟩ := useTrigger_resumed (s := s) (j := j)
        (y := { x with state := .running, haltReason := none, latch := false }) rfl
      refine ⟨ho, hse, fun h => absurd h hu, fun _ h => by simp [hl] at h, fun _ _ hc => ?_, fun _ _ hc h8 hi => ?_⟩
      · obtain ⟨h1, h2, h3⟩ := hunit hc
        have hw : ∀ w, unitEndNow s { x with state := .running, haltReason := none, latch := false } w =
          unitEndNow s x w := unitEndNow_congr rfl {} {}
        simp only [hw] at h3
        exact ⟨h1, h2, h3⟩
      · have p := hpass hc h8 hi
        obtain ⟨hi', _, ho'⟩ := p.later
        obtain ⟨h, _⟩ := takeResume_report
          (s.putJob j { x with state := .running, haltReason := none, latch := false }) x.bay
        have hj := (h.job j).trans (State.putJob_job_same ..)
        exact ⟨p.halt.trans (by rw [hj]), p.latch (by rw [hj]), hi', ho'⟩
    · rw [if_neg hl]
      have h := rejudged_report (s.putJob j { x with state := .waitingTrigger, haltReason := none }) x.bay
      obtain ⟨ho, hse⟩ := resumed_behind (s := s) h (other _) rfl
      exact ⟨ho, hse, fun h => absurd h hu, fun _ _ => h.afterRejudging (shown_refreshIndicator _ _),
        fun _ h => absurd h hl, fun _ h => absurd h hl⟩

/-- Settles O31: the checks in their order, then one of the three ways on. -/
theorem resumeRestartsTheJob : Obligations.ResumeRestartsTheJob := by
  unfold Obligations.ResumeRestartsTheJob
  refine fun s c rest slot hfront => ⟨fun hn => ?_, fun j hj => ?_⟩
  · simp only [exec, execResume, takeManagement_front hfront.1 hfront.2, onSlot_high hn, refuse_putManagement]
  subst hj
  have e : exec (.resume j.val) s = .next (
      if (s.job j).state = .paused ∨ (s.job j).state = .halted then
        match resumeCheck s (s.job j) with
        | some r => replied s c rest (.refused r) .nothing
        | none => resumeJob (accepted s c rest) j
      else replied s c rest (.refused .state) .nothing) := by
    simp only [exec, execResume, takeManagement_front hfront.1 hfront.2, onSlot_val, State.putManagement_job,
      refuse_putManagement, accept_putManagement]
    rfl
  dsimp only
  rw [e, resumeCheck_eq]
  by_cases hs : (s.job j).state = .paused ∨ (s.job j).state = .halted
  · rw [if_pos hs, if_neg (by rcases hs with h | h <;> simp [h])]
    split
    · rfl
    · split
      · rfl
      · have h := resumeJob_restarts (s := accepted s c rest) (j := j) (x := s.job j) rfl hs
        have hw : ∀ w, unitEndNow (accepted s c rest) (s.job j) w = unitEndNow s (s.job j) w := unitEndNow_congr rfl {} {}
        simp only [hw] at h
        exact ⟨_, rfl, h⟩
  · rw [if_neg hs, if_pos (by simpa using hs)]

end Sys2Proof.Proofs
end

section
/-! Preparation stages 1 to 5: the job of a bay whose drive is known and whose queue holds no write goes on at once, from
START, from the completion of a passthrough write and from the completion of IDENTIFY (R5, R7, R8, R58, R116, R135). -/

namespace Sys2Proof.Proofs

open Sys2Proof Sys2Proof.Machine Sys2Proof.Safety

/-! ### What a report leaves of the ports -/

/-- A report leaves of a port all but what its indicator shows. -/
theorem Rejudged.port_kept {b : BayId} {u t : State} (h : Rejudged b u t) (c : BayId) :
    (t.port c).state = (u.port c).state ∧ (t.port c).identity = (u.port c).identity ∧
      (t.port c).queue = (u.port c).queue := by
  by_cases hc : c = b
  · subst hc
    rcases h.port with e | ⟨p, e⟩ <;> rw [e] <;> exact ⟨rfl, rfl, rfl⟩
  · rw [h.others c hc]; exact ⟨rfl, rfl, rfl⟩

/-- A report whose indicator was not touched, or shows the wanted pattern, is one of Safety.lean. -/
theorem Rejudged.afterRejudging_of {b : BayId} {u t : State} (h : Rejudged b u t)
    (hp : t.port b = u.port b ∨ (t.port b).shown = wantedPattern t b) : AfterRejudging b u t := by
  rcases hp with e | e
  · exact ⟨h.frame, h.others, .inl e, h.path.sent, h.path.hold, h.path.others, h.path.waits, h.path.came, h.path.tags,
      h.path.idle⟩
  · exact h.afterRejudging e

/-! ### The stages -/

/-- Stage 1 waits while a write is outstanding (R7). -/
theorem writesOutstanding_iff (s : State) (b : BayId) : writesOutstanding s b = true ↔ WriteOutstanding (s.port b) := by
  unfold writesOutstanding WriteOutstanding
  simp only [List.any_eq_true]
  refine exists_congr fun r => and_congr_right fun _ => ?_
  cases r.cls <;> simp

/-- Stage 2: a NATIVE_ERASE pass needs a whole-drive job and a drive that erases itself (R7). -/
theorem programError_eq (n : Nat) (erases : Bool) (ps : List PassImage) : programError n erases ps =
    if (∃ p ∈ ps, kindOfPass p = .nativeErase) ∧ (n ≠ 0 ∨ erases = false) then
      some (if n ≠ 0 then .programConflict else .noNativeErase)
    else none := by
  induction ps with
  | nil => simp [programError]
  | cons p ps ih =>
    unfold programError
    by_cases hk : kindOfPass p = .nativeErase
    · by_cases hn : n = 0
      · subst hn
        cases erases <;> simp [hk, ih]
      · simp [hk, hn]
    · simp [hk, ih]

/-- The record of a job that fails its preparation (R8). -/
def refused (x : Job) (e : StartError) : Job := { unprepared x with state := .loaded, startError := some e }

/-- The record of a job whose scan begins over drive `d` (R7, R58). -/
def scanned (x : Job) (d : DriveIdentity) : Job :=
  let g := geometryOf x.stripeRequest d.capacity d.sectorSize
  { x with
    state := .preparing (.scanning 0 0), geometry := some g, stripeClamped := decide (g.sEff ≠ x.stripeRequest)
    identity := some { serial := d.serial, capacity := d.capacity, sectorSize := d.sectorSize }
    extentClamped := false, badZones := 0, mismatched := 0, failedStripes := 0 }

/-- The map of a job whose scan begins over drive `d` (R58, R88). -/
def scannedMap (j : JobId) (x : Job) (d : DriveIdentity) : CoverageMap :=
  let g := geometryOf x.stripeRequest d.capacity d.sectorSize
  { owner := some j, run := none, z := g.z, zn := g.zn, entries := List.replicate g.zn ZoneEntry.cleared }

/-- A preparation that fails reports the LOADED job and raises START_REFUSED (R8). -/
theorem failPreparation_eq {s : State} {j : JobId} {x : Job} {p : Preparation} (hx : s.job j = x)
    (hs : x.state = .preparing p) (e : StartError) : failPreparation s j e =
      raise (report (disown (s.putJob j (refused x e)) x.bay j) x.bay) x.bay .startRefused := by
  subst hx
  have h : changeJob s j (refused (s.job j) e) = _ := changeJob_new (by rw [hs]; nofun)
  rw [written_of_left (by rw [hs]; rfl) rfl, changedBay_of_ne_free (by rw [hs]; nofun)] at h
  rw [← h]
  rfl

/-- What a preparation that fails writes beside the passthrough path (R8, R88). -/
def refusing (b : BayId) (j : JobId) (x : Job) (e : StartError) (s : State) : State :=
  disown (s.putJob j (refused x e)) b j

theorem aside_refusing (b : BayId) (j : JobId) (x : Job) (e : StartError) : Aside (refusing b j x e) :=
  fun u t => aside_disown b j (u.putJob j (refused x e)) (t.putJob j (refused x e))

/-- What the start of a scan writes beside the passthrough path (R58). -/
def scanning (b : BayId) (j : JobId) (x : Job) (m : CoverageMap) (s : State) : State := (s.putJob j x).putMap b m

theorem aside_scanning (b : BayId) (j : JobId) (x : Job) (m : CoverageMap) : Aside (scanning b j x m) := fun _ _ => rfl

theorem beginScan_eq {s : State} {j : JobId} {x : Job} (hx : s.job j = x) (d : DriveIdentity) :
    beginScan s j d = reevaluate (scanning x.bay j (scanned x d) (scannedMap j x d) s) x.bay := by
  subst hx; rfl

/-- The scan that begins changes nothing an indicator shows. -/
theorem wantedPattern_beginScan {s : State} {j : JobId} {x : Job} (hx : s.job j = x)
    (hs : x.state = .preparing .draining) (d : DriveIdentity) (b : BayId) :
    wantedPattern (beginScan s j d) b = wantedPattern s b := by
  rw [beginScan_eq hx]
  refine wantedPattern_congr (fun k => ?_) (by simp; rfl) (by simp; rfl)
  rw [reevaluate_job]
  have hk : (scanning x.bay j (scanned x d) (scannedMap j x d) s).job k = if k = j then scanned x d else s.job k :=
    State.putJob_job s j k _
  rw [hk]
  split
  · next e =>
    subst e
    rw [hx]
    exact { active := by rw [hs]; rfl, closed := by rw [hs]; simp [scanned], pattern := by unfold jobPattern; rw [hs]; rfl }
  · exact {}

/-- Stages 2 to 5 taken at once, behind a report or none (R7, R8, R58). -/
theorem advancePreparation_eq {s : State} {j : JobId} {x : Job} {d : DriveIdentity} (hx : s.job j = x)
    (hs : x.state = .preparing .draining) (hd : (s.port x.bay).identity = some d)
    (hw : ¬ WriteOutstanding (s.port x.bay)) : advancePreparation s j =
      if (∃ p ∈ s.program x.program, kindOfPass p = .nativeErase) ∧ (x.extentCount ≠ 0 ∨ d.nativeErase = false) then
        failPreparation s j (if x.extentCount ≠ 0 then .programConflict else .noNativeErase)
      else beginScan s j d := by
  subst hx
  unfold advancePreparation
  dsimp only
  rw [hs, hd]
  dsimp only
  rw [if_neg (by rwa [writesOutstanding_iff]), programError_eq]
  by_cases h : (∃ p ∈ s.program (s.job j).program, kindOfPass p = .nativeErase) ∧
      ((s.job j).extentCount ≠ 0 ∨ d.nativeErase = false)
  · rw [if_pos h, if_pos h]
  · rw [if_neg h, if_neg h]

/-- Stage 1 goes on to the next ones where nothing holds it back (R7, R8, R58). -/
theorem preparationFollows {b : BayId} {u t : State} {j : JobId} {x : Job} {d : DriveIdentity} (h : Rejudged b u t)
    (hx : u.job j = x) (hb : x.bay = b) (hs : x.state = .preparing .draining) (hd : (u.port b).identity = some d)
    (hw : ¬ WriteOutstanding (u.port b)) (hp : t.port b = u.port b ∨ (t.port b).shown = wantedPattern t b) :
    PreparationFollows j d u (advancePreparation t j) := by
  subst hb
  have hxt : t.job j = x := (h.job j).trans hx
  have hprog : t.program x.program = u.program x.program := by rw [h.frame]; rfl
  obtain ⟨_, hpi, hpq⟩ := h.port_kept x.bay
  rw [advancePreparation_eq hxt hs (hpi.trans hd) (by unfold WriteOutstanding; rwa [hpq]), hprog]
  unfold PreparationFollows
  dsimp only
  rw [hx]
  split
  · rw [failPreparation_eq hxt hs]
    refine ⟨_, rfl, ?_⟩
    exact ((h.map (aside_refusing x.bay j x _)).trans (rejudged_report _ _)).afterRejudging
      (shown_refreshIndicator _ _)
  · have hm := (h.map (aside_scanning x.bay j (scanned x d) (scannedMap j x d))).trans (rejudged_reevaluate _ x.bay)
    rw [beginScan_eq hxt]
    refine hm.afterRejudging_of (hp.imp (fun e => ?_) fun e => ?_)
    · rw [reevaluate_port]; exact e
    · rw [← beginScan_eq hxt, wantedPattern_beginScan hxt hs, beginScan_eq hxt, reevaluate_port]; exact e

/-! ### START -/

theorem onward_raise (s : State) (b : BayId) (k : AttentionKind) : Onward s (raise s b k) :=
  ⟨(inner_raise s b k).sent, fun _ h => by simpa using h, fun _ h => by simpa using h, fun _ h => by simpa using h⟩

theorem judgeHeld_raise (s : State) (b : BayId) (k : AttentionKind) (c : PassCommand) :
    judgeHeld (raise s b k) c = judgeHeld s c :=
  judgeHeld_of_path (by simp) (by simp) (by simp) (fun d => by simp) c

theorem AllCarried.onward {b : BayId} {u s t : State} {f : PassCommand → Verdict} (h : AllCarried b u f s)
    (ho : Onward s t) (hh : ∀ c ∈ s.hold, c ∈ t.hold) : AllCarried b u f t :=
  fun c hc hb hun => (h c hc hb hun).mono ho fun e => hh c ((h c hc hb hun).1 e)

/-- A second change made and judged behind a report: the held reads have been judged twice (R158). -/
theorem judgedTwice_behind {b : BayId} {u v : State} {g : State → State} (hg : Aside g)
    (hl : ∀ s, (g s).link = s.link)
    (hv : AllCarried b (g (report u b)) (judgeHeld (g (report u b))) v) (ho : Onward (g (report u b)) v)
    (hj : ∀ c, judgeHeld v c = judgeHeld (g (report u b)) c) : JudgedTwice b u v := by
  have r1 := (rejudged_report u b).map hg
  have both : AllCarried b (g u) _ v :=
    ((allCarried_report u b).map hg (hl u)).andThen r1.path.hold (by rw [r1.frame]; rfl) hv ho
  have hu : (g u).hold = u.hold := by rw [show g u = overlay (g u) u from hg u u]; rfl
  intro c hc hb hun
  have hc' := both c (by rwa [hu]) hb (by rwa [hu])
  rw [hl u] at hc'
  simp only [hj]
  exact hc'

/-- What is judged again as a preparation goes on behind a report: once as it stands, and once behind it (R158). -/
theorem judgedTwice_advance {b : BayId} {u : State} {j : JobId} {x : Job} {d : DriveIdentity}
    (hx : u.job j = x) (hb : x.bay = b) (hs : x.state = .preparing .draining) (hd : (u.port b).identity = some d)
    (hw : ¬ WriteOutstanding (u.port b)) : JudgedTwice b u (advancePreparation (report u b) j) := by
  subst hb
  have hxt : (report u x.bay).job j = x := by simp [hx]
  obtain ⟨_, hpi, hpq⟩ := (rejudged_report u x.bay).port_kept x.bay
  rw [advancePreparation_eq hxt hs (hpi.trans hd) (by unfold WriteOutstanding; rwa [hpq])]
  split
  · generalize (if x.extentCount ≠ 0 then StartError.programConflict else StartError.noNativeErase) = e
    rw [failPreparation_eq hxt hs]
    refine judgedTwice_behind (aside_refusing x.bay j x e) (fun s => ?_) ?_ ?_ fun c => ?_
    · unfold refusing disown; split <;> rfl
    · exact (allCarried_report _ x.bay).onward (onward_raise _ _ _) fun _ h => by rw [raise_hold]; exact h
    · have h1 := (rejudged_report (refusing x.bay j x e (report u x.bay)) x.bay).path.onward
      exact h1.trans (onward_raise _ _ _)
    · rw [judgeHeld_raise, judgeHeld_report]; rfl
  · rw [beginScan_eq hxt]
    refine judgedTwice_behind (aside_scanning x.bay j (scanned x d) (scannedMap j x d)) (fun _ => rfl) ?_ ?_ fun c => ?_
    · exact fun c hc hb hun => carried_reevaluate hc hb hun
    · exact (rejudged_reevaluate _ x.bay).path.onward
    · rw [judgeHeld_reevaluate]

/-- START takes a LOADED job into the active group (R5). -/
theorem bayActive_iff (s : State) (b : BayId) :
    bayActive s b = true ↔ ∃ k, (s.job k).state.active = true ∧ (s.job k).bay = b := by
  unfold bayActive
  rw [Option.isSome_iff_ne_none, ne_eq, activeJob_none]
  simp

/-- The change of a LOADED job that enters the active group, and its report (R5). -/
theorem setState_started {s : State} {j : JobId} {x : Job} {st : JobState} (hx : s.job j = x) (hs : x.state = .loaded)
    (ha : st.active = true) : setState (s.modJob j fun x => { x with startError := none }) j st =
      report (s.putJob j { x with startError := none, state := st }) x.bay := by
  subst hx
  have h := changeJob_report (s := s.putJob j { s.job j with startError := none }) (j := j)
    (x := { s.job j with startError := none, state := st })
  simp only [State.putJob_job_same, putJob_putJob] at h
  have e : s.modJob j (fun x => { x with startError := none }) = s.putJob j { s.job j with startError := none } := rfl
  rw [e, setState_eq, State.putJob_job_same]
  refine h ?_ (by rw [hs]; nofun) (.inl ha)
  rintro e
  rw [hs] at e
  rw [← e] at ha
  exact Bool.false_ne_true ha

/-- The effect of START on a LOADED job whose bay has no active job (R5, R7). -/
theorem startJob_eq {s : State} {j : JobId} {x : Job} (hx : s.job j = x) (hs : x.state = .loaded) : startJob s j =
    if (s.port x.bay).state = .ready then
      advancePreparation (report (s.putJob j { x with startError := none, state := .preparing .draining }) x.bay) j
    else report (s.putJob j { x with startError := none, state := .waitingBay }) x.bay := by
  unfold startJob
  dsimp only
  unfold enterPreparing
  rw [setState_started hx hs rfl, setState_started hx hs rfl]
  have hb : ((s.modJob j fun x => { x with startError := none }).job j).bay = x.bay := by
    rw [State.modJob_job_same, ← hx]
  have hr : bayReady (s.modJob j fun x => { x with startError := none }) x.bay =
      decide ((s.port x.bay).state = .ready) := rfl
  rw [hb, hr]
  by_cases h : (s.port x.bay).state = .ready
  · rw [if_pos (decide_eq_true h), if_pos h]
  · rw [if_neg (by simpa using h), if_neg h]

/-- Stage 1 stands where a write is outstanding or the drive is not known (R7). -/
theorem advancePreparation_stands {s : State} {j : JobId} {x : Job} (hx : s.job j = x)
    (h : WriteOutstanding (s.port x.bay) ∨ (s.port x.bay).identity = none) : advancePreparation s j = s := by
  subst hx
  unfold advancePreparation
  dsimp only
  split
  · next d _ hd =>
    rw [if_pos]
    rw [writesOutstanding_iff]
    exact h.resolve_right (by rw [hd]; nofun)
  · rfl

/-- Settles O27: the job waits for its bay, or stands in stage 1, or goes on behind its report. -/
theorem startWaitsOrPrepares : Obligations.StartWaitsOrPrepares := by
  unfold Obligations.StartWaitsOrPrepares
  refine fun s c rest slot hfront => ⟨fun hn => ?_, fun j hj => ?_⟩
  · simp only [exec, execStart, takeManagement_front hfront.1 hfront.2, onSlot_high hn, refuse_putManagement]
  subst hj
  have e : exec (.start j.val) s = .next (
      if (s.job j).state ≠ .loaded then replied s c rest (.refused .state) .nothing
      else if bayActive s (s.job j).bay then replied s c rest .busy .nothing
      else startJob (accepted s c rest) j) := by
    simp only [exec, execStart, takeManagement_front hfront.1 hfront.2, onSlot_val, State.putManagement_job,
      refuse_putManagement, accept_putManagement, reply_putManagement]
    rfl
  dsimp only
  rw [e]
  by_cases hs : (s.job j).state = .loaded
  · have hne : ¬ (s.job j).state ≠ .loaded := not_not_intro hs
    rw [if_neg hne, if_neg hne]
    by_cases ha : ∃ k, (s.job k).state.active = true ∧ (s.job k).bay = (s.job j).bay
    · rw [if_pos ((bayActive_iff ..).mpr ha), if_pos ha]
    · rw [if_neg ha, if_neg (mt (bayActive_iff ..).mp ha)]
      have started := startJob_eq (s := accepted s c rest) (j := j) (x := s.job j) rfl hs
      rw [replied_port] at started
      refine ⟨_, rfl, ?_⟩
      rw [started]
      by_cases hr : (s.port (s.job j).bay).state = .ready
      · rw [if_neg (not_not_intro hr : ¬ (s.port (s.job j).bay).state ≠ .ready), if_pos hr]
        have hx : ((accepted s c rest).putJob j
          { s.job j with startError := none, state := .preparing .draining }).job j =
            { s.job j with startError := none, state := .preparing .draining } := State.putJob_job_same ..
        split
        · next hw =>
          have hxr := ((rejudged_report ((accepted s c rest).putJob j
            { s.job j with startError := none, state := .preparing .draining }) (s.job j).bay).job j).trans hx
          obtain ⟨_, hpi, hpq⟩ := (rejudged_report ((accepted s c rest).putJob j
            { s.job j with startError := none, state := .preparing .draining }) (s.job j).bay).port_kept (s.job j).bay
          rw [advancePreparation_stands hxr (hw.imp (fun h => by unfold WriteOutstanding; rw [hpq]; exact h) fun h =>
            hpi.trans h)]
          exact reported_report ..
        · next hw =>
          refine fun d hd => ⟨?_, ?_⟩
          · exact preparationFollows (rejudged_report ..) hx rfl rfl hd (fun h => hw (.inl h))
              (.inr (shown_refreshIndicator ..))
          · exact judgedTwice_advance hx rfl rfl hd fun h => hw (.inl h)
      · rw [if_pos hr, if_neg hr]
        exact reported_report ..
  · rw [if_pos hs, if_pos hs]

end Sys2Proof.Proofs
end

section
/-! The completion of a passthrough request and of the bay port's IDENTIFY, and the preparation that goes on behind them
(R7, R116, R119, R135 to R137). -/

namespace Sys2Proof.Proofs

open Sys2Proof Sys2Proof.Machine Sys2Proof.Safety

/-! ### Records -/

theorem findRecord_id {s : State} {b : BayId} {id : Nat} {r : Record} (h : findRecord s b id = some r) : r.id = id := by
  simpa using List.find?_some h

/-- The drive's completion of a record (R108). -/
theorem exec_completion {s : State} {b : BayId} {id : Nat} {r : Record} (h : findRecord s b id = some r)
    (status : CompletionStatus) (d : DriveIdentity) :
    exec (.requestCompletion b id status d) s = .next (takeCompletion s b r status d) := by
  simp only [exec, execRequestCompletion, h]

/-- The abort confirmation of an ABORTING record (R113). -/
theorem exec_confirmation {s : State} {b : BayId} {id : Nat} {r : Record} (h : findRecord s b id = some r)
    (ha : r.status = .aborting) : exec (.abortConfirmation b id) s = .next (takeConfirmation s b r) := by
  simp only [exec, execAbortConfirmation, h, ha, if_true]

theorem completionResponse_eq (status : CompletionStatus) (record : RecordStatus) : completionResponse status record =
    match status with
    | .good => .good
    | .mediaError => .mediaError
    | .deviceError => .deviceError
    | .addressError => .addressError
    | .aborted => if record = .aborting then .driveTimeout else .aborted := by
  cases status <;> cases record <;> rfl

/-! ### A passthrough record ends -/

/-- The state behind a passthrough record that has ended: it has left the queue, its slot is free, and its command is
answered where its result is wanted (R108, R116, R119). -/
def answeredRecord (s : State) (b : BayId) (r : Record) (c : PassCommand) (sub : Bool) (x : ResponseStatus) : State :=
  { s with
    ports := put s.ports b { s.port b with queue := (s.port b).queue.filter fun q => decide (q.id ≠ r.id) }
    slots := match r.slot with
      | some k => put s.slots k Slot.empty
      | none => s.slots
    tags := if r.wanted = true then put s.tags c.tag false else s.tags
    sent := if r.wanted = true ∧ s.link = .up then s.sent ++ [.response b.val c.tag c.opcode x sub] else s.sent }

theorem completeCommand_eq (s : State) (b : BayId) (r : Record) (c : PassCommand) (sub : Bool) (x : ResponseStatus) :
    completeCommand s b r c sub x = recheckPreparation (answeredRecord s b r c sub x) b := by
  unfold completeCommand answeredRecord dropRecord freeSlot
  dsimp only
  congr 1
  cases hw : r.wanted <;> cases r.slot <;> simp [respond_eq] <;> rfl

/-- Stage 1 is looked at for the active job of the bay. -/
theorem recheckPreparation_of_active {s : State} {b : BayId} {j : JobId} (h : activeJob s b = some j) :
    recheckPreparation s b = advancePreparation s j := by
  unfold recheckPreparation; rw [h]

/-- A job that is in another state than stage 1 does not go on with it. -/
theorem advancePreparation_elsewhere {s : State} {j : JobId} (h : (s.job j).state ≠ .preparing .draining) :
    advancePreparation s j = s := by
  unfold advancePreparation
  dsimp only
  split
  · next hs _ => exact absurd hs h
  · rfl

/-- Stage 1 stands behind a record that ends, or goes on where no write is left (R7). -/
theorem completeCommand_follows {s : State} {b : BayId} {r : Record} {c : PassCommand} {sub : Bool}
    {x : ResponseStatus} :
    ((∀ j, activeJob s b = some j → (s.job j).state ≠ .preparing .draining ∨
      WriteOutstanding { s.port b with queue := (s.port b).queue.filter fun q => decide (q.id ≠ r.id) }) →
      completeCommand s b r c sub x = answeredRecord s b r c sub x) ∧
    ∀ j d, activeJob s b = some j → (s.job j).state = .preparing .draining → (s.port b).identity = some d →
      ¬ WriteOutstanding { s.port b with queue := (s.port b).queue.filter fun q => decide (q.id ≠ r.id) } →
      PreparationFollows j d (answeredRecord s b r c sub x) (completeCommand s b r c sub x) := by
  rw [completeCommand_eq]
  have ha : activeJob (answeredRecord s b r c sub x) b = activeJob s b := activeJob_congr_activity (.of_jobs rfl) b
  have hp : (answeredRecord s b r c sub x).port b =
      { s.port b with queue := (s.port b).queue.filter fun q => decide (q.id ≠ r.id) } := State.putPort_port_same ..
  refine ⟨fun h => ?_, fun j d hj hs hd hw => ?_⟩
  · cases hj : activeJob s b with
    | none => unfold recheckPreparation; rw [ha, hj]
    | some j =>
      rw [recheckPreparation_of_active (ha.trans hj)]
      rcases h j hj with h | h
      · exact advancePreparation_elsewhere h
      · refine advancePreparation_stands (x := s.job j) rfl (.inl ?_)
        rwa [(activeJob_spec hj).2, hp]
  · rw [recheckPreparation_of_active (ha.trans hj)]
    exact preparationFollows (.refl b _) rfl (activeJob_spec hj).2 hs (by rw [hp]; exact hd) (by rwa [hp]) (.inl rfl)

/-- Settles O44: the completion and the confirmation end the record with the status of R116. -/
theorem passthroughCompletionIsAnswered : Obligations.PassthroughCompletionIsAnswered := by
  unfold Obligations.PassthroughCompletionIsAnswered
  intro s b id r cmd sub hf hl
  have hid := findRecord_id hf
  subst hid
  intro rest ended completes
  have follows : ∀ i x, exec i s = .next (completeCommand s b r cmd sub x) → completes i x := fun i x e =>
    ⟨fun h => e.trans (congrArg Host.Outcome.next (completeCommand_follows.1 h)),
      fun j d hj hs hd hw => ⟨_, e, completeCommand_follows.2 j d hj hs hd hw⟩⟩
  refine ⟨fun status d => ?_, fun ha => ?_⟩
  · have e := exec_completion hf status d
    unfold takeCompletion at e
    rw [hl] at e
    have h := follows _ _ e
    rw [completionResponse_eq] at h
    exact h
  · have e := exec_confirmation hf ha
    unfold takeConfirmation at e
    rw [hl] at e
    exact follows _ _ e

/-! ### The states of a bay and its indicator -/

theorem putPort_self (s : State) (b : BayId) : s.putPort b (s.port b) = s := by
  unfold State.putPort State.port
  rw [show put s.ports b s.ports[b] = s.ports from Vector.set_getElem_self ..]

/-- A refreshed indicator shows its override or else the automatic pattern (R142 to R144). -/
theorem refreshIndicator_showing (s : State) (b : BayId) :
    refreshIndicator s b = s.putPort b (showing (autoPattern s b) (s.port b)) := by
  unfold refreshIndicator wantedPattern showing
  dsimp only
  split
  · exact (putPort_self s b).symm
  · rfl

/-- A bay in a state that shows no job has the pattern of that state (R143). -/
def bayPattern : BayState → IndicatorPattern
  | .empty => .off
  | .seating => .fast
  | .identifying => .fast
  | .resetting => .fast
  | .faulted => .double
  | .ready => .on

theorem autoPattern_of_state {s : State} {b : BayId} (h : (s.port b).state ≠ .ready) :
    autoPattern s b = bayPattern (s.port b).state := by
  unfold autoPattern bayPattern
  cases hs : (s.port b).state <;> first | rfl | exact absurd hs h

/-- A bay that enters a state other than READY shows that state's pattern (R130, R143). -/
theorem setBayState_putPort (s : State) (b : BayId) (p : BayPort) {st : BayState} (h : st ≠ .ready) :
    setBayState (s.putPort b p) b st = s.putPort b (showing (bayPattern st) { p with state := st }) := by
  unfold setBayState
  have e : (s.putPort b p).modPort b (fun p => { p with state := st }) = s.putPort b { p with state := st } := by
    unfold State.modPort
    rw [State.putPort_port_same, putPort_putPort]
  rw [e, refreshIndicator_showing, putPort_putPort, State.putPort_port_same]
  rw [autoPattern_of_state (by rw [State.putPort_port_same]; exact h), State.putPort_port_same]

/-- The shown pattern is all that an indicator changes of its port. -/
theorem showing_eq (auto : IndicatorPattern) (p : BayPort) :
    showing auto p = { p with shown := (showing auto p).shown, phase := (showing auto p).phase } := by
  unfold showing
  dsimp only
  split <;> rfl

/-! ### IDENTIFY -/

theorem dropRecord_eq (s : State) (b : BayId) (n : Nat) : dropRecord s b n =
    s.putPort b { s.port b with queue := (s.port b).queue.filter fun q => decide (q.id ≠ n) } := rfl

/-- The next attempt of the identify procedure (R134). -/
theorem issueIdentify_eq (s : State) (b : BayId) (p : BayPort) :
    issueIdentify (s.putPort b p) b = identifying s b p := by
  unfold issueIdentify issueRequest State.modPort
  simp only [State.putPort_port_same, putPort_putPort]
  rfl

/-- The bay becomes FAULTED with a reason (R135, R136). -/
theorem enterFaulted_eq (s : State) (b : BayId) (p : BayPort) (f : FaultReason) (d : Option DriveIdentity) :
    enterFaulted (s.putPort b p) b f d =
      raise (s.putPort b (showing .double { p with state := .faulted, fault := some f, rejected := d })) b .faulted := by
  unfold enterFaulted
  have e : (s.putPort b p).modPort b (fun p => { p with fault := some f, rejected := d }) =
      s.putPort b { p with fault := some f, rejected := d } := by
    unfold State.modPort
    rw [State.putPort_port_same, putPort_putPort]
  dsimp only
  rw [e, setBayState_putPort _ _ _ (by nofun)]
  rfl

theorem failIdentify_eq (s : State) (b : BayId) (p : BayPort) : failIdentify (s.putPort b p) b =
    if p.attempts < 3 then identifying s b p
    else raise (s.putPort b (showing .double { p with
      state := .faulted, fault := some .noResponse, rejected := none })) b .faulted := by
  unfold failIdentify
  rw [State.putPort_port_same, issueIdentify_eq, enterFaulted_eq]
  rfl

/-- The bay that has become READY with its drive (R135). -/
def readied (s : State) (b : BayId) (p : BayPort) (d : DriveIdentity) : State :=
  let v := s.putPort b { p with identity := some d, attempts := 0, state := .ready }
  raise (v.putPort b (showing (autoPattern v b) (v.port b))) b .ready

theorem readied_jobs (s : State) (b : BayId) (p : BayPort) (d : DriveIdentity) : (readied s b p d).jobs = s.jobs := by
  unfold readied; rw [raise_jobs]; rfl

theorem readied_port (s : State) (b : BayId) (p : BayPort) (d : DriveIdentity) :
    ((readied s b p d).port b).identity = some d ∧ ((readied s b p d).port b).queue = p.queue := by
  unfold readied
  dsimp only
  rw [raise_port, State.putPort_port_same, State.putPort_port_same, showing_eq]
  exact ⟨rfl, rfl⟩

theorem enterReady_eq (s : State) (b : BayId) (p : BayPort) (d : DriveIdentity) : enterReady (s.putPort b p) b d =
    match activeJob s b with
    | none => readied s b p d
    | some j =>
      match (s.job j).state, (s.job j).identity with
      | .waitingBay, _ => enterPreparing (readied s b p d) j
      | .halted, some x => if sameDrive d x then readied s b p d else raise (readied s b p d) b .foreignDrive
      | _, _ => readied s b p d := by
  have e : raise (setBayState ((s.putPort b p).modPort b fun p => { p with identity := some d, attempts := 0 }) b .ready)
      b .ready = readied s b p d := by
    unfold setBayState State.modPort readied
    simp only [State.putPort_port_same, putPort_putPort, refreshIndicator_showing]
  unfold enterReady
  dsimp only
  rw [e, activeJob_congr_activity (.of_jobs (readied_jobs s b p d))]
  simp only [State.job, readied_jobs] <;> rfl

/-- The job that waits for the bay goes on behind its READY (R6, R7, R135). -/
theorem enterPreparing_readied {s : State} {b : BayId} {p : BayPort} {d : DriveIdentity} {j : JobId}
    (hj : activeJob s b = some j) (hs : (s.job j).state = .waitingBay) :
    let u := (readied s b p d).putJob j { s.job j with state := .preparing .draining }
    if WriteOutstanding p then AfterRejudging b u (enterPreparing (readied s b p d) j)
    else PreparationFollows j d u (enterPreparing (readied s b p d) j) := by
  obtain ⟨_, hb⟩ := activeJob_spec hj
  have hjob : (readied s b p d).job j = s.job j := by unfold State.job; rw [readied_jobs]
  have e : enterPreparing (readied s b p d) j = advancePreparation
      (report ((readied s b p d).putJob j { s.job j with state := .preparing .draining }) b) j := by
    unfold enterPreparing
    have h := changeJob_report (s := readied s b p d) (j := j) (x := { s.job j with state := .preparing .draining })
    rw [hjob] at h
    rw [setState_eq, hjob, h (by rw [hs]; nofun) (by rw [hs]; nofun) (.inl rfl), hb]
  obtain ⟨hi, hq⟩ := readied_port s b p d
  have hx : ((readied s b p d).putJob j { s.job j with state := .preparing .draining }).job j =
    { s.job j with state := .preparing .draining } := State.putJob_job_same ..
  have hr := rejudged_report ((readied s b p d).putJob j { s.job j with state := .preparing .draining }) b
  dsimp only
  rw [e]
  split
  · next hw =>
    rw [advancePreparation_stands ((hr.job j).trans hx) (.inl ?_)]
    · exact hr.afterRejudging (shown_refreshIndicator _ b)
    · unfold WriteOutstanding
      rw [hb, (hr.port_kept b).2.2]
      change ∃ r ∈ ((readied s b p d).port b).queue, _
      rwa [hq]
  · next hw =>
    refine preparationFollows hr hx hb rfl hi ?_ (.inr (shown_refreshIndicator _ b))
    change ¬ ∃ r ∈ ((readied s b p d).port b).queue, _
    rwa [hq]

/-- Settles O45: the completion is judged, and a READY bay looks at its job. -/
theorem identifyDecidesTheBay : Obligations.IdentifyDecidesTheBay := by
  unfold Obligations.IdentifyDecidesTheBay
  intro s b id r hf hl p failed usable ready
  have hid := findRecord_id hf
  subst hid
  have completed : ∀ status d, exec (.requestCompletion b r.id status d) s =
      .next (if status = .good then judgeIdentify (s.putPort b p) b d else failIdentify (s.putPort b p) b) := by
    intro status d
    rw [exec_completion hf]
    unfold takeCompletion
    rw [hl]
    rfl
  have judged : ∀ d, usable d → exec (.requestCompletion b r.id .good d) s = .next (enterReady (s.putPort b p) b d) := by
    intro d hd
    rw [completed, if_pos rfl]
    unfold judgeIdentify
    rw [if_pos hd]
  refine ⟨fun status d hs => ?_, fun ha => ?_, fun d hd => ?_, fun d hd => ⟨?_, ?_, ?_⟩⟩
  · rw [completed, if_neg hs, failIdentify_eq]
  · rw [exec_confirmation hf ha]
    unfold takeConfirmation
    rw [hl]
    exact congrArg Host.Outcome.next (failIdentify_eq s b p)
  · rw [completed, if_pos rfl]
    unfold judgeIdentify
    rw [if_neg hd, enterFaulted_eq]
  · intro j hj hs x hx
    rw [judged d hd, enterReady_eq, hj]
    simp only [hs, hx, sameDrive, Bool.and_eq_true, decide_eq_true_eq, and_assoc]
    rfl
  · intro h
    rw [judged d hd, enterReady_eq]
    cases hj : activeJob s b with
    | none => rfl
    | some j =>
      obtain ⟨hw, hh⟩ := h j hj
      dsimp only
      split
      · next e => exact absurd e hw
      · next e i => rw [hh e] at i; cases i
      · rfl
  · intro j hj hs
    refine ⟨_, (judged d hd).trans ?_, enterPreparing_readied hj hs⟩
    rw [enterReady_eq, hj]
    simp only [hs]

end Sys2Proof.Proofs
end

section
/-! Preparation stage 5 and the start of the run: the checks of a word, the due counts, and the first pass (R59, R63 to
R65, R7, R14, R34). -/

namespace Sys2Proof.Proofs

open Sys2Proof Sys2Proof.Machine Sys2Proof.Safety

/-! ### One word of the scan -/

/-- An extent adds its stripes to the due of every zone (R63). -/
theorem countInto_eq (e : Extent) (z S : Nat) (es : List ZoneEntry) : ∀ k, countInto e z S k es =
    es.mapIdx fun i y => { y with due := y.due + stripesWithin e ((i + k) * 2 ^ z) ((i + k + 1) * 2 ^ z) S } := by
  induction es with
  | nil => exact fun _ => rfl
  | cons y ys ih =>
    intro k
    unfold countInto
    rw [ih, List.mapIdx_cons, Nat.zero_add]
    simp only [Nat.add_assoc, Nat.add_comm 1]

/-- The zones of a map with an extent's stripes counted (R63). -/
def countedZones (e : Extent) (g : Geometry) (es : List ZoneEntry) : List ZoneEntry :=
  es.mapIdx fun i z => { z with due := z.due + stripesWithin e (i * 2 ^ g.z) ((i + 1) * 2 ^ g.z) g.sEff }

/-- The record of a job whose scan has counted a word (R59, R65). -/
def countedJob (x : Job) (clamped : Bool) (next stop : Nat) : Job :=
  { x with extentClamped := x.extentClamped || clamped, state := .preparing (.scanning next stop) }

theorem countExtent_eq {s : State} {j : JobId} {x : Job} (hx : s.job j = x) (g : Geometry) (e : Extent) (clamped : Bool)
    (next : Nat) : countExtent s j g e clamped next = (s.putJob j (countedJob x clamped next e.stop)).putMap x.bay
      { s.map x.bay with entries := countedZones e g (s.map x.bay).entries } := by
  subst hx
  have hc : ∀ es, countInto e g.z g.sEff 0 es = countedZones e g es := fun es => countInto_eq e g.z g.sEff es 0
  unfold countExtent
  dsimp only
  rw [hc]
  rfl

/-- The step of a scan (R58, R59). -/
theorem exec_scanWord {s : State} {b : BayId} {j : JobId} {g : Geometry} {n e : Nat} (ha : activeJob s b = some j)
    (hs : (s.job j).state = .preparing (.scanning n e)) (hg : (s.job j).geometry = some g) :
    exec (.extentScanWord b) s = .next (scanStep s j n e g) := by
  simp only [exec, execExtentScanWord, ha, hs, hg]

/-- A word that fails a check ends the preparation (R8, R66). -/
theorem failPreparation_clearMap {s : State} {j : JobId} {x : Job} {n e : Nat} (hx : s.job j = x)
    (hs : x.state = .preparing (.scanning n e)) (r : StartError) :
    ∃ v, failPreparation (clearMap s x.bay) j r = raise v x.bay .startRefused ∧
      AfterRejudging x.bay ((s.putMap x.bay CoverageMap.cleared).putJob j (refused x r)) v := by
  refine ⟨_, ?_, afterRejudging_clearMap hx hs rfl⟩
  have hj : (clearMap s x.bay).job j = x := by unfold clearMap; simpa using hx
  unfold failPreparation
  dsimp only
  rw [hj]
  rfl

/-- Settles O50: the five checks in their order, and the count. -/
theorem scanChecksAndCountsAWord : Obligations.ScanChecksAndCountsAWord := by
  unfold Obligations.ScanChecksAndCountsAWord
  intro s b j g next previousEnd ha hs hg hn x C word fails
  obtain ⟨_, hb⟩ := activeJob_spec ha
  subst hb
  have e := exec_scanWord ha hs hg
  have failing : ∀ kind, checkWord (decide (next = 0)) word C g.sEff previousEnd = .error kind → fails kind := by
    intro kind hk
    obtain ⟨v, hv, hr⟩ := failPreparation_clearMap (s := s) (j := j) rfl hs (.extentCheck (x.extentFirst + next) kind)
    refine ⟨_, v, e, ?_, hr⟩
    rw [← hv]
    unfold scanStep
    dsimp only
    rw [if_neg hn, hk]
  split
  · next h => exact failing _ (by unfold checkWord; rw [if_pos h])
  · next h1 =>
    split
    · next h => exact failing _ (by unfold checkWord; rw [if_neg h1, if_pos h])
    · next h2 =>
      split
      · next h => exact failing _ (by unfold checkWord; rw [if_neg h1, if_neg h2, if_pos (by simpa using h)])
      · next h3 =>
        split
        · next h =>
          exact failing _ (by unfold checkWord; rw [if_neg h1, if_neg h2, if_neg (by simpa using h3),
            if_pos (by simpa using h)])
        · next h4 =>
          intro ex hl
          rw [e]
          unfold scanStep
          dsimp only
          rw [if_neg hn]
          have hk : checkWord (decide (next = 0)) word C g.sEff previousEnd =
              .counted (clampedExtent word C) (decide (C < word.start + word.length)) := by
            unfold checkWord
            rw [if_neg h1, if_neg h2, if_neg (by simpa using h3), if_neg (by simpa using h4)]
          rw [hk]
          dsimp only
          rw [if_pos hl, countExtent_eq rfl]
          rfl

end Sys2Proof.Proofs
end

section
/-! The start of a pass that has work, and the start of the run behind the scan (R7, R14, R34, R38, R45, R64). -/

namespace Sys2Proof.Proofs

open Sys2Proof Sys2Proof.Machine Sys2Proof.Safety

/-! ### A pass begins with work -/

/-- The walk context of a pass as Safety.lean spells it (R34, R71). -/
theorem passContext_eq (s : State) (x : Job) (i : Nat) (p : PassImage) :
    passContext s x (s.program x.program) i p = contextOfPass s x i p := by
  unfold passContext contextOfPass walkDirection walkPattern passMarks
  cases hk : kindOfPass p <;> simp
  cases (s.program x.program)[p.reference]? <;> rfl

/-- The entries of a map but for their done counts. -/
def withoutDone (es : List ZoneEntry) : List ZoneEntry := es.map fun e => { e with done := 0 }

/-- What does not read the done counts of a list of zones reads the same of two lists that differ in them. -/
theorem map_withoutDone {α : Type} {f : ZoneEntry → α} (hf : ∀ e, f { e with done := 0 } = f e) (es : List ZoneEntry) :
    (withoutDone es).map f = es.map f := by
  unfold withoutDone
  rw [List.map_map]
  exact List.map_congr_left fun e _ => hf e

theorem map_congr_done {α : Type} {f : ZoneEntry → α} (hf : ∀ e, f { e with done := 0 } = f e) {es gs : List ZoneEntry}
    (h : withoutDone gs = withoutDone es) : gs.map f = es.map f := by
  rw [← map_withoutDone hf, h, map_withoutDone hf]

/-- What carries a run on changes no zone but in its done count. -/
theorem RunFrame.withoutDone {b : BayId} {j : JobId} {s t : State} (h : RunFrame b j s t) (c : BayId) :
    withoutDone (t.map c).entries = withoutDone (s.map c).entries := by
  have hl := h.length c
  refine List.ext_getElem (by simp [Proofs.withoutDone, hl]) fun i h1 h2 => ?_
  have h1' : i < (t.map c).entries.length := by simpa [Proofs.withoutDone] using h1
  have h2' : i < (s.map c).entries.length := by simpa [Proofs.withoutDone] using h2
  have hz := h.zone c i
  unfold State.zone at hz
  simp only [List.getD_eq_getElem?_getD, List.getElem?_eq_getElem h1', List.getElem?_eq_getElem h2',
    Option.getD_some] at hz
  simp only [Proofs.withoutDone, List.getElem_map]
  rw [hz]

/-- The context of a pass that begins rests on the tables, the job's list and program, and the zones' proofs. -/
theorem contextOfPass_congr {s t : State} {x y : Job} (ht : t.tables = s.tables) (h : SameWalk x y)
    (hp : y.program = x.program) (hm : withoutDone (t.map x.bay).entries = withoutDone (s.map x.bay).entries)
    (i : Nat) (p : PassImage) : contextOfPass t y i p = contextOfPass s x i p := by
  have hprog : t.program y.program = s.program x.program := by rw [hp]; unfold State.program; rw [ht]
  unfold contextOfPass
  dsimp only
  rw [hprog, jobExtents_congr ht h, jobCapacity_congr h, h.bay, map_congr_done (fun _ => rfl) hm]

/-- The pass has work to issue, in the words of Safety.lean (R35, R49). -/
theorem passHasWork_iff (s : State) (x : Job) (w : WalkContext) : passHasWork s x w = true ↔
    if w.kind = .nativeErase then w.cursor ≠ passEnd s x w else nextStripe s x w ≠ none := by
  unfold passHasWork
  cases w.kind <;> simp [Option.isSome_iff_ne_none]

/-- The context of a pass that begins stands in the job's bay (R34). -/
theorem startPass_context {s : State} {j : JobId} {i : Nat} {p : PassImage}
    (hp : (s.program (s.job j).program)[i]? = some p) :
    (startPass s j i).context (s.job j).bay = some (contextOfPass s (s.job j) i p) := by
  unfold startPass
  dsimp only
  rw [hp]
  dsimp only
  rw [State.putContext_context_same]
  refine congrArg some ((passContext_eq _ _ i p).trans ?_)
  refine contextOfPass_congr (s := s) (x := s.job j) (y := s.job j) ?_ {} rfl ?_ i p
  · rfl
  rw [State.putJob_map]
  unfold putEntries
  rw [State.putMap_map_same]
  unfold withoutDone
  rw [List.map_map]
  rfl

/-- The pass has work as it begins where it has work in its context (R34, R45). -/
theorem jobPassHasWork_startPass {b : BayId} {s : State} {j : JobId} {i : Nat} {p : PassImage}
    (hb : (s.job j).bay = b) (hp : (s.program (s.job j).program)[i]? = some p) :
    jobPassHasWork (startPass s j i) j = passHasWork s (s.job j) (contextOfPass s (s.job j) i p) := by
  have f := runFrame_startPass hb i
  unfold jobPassHasWork
  rw [f.bay, startPass_context hp]
  exact passHasWork_congr f.tables f.sameWalk (f.sameDue _) _

/-- The done counts of a pass that begins are 0 (R90). -/
theorem startPass_done {s : State} {j : JobId} {i : Nat} {p : PassImage}
    (hp : (s.program (s.job j).program)[i]? = some p) (k : Nat) (hk : k < (s.map (s.job j).bay).entries.length) :
    ((startPass s j i).zone (s.job j).bay k).done = 0 := by
  unfold startPass
  dsimp only
  rw [hp]
  unfold State.zone putEntries
  simp [hk]

/-- What a pass that begins with work leaves of its job, its zones and its walk (R14, R34, R38, R90). -/
structure FirstUnit (b : BayId) (j : JobId) (i : Nat) (p : PassImage) (s t : State) : Prop where
  job : t.job j = { s.job j with passIndex := i, passComplete := false, permille := 0, unitActive := true }
  done : ∀ k, k < (s.map b).entries.length → (t.zone b k).done = 0
  context : t.context b = some { contextOfPass t (s.job j) i p with
    unitEnd := unitEndNow t (s.job j) (contextOfPass t (s.job j) i p) }

/-- A pass that has work begins with its first unit (R14, R38, R45). -/
theorem firstUnit_beginPass {b : BayId} {s : State} {j : JobId} {i : Nat} {p : PassImage} (n : Nat)
    (hb : (s.job j).bay = b) (hp : (s.program (s.job j).program)[i]? = some p)
    (hw : passHasWork s (s.job j) (contextOfPass s (s.job j) i p) = true) :
    FirstUnit b j i p s (beginPass (n + 1) s j i) := by
  subst hb
  have e : beginPass (n + 1) s j i = beginUnit (startPass s j i) j := by
    unfold beginPass
    dsimp only
    rw [if_pos ((jobPassHasWork_startPass rfl hp).trans hw)]
  have f1 := runFrame_startPass (s := s) (j := j) rfl i
  have f := f1.trans (runFrame_beginUnit (j := j) f1.bay)
  have hi : i < (s.program (s.job j).program).length := (List.getElem?_eq_some_iff.mp hp).1
  rw [e]
  refine ⟨?_, fun k hk => ?_, ?_⟩
  · rw [beginUnit_job_same, startPass_job hi]
  · have hz : (beginUnit (startPass s j i) j).zone (s.job j).bay k = (startPass s j i).zone (s.job j).bay k := by
      rw [beginUnit_frame]; rfl
    rw [hz, startPass_done hp k hk]
  · have hc := beginUnit_context_same (startPass s j i) j
    rw [f1.bay, startPass_context hp] at hc
    have hw : contextOfPass (beginUnit (startPass s j i) j) (s.job j) i p = contextOfPass s (s.job j) i p :=
      contextOfPass_congr f.tables {} rfl (f.withoutDone _) i p
    have hu := unitEndNow_congr f1.tables f1.sameWalk (f1.sameDue _) (contextOfPass s (s.job j) i p)
    have hu' := unitEndNow_congr (y := s.job j) f.tables {} (f.sameDue _) (contextOfPass s (s.job j) i p)
    rw [hc, hw, hu', ← hu]
    rfl

/-! ### The first position of a pass -/

/-- Every extent of a list holds a sector. -/
abbrev AllInhabited (xs : List Extent) : Prop := ∀ x ∈ xs, x.start < x.stop

theorem stepAscending_start {x : Extent} {xs : List Extent} (S : Nat) (hx : 0 < x.stop) (C : Nat) :
    stepWalk .ascending (x :: xs) S (startPosition .ascending (x :: xs) C) ≠ none := by
  unfold startPosition positionAt ascendingAt stepWalk stepAscending
  simp [hx]

/-- A descending walk is placed inside an extent (R33, R35; log 15). -/
theorem descendingAt_inside {all : List Extent} {lba : Nat} (hall : AllInhabited all) (xs : List Extent) :
    ∀ (k : Nat) (found : Position), all.drop k = xs → (∃ x, all[found.extent]? = some x ∧ x.start < found.lba) →
      ∃ x, all[(descendingAt xs k found lba).extent]? = some x ∧ x.start < (descendingAt xs k found lba).lba := by
  induction xs with
  | nil => exact fun _ _ _ h => h
  | cons y ys ih =>
    intro k found hd hf
    unfold descendingAt
    split
    · next hlt =>
      have hk : all[k]? = some y := by
        rw [← List.head?_drop, hd]; rfl
      refine ih (k + 1) _ (by rw [← List.tail_drop, hd]; rfl) ⟨y, hk, ?_⟩
      exact lt_min (hall y (List.mem_of_getElem? hk)) hlt
    · exact hf

theorem stepDescending_start {x : Extent} {xs : List Extent} (S : Nat) (hall : AllInhabited (x :: xs)) {C : Nat}
    (hx : x.start < C) : stepWalk .descending (x :: xs) S (startPosition .descending (x :: xs) C) ≠ none := by
  have h : ∃ y, (x :: xs)[(startPosition .descending (x :: xs) C).extent]? = some y ∧
      y.start < (startPosition .descending (x :: xs) C).lba := by
    unfold startPosition positionAt
    dsimp only
    unfold descendingAt
    rw [if_pos hx]
    exact descendingAt_inside hall xs 1 _ rfl ⟨x, rfl, lt_min (hall x List.mem_cons_self) hx⟩
  obtain ⟨y, hy, hlt⟩ := h
  unfold stepWalk stepDescending
  simp only [hy, Nat.not_le.mpr hlt, if_false]
  nofun

/-- A walk over extents that hold sectors steps from its first position (R34, R35). -/
theorem stepWalk_start {xs : List Extent} (hne : xs ≠ []) (hall : AllInhabited xs) {C : Nat} (hC : ∀ x ∈ xs, x.start < C)
    (d : Direction) (S : Nat) : stepWalk d xs S (startPosition d xs C) ≠ none := by
  obtain ⟨x, xs, rfl⟩ := List.exists_cons_of_ne_nil hne
  have hx := hall x List.mem_cons_self
  cases d with
  | ascending => exact stepAscending_start S (by omega) C
  | descending => exact stepDescending_start S hall (hC x List.mem_cons_self)

theorem mem_wordsExtents {m : List (Nat × ExtentWord)} {C : Nat} {x : Extent} (n : Nat) : ∀ first,
    x ∈ wordsExtents m C n first → ∃ k, k < n ∧ x = clampedExtent (readExtent m (first + k)) C := by
  induction n with
  | zero => exact fun _ h => nomatch h
  | succ n ih =>
    intro first h
    rcases List.mem_cons.mp h with rfl | h
    · exact ⟨0, by omega, rfl⟩
    · obtain ⟨k, hk, rfl⟩ := ih _ h
      exact ⟨k + 1, by omega, by rw [Nat.add_assoc, Nat.add_comm 1]⟩

/-- A word that has passed its checks names an extent that holds a sector of the drive (R59, R60). -/
abbrev WordChecked (m : List (Nat × ExtentWord)) (C k : Nat) : Prop :=
  (readExtent m k).length ≠ 0 ∧ (readExtent m k).start < C

/-- The list of a job whose words have all passed their checks, or whose drive is not empty where it has none. -/
theorem jobExtents_inhabited {s : State} {x : Job} (hC : 0 < jobCapacity x)
    (hw : ∀ k, k < x.extentCount → WordChecked s.tables.extents (jobCapacity x) (x.extentFirst + k)) :
    jobExtents s x ≠ [] ∧ AllInhabited (jobExtents s x) ∧ ∀ y ∈ jobExtents s x, y.start < jobCapacity x := by
  unfold jobExtents extentList
  split
  · simp [AllInhabited, hC]
  · next hn =>
    refine ⟨?_, fun y hy => ?_, fun y hy => ?_⟩
    · obtain ⟨n, hn⟩ := Nat.exists_eq_succ_of_ne_zero hn
      rw [hn]
      exact List.cons_ne_nil _ _
    · obtain ⟨k, hk, rfl⟩ := mem_wordsExtents _ _ hy
      obtain ⟨h1, h2⟩ := hw k hk
      unfold clampedExtent
      dsimp only
      omega
    · obtain ⟨k, hk, rfl⟩ := mem_wordsExtents _ _ hy
      exact (hw k hk).2

/-- The first pass of a run has work: an OVERWRITE its first stripe, a NATIVE_ERASE the whole drive (R34, R35, R49). -/
theorem passHasWork_first {s : State} {x : Job} {p : PassImage} (hk : kindOfPass p ≠ .verify) (hC : 0 < jobCapacity x)
    (hw : ∀ k, k < x.extentCount → WordChecked s.tables.extents (jobCapacity x) (x.extentFirst + k))
    (hn : kindOfPass p = .nativeErase → x.extentCount = 0) :
    passHasWork s x (contextOfPass s x 0 p) = true := by
  obtain ⟨h1, h2, h3⟩ := jobExtents_inhabited hC hw
  rw [passHasWork_iff]
  split
  · next hk =>
    have hk : kindOfPass p = .nativeErase := hk
    have hx : jobExtents s x = [{ start := 0, stop := jobCapacity x }] := if_pos (hn hk)
    unfold passEnd contextOfPass
    dsimp only
    rw [if_pos hk, hx]
    simp [startPosition, endPosition, positionAt, ascendingAt, hC]
  · next hk' =>
    have ho : (contextOfPass s x 0 p).kind = .overwrite := by
      change kindOfPass p = _
      change kindOfPass p ≠ _ at hk'
      cases h : kindOfPass p
      · rfl
      · exact absurd h hk
      · exact absurd h hk'
    have hs := stepWalk_start h1 h2 h3 (contextOfPass s x 0 p).direction (jobStripe x)
    unfold nextStripe findIssued
    dsimp only
    have hi : ∀ y, issues (contextOfPass s x 0 p) (s.map x.bay) (jobExtents s x) (jobStripe x) y = true := fun y => by
      unfold issues; rw [ho]
    split
    · next h => exact absurd h hs
    · rw [if_pos (hi _)]; nofun

/-! ### The run begins -/

/-- The state in which pass 0 of a run begins (R7, R64, R88, R173). -/
structure RunNumbered (s : State) (j : JobId) (y : Job) (m : CoverageMap) (v : State) : Prop where
  job : v.job j = { y with state := .running, run := some (s.runCounter + 1), startTime := some s.clock }
  others : ∀ k, k ≠ j → v.job k = s.job k
  map : v.map y.bay = { m with run := some (s.runCounter + 1), entries := m.entries.map scannedZone }
  runCounter : v.runCounter = s.runCounter + 1
  tables : v.tables = s.tables

/-- The state behind the last word, before its first pass (R64). -/
def runNumbered (s : State) (j : JobId) (y : Job) (m : CoverageMap) : State :=
  changeJob ((((reevaluate (putEntries ((s.putJob j y).putMap y.bay m) y.bay (m.entries.map scannedZone)) y.bay)
    |>.putRunCounter (s.runCounter + 1))).putMap y.bay
      { m with run := some (s.runCounter + 1), entries := m.entries.map scannedZone }) j
    { y with state := .running, run := some (s.runCounter + 1), startTime := some s.clock }

theorem completeScan_eq (s : State) (j : JobId) (y : Job) (m : CoverageMap) :
    completeScan ((s.putJob j y).putMap y.bay m) j = beginPass passBound (runNumbered s j y m) j 0 := by
  unfold completeScan beginRun runNumbered
  have hj : ((s.putJob j y).putMap y.bay m).job j = y := State.putJob_job_same ..
  have hm : ((s.putJob j y).putMap y.bay m).map y.bay = m := State.putMap_map_same ..
  dsimp only
  have hv : (putEntries ((s.putJob j y).putMap y.bay m) y.bay (m.entries.map scannedZone)).map y.bay =
      { m with entries := m.entries.map scannedZone } := by
    unfold putEntries; rw [State.putMap_map_same, hm]
  rw [hj, hm, reevaluate_job,
    show (putEntries ((s.putJob j y).putMap y.bay m) y.bay (m.entries.map scannedZone)).job j = y from hj]
  simp only [State.putRunCounter_map, reevaluate_map, hv, State.putMap_clock, State.putRunCounter_clock,
    reevaluate_clock, reevaluate_runCounter]
  rfl

theorem runNumbered_facts (s : State) (j : JobId) (y : Job) (m : CoverageMap) :
    RunNumbered s j y m (runNumbered s j y m) := by
  unfold runNumbered
  refine ⟨changeJob_job_same .., fun k hk => ?_, ?_, ?_, ?_⟩
  · rw [job_changeJob, if_neg hk]
    simp only [State.putMap_job, State.putRunCounter_job, reevaluate_job]
    exact (State.putJob_job s j k y).trans (if_neg hk)
  · rw [changeJob_map (.inl rfl), State.putMap_map_same]
  · rw [changeJob_runCounter]; rfl
  · rw [changeJob_tables, State.putMap_tables, State.putRunCounter_tables, reevaluate_tables]; rfl

/-- The words that a scan has taken have passed their checks (R59). -/
theorem wordChecked_of_scanChecked {s : State} {x : Job} {n e : Nat} (hs : x.state = .preparing (.scanning n e))
    (h : scanChecked s x = true) (k : Nat) (hk : k < n) (hc : k < x.extentCount) :
    WordChecked s.tables.extents (jobCapacity x) (x.extentFirst + k) := by
  unfold scanChecked at h
  rw [hs] at h
  obtain ⟨h1, h2, _⟩ := of_decide_eq_true h k hk hc
  exact ⟨h1, h2⟩

/-- The extent that the last step of a scan counts: the last word's, or the whole drive (R58, R60). -/
def lastExtent (s : State) (x : Job) (next : Nat) : Extent :=
  if x.extentCount = 0 then { start := 0, stop := jobCapacity x }
  else clampedExtent (readExtent s.tables.extents (x.extentFirst + next)) (jobCapacity x)

/-- The last step of a scan counts an extent and completes the scan (R58, R59, R64; log 14). -/
theorem scanStep_last {s : State} {j : JobId} {g : Geometry} {next prev : Nat}
    (h : (s.job j).extentCount = 0 ∨ (next + 1 = (s.job j).extentCount ∧
      WordChecked s.tables.extents (jobCapacity (s.job j)) ((s.job j).extentFirst + next) ∧
      (next = 0 ∨ ((readExtent s.tables.extents ((s.job j).extentFirst + next)).start % g.sEff = 0 ∧
        prev ≤ (readExtent s.tables.extents ((s.job j).extentFirst + next)).start)))) :
    ∃ clamped n, scanStep s j next prev g = completeScan (countExtent s j g (lastExtent s (s.job j) next) clamped n) j ∧
      (clamped = true ↔ (s.job j).extentCount ≠ 0 ∧
        jobCapacity (s.job j) < (readExtent s.tables.extents ((s.job j).extentFirst + next)).start +
          (readExtent s.tables.extents ((s.job j).extentFirst + next)).length) := by
  unfold scanStep lastExtent
  dsimp only
  by_cases hn : (s.job j).extentCount = 0
  · rw [if_pos hn, if_pos hn]
    exact ⟨_, _, rfl, by simp [hn]⟩
  · obtain ⟨hl, ⟨h1, h2⟩, h3⟩ := h.resolve_left hn
    rw [if_neg hn, if_neg hn]
    have hk : checkWord (decide (next = 0)) (readExtent s.tables.extents ((s.job j).extentFirst + next))
        (jobCapacity (s.job j)) g.sEff prev = .counted
          (clampedExtent (readExtent s.tables.extents ((s.job j).extentFirst + next)) (jobCapacity (s.job j)))
          (decide (jobCapacity (s.job j) < (readExtent s.tables.extents ((s.job j).extentFirst + next)).start +
            (readExtent s.tables.extents ((s.job j).extentFirst + next)).length)) := by
      unfold checkWord
      rw [if_neg h1, if_neg (Nat.not_le.mpr h2), if_neg, if_neg]
      · rintro ⟨h0, hlt⟩
        rcases h3 with h3 | h3
        · simp [h3] at h0
        · omega
      · rintro ⟨h0, hne⟩
        rcases h3 with h3 | h3
        · simp [h3] at h0
        · exact hne h3.1
    rw [hk]
    dsimp only
    rw [if_neg (by omega)]
    exact ⟨_, _, rfl, by simp [hn]⟩

/-- Settles O51: the words of every scan stay checked by `JobsKept`, and the last step begins pass 0 behind the
numbered run. -/
theorem scanEndsAndTheRunBegins : Obligations.ScanEndsAndTheRunBegins := by
  unfold Obligations.ScanEndsAndTheRunBegins
  refine ⟨fun _ _ h => (jobsKept_step h).scans, ?_⟩
  intro s b j g next previousEnd ha hs hg hc x C word whole last e due hwl
  obtain ⟨_, hb⟩ := activeJob_spec ha
  subst hb
  obtain ⟨clamped, n, hstep, hclamp⟩ := scanStep_last (hwl.imp id fun ⟨h1, h2, h3, h4⟩ => ⟨h1, ⟨h2, h3⟩, h4⟩)
  rw [countExtent_eq rfl] at hstep
  have hrun := completeScan_eq s j (countedJob (s.job j) clamped n (lastExtent s (s.job j) next).stop)
    { s.map (s.job j).bay with entries := countedZones (lastExtent s (s.job j) next) g (s.map (s.job j).bay).entries }
  have r := runNumbered_facts s j (countedJob (s.job j) clamped n (lastExtent s (s.job j) next).stop)
    { s.map (s.job j).bay with entries := countedZones (lastExtent s (s.job j) next) g (s.map (s.job j).bay).entries }
  generalize runNumbered s j _ _ = v at hrun r
  have f : RunFrame (s.job j).bay j v (beginPass passBound v j 0) :=
    runFrame_beginPass passBound 0 (by rw [r.job]; rfl) (by rw [r.job]; rfl)
  have hjob := f.job
  rw [r.job] at hjob
  have hmap := f.map (s.job j).bay
  have vmap : v.map (s.job j).bay = _ := r.map
  rw [vmap] at hmap
  have he : lastExtent s (s.job j) next = e := rfl
  refine ⟨_, (exec_scanWord ha hs hg).trans (congrArg Host.Outcome.next (hstep.trans hrun)),
    f.runCounter.trans r.runCounter, by rw [hjob], by rw [hjob], by rw [hmap], by rw [hmap], by rw [hmap], by rw [hmap],
    ?_, fun k hk => (f.others k hk).trans (r.others k hk), ?_, fun i hi => ?_, ?_⟩
  · rw [hjob]
    simp only [countedJob, Bool.or_eq_true, hclamp]
    rfl
  · rw [f.length, vmap]
    simp [countedZones]
  · have hz : v.zone (s.job j).bay i = scannedZone { s.zone (s.job j).bay i with due := due i } := by
      unfold State.zone
      rw [vmap]
      simp [countedZones, hi, due, State.zone, he]
    rw [f.zone, hz]
    unfold scannedZone
    split <;> simp_all
  · intro p passes hp hk hC hn
    have hvp : (v.program (v.job j).program)[0]? = some p := by
      rw [r.job]
      unfold State.program
      rw [r.tables]
      exact congrArg (·[0]?) hp
    have words : ∀ k, k < (v.job j).extentCount →
        WordChecked v.tables.extents (jobCapacity (v.job j)) ((v.job j).extentFirst + k) := by
      rw [r.job, r.tables]
      intro k hk
      rcases hwl with h | ⟨h1, h2, h3, _⟩
      · exact absurd hk (by rw [show (countedJob (s.job j) clamped n _).extentCount = 0 from h]; omega)
      · by_cases h : k = next
        · subst h; exact ⟨h2, h3⟩
        · refine wordChecked_of_scanChecked hs hc k ?_ hk
          have hk' : k < (s.job j).extentCount := hk
          have h1' : next + 1 = (s.job j).extentCount := h1
          omega
    have first : FirstUnit (v.job j).bay j 0 p v (beginPass passBound v j 0) := firstUnit_beginPass 7 rfl hvp
      (passHasWork_first hk (by rw [r.job]; exact hC) words (by rw [r.job]; exact hn))
    have fj := first.job
    have hb' : (v.job j).bay = (s.job j).bay := by rw [r.job]; rfl
    have hw : contextOfPass (beginPass passBound v j 0) (s.job j) 0 p =
        contextOfPass (beginPass passBound v j 0) (v.job j) 0 p :=
      contextOfPass_congr rfl (by rw [r.job]; exact {}) (by rw [r.job]; rfl) rfl 0 p
    have hu := unitEndNow_congr (s := beginPass passBound v j 0) (x := v.job j) (y := s.job j) rfl
      (by rw [r.job]; exact {}) {}
    refine ⟨?_, ?_, ?_, ?_, ?_, ?_⟩
    · rw [fj, r.job]
    · rw [fj]
    · rw [fj]
    · rw [fj]
    · rw [fj]
    · dsimp only
      rw [hw, hu, ← hb']
      exact first.context

end Sys2Proof.Proofs
end

section
/-! The loss of a bay, by a removal or a selective reset: its traffic is abandoned and answered, its list dropped, and its
job takes the event (R17, R46, R47, R118, R131, R132, R139, R140, R160). -/

namespace Sys2Proof.Proofs

open Sys2Proof Sys2Proof.Machine Sys2Proof.Safety

/-! ### Commands of the bay are answered -/

/-- A command of bay `b` has been answered with a status: its tag is free, and its response has been sent. -/
def Answered (b : BayId) (l : Link) (status : ResponseStatus) (tag : Tag) (opcode : Byte) (sub : Bool) (t : State) : Prop :=
  t.tagInUse tag = false ∧ (l = .up → .response b.val tag opcode status sub ∈ t.sent)

/-- How the passthrough path goes from `u` to `t` where commands of bay `b` leave with a status: what has gone has been
answered with it. -/
structure Leaves (b : BayId) (status : ResponseStatus) (u t : State) : Prop where
  link : t.link = u.link
  sent : u.sent <+: t.sent
  free : ∀ x, u.tagInUse x = false → t.tagInUse x = false
  hold : ∀ c ∈ t.hold, c ∈ u.hold
  others : ∀ c ∈ u.hold, c.bay ≠ b → (∀ d ∈ u.hold, d.tag = c.tag → d = c) → c ∈ t.hold
  wait : t.wait.filter (fun c => decide (c.bay ≠ b)) = u.wait.filter fun c => decide (c.bay ≠ b)
  held : ∀ c ∈ u.hold, c.bay = b → c ∈ t.hold ∨ Answered b u.link status c.tag c.opcode false t
  waiting : ∀ c ∈ u.wait, c.bay = b → c ∈ t.wait ∨ Answered b u.link status c.tag c.opcode false t

theorem Answered.mono {b : BayId} {l : Link} {status : ResponseStatus} {tag : Tag} {opcode : Byte} {sub : Bool}
    {s t : State} (h : Answered b l status tag opcode sub s) (hs : s.sent <+: t.sent)
    (hf : ∀ x, s.tagInUse x = false → t.tagInUse x = false) : Answered b l status tag opcode sub t :=
  ⟨hf _ h.1, fun e => hs.subset (h.2 e)⟩

theorem Leaves.trans {b : BayId} {status : ResponseStatus} {u s t : State} (h : Leaves b status u s)
    (k : Leaves b status s t) : Leaves b status u t where
  link := k.link.trans h.link
  sent := h.sent.trans k.sent
  free x hx := k.free x (h.free x hx)
  hold c hc := h.hold c (k.hold c hc)
  others c hc hb hu := k.others c (h.others c hc hb hu) hb fun d hd => hu d (h.hold d hd)
  wait := k.wait.trans h.wait
  held c hc hb := by
    rcases h.held c hc hb with hs | ha
    · rw [← h.link]; exact k.held c hs hb
    · exact .inr (ha.mono k.sent k.free)
  waiting c hc hb := by
    rcases h.waiting c hc hb with hs | ha
    · rw [← h.link]; exact k.waiting c hs hb
    · exact .inr (ha.mono k.sent k.free)

/-- An operation that adds frames to what is sent and leaves the rest of the path alone. -/
theorem Leaves.of_same {b : BayId} {status : ResponseStatus} {u t : State} (hl : t.link = u.link)
    (hs : u.sent <+: t.sent) (hh : t.hold = u.hold) (hw : t.wait = u.wait) (hg : t.tags = u.tags) :
    Leaves b status u t where
  link := hl
  sent := hs
  free x hx := by unfold State.tagInUse at *; rwa [hg]
  hold := by rw [hh]; exact fun _ h => h
  others := by rw [hh]; exact fun _ h _ _ => h
  wait := by rw [hw]
  held := by rw [hh]; exact fun _ h _ => .inl h
  waiting := by rw [hw]; exact fun _ h _ => .inl h

theorem Leaves.refl (b : BayId) (status : ResponseStatus) (u : State) : Leaves b status u u :=
  .of_same rfl List.prefix_rfl rfl rfl rfl

theorem respond_link (s : State) (n : Nat) (t : Tag) (o : Byte) (x : ResponseStatus) (sub : Bool) :
    (respond s n t o x sub).link = s.link := by rw [respond_eq]

theorem respond_sent_prefix (s : State) (n : Nat) (t : Tag) (o : Byte) (x : ResponseStatus) (sub : Bool) :
    s.sent <+: (respond s n t o x sub).sent := by
  rw [respond_eq]
  dsimp only
  split
  · exact List.prefix_append _ _
  · exact List.prefix_rfl

theorem respond_tagInUse (s : State) (n : Nat) (t x : Tag) (o : Byte) (st : ResponseStatus) (sub : Bool) :
    (respond s n t o st sub).tagInUse x = if x = t then false else s.tagInUse x := by
  rw [respond_eq]
  exact State.putTag_tagInUse s t x false

theorem respond_free (s : State) (n : Nat) (t : Tag) (o : Byte) (st : ResponseStatus) (sub : Bool) (x : Tag)
    (hx : s.tagInUse x = false) : (respond s n t o st sub).tagInUse x = false := by
  rw [respond_tagInUse, hx, ite_self]

theorem answered_respond (s : State) (b : BayId) (t : Tag) (o : Byte) (st : ResponseStatus) (sub : Bool) :
    Answered b s.link st t o sub (respond s b.val t o st sub) := by
  refine ⟨by rw [respond_tagInUse, if_pos rfl], fun h => ?_⟩
  rw [respond_eq]
  simp [h]

/-- A response leaves the queues alone. -/
theorem leaves_respond (b : BayId) (status : ResponseStatus) (s : State) (n : Nat) (t : Tag) (o : Byte)
    (x : ResponseStatus) (sub : Bool) : Leaves b status s (respond s n t o x sub) where
  link := respond_link ..
  sent := respond_sent_prefix ..
  free x hx := respond_free _ _ _ _ _ _ _ hx
  hold := by rw [respond_eq]; exact fun _ h => h
  others := by rw [respond_eq]; exact fun _ h _ _ => h
  wait := by rw [respond_eq]
  held := by rw [respond_eq]; exact fun _ h _ => .inl h
  waiting := by rw [respond_eq]; exact fun _ h _ => .inl h

theorem leaves_foldl {α : Type} {b : BayId} {status : ResponseStatus} {f : State → α → State}
    (hf : ∀ s a, Leaves b status s (f s a)) (as : List α) : ∀ s, Leaves b status s (as.foldl f s) := by
  induction as with
  | nil => exact Leaves.refl b status
  | cons a as ih => exact fun s => (hf s a).trans (ih _)

/-- Among commands that are answered one after another, each one has been answered in the end. -/
theorem answered_foldl {α : Type} {b : BayId} {status : ResponseStatus} {f : State → α → State}
    (hf : ∀ s a, Leaves b status s (f s a)) {tag : Tag} {opcode : Byte} {sub : Bool} {a : α}
    (ha : ∀ s, Answered b s.link status tag opcode sub (f s a)) (as : List α) :
    ∀ s, a ∈ as → Answered b s.link status tag opcode sub (as.foldl f s) := by
  induction as with
  | nil => exact fun _ h => nomatch h
  | cons x as ih =>
    intro s h
    have hx := leaves_foldl hf as (f s x)
    rcases List.mem_cons.mp h with rfl | h
    · exact (ha s).mono hx.sent hx.free
    · rw [← (hf s x).link]; exact ih _ h

/-! ### A bay that is not READY holds no read -/

/-- A held read of a bay that is not READY is refused (R158, R160). -/
theorem judgeHeld_leaving {s : State} {b : BayId} (hr : (s.port b).state ≠ .ready) {c : PassCommand} (hc : c.bay = b) :
    judgeHeld s c = .answered (leavingStatus s b) := by
  subst hc
  unfold judgeHeld
  rw [if_pos (by simpa [bayReady] using hr)]

theorem answered_rejudge {s : State} {c : PassCommand} {x : ResponseStatus} (h : judgeHeld s c = .answered x) :
    Answered c.bay s.link x c.tag c.opcode false (rejudge s c) ∧ (rejudge s c).wait = s.wait := by
  rw [rejudge_answered h]
  refine ⟨⟨?_, fun e => by simp [e]⟩, rfl⟩
  exact State.putTag_tagInUse_same ..

theorem onward_foldl_rejudge (cs : List PassCommand) : ∀ t, Onward t (cs.foldl rejudge t) := by
  induction cs with
  | nil => exact fun t => ⟨List.prefix_rfl, fun _ h => h, fun _ h => h, fun _ h => h⟩
  | cons c cs ih => exact fun t => (onward_rejudge t c).trans (ih _)

/-- A re-evaluation at a bay that is not READY answers all its held reads (R158, R160). -/
theorem leaves_reevaluate {s : State} {b : BayId} (hr : (s.port b).state ≠ .ready) :
    Leaves b (leavingStatus s b) s (reevaluate s b) := by
  have hp := pathMoved_reevaluate s b
  suffices h : ∀ (cs : List PassCommand), (∀ c ∈ cs, c.bay = b) → ∀ t : State, t.link = s.link →
      (∀ c, judgeHeld t c = judgeHeld s c) →
      (cs.foldl rejudge t).wait = t.wait ∧ ∀ c ∈ cs, Answered b s.link (leavingStatus s b) c.tag c.opcode false
        (cs.foldl rejudge t) by
    obtain ⟨hw, ha⟩ := h (s.hold.filter fun c => decide (c.bay = b)) (fun c hc => by simpa using (List.mem_filter.mp hc).2)
      s rfl fun _ => rfl
    refine ⟨reevaluate_link s b, hp.sent, hp.onward.free, hp.hold, hp.others, ?_, fun c hc hb => .inr ?_,
      fun c hc _ => .inl ?_⟩
    · rw [show (reevaluate s b).wait = s.wait from hw]
    · exact ha c (List.mem_filter.mpr ⟨hc, by simpa using hb⟩)
    · rw [show (reevaluate s b).wait = s.wait from hw]; exact hc
  intro cs
  induction cs with
  | nil => exact fun _ t _ _ => ⟨rfl, fun _ h => nomatch h⟩
  | cons c cs ih =>
    intro hcs t hl hj
    have hc := hcs c List.mem_cons_self
    obtain ⟨ha, hw⟩ := answered_rejudge ((hj c).trans (judgeHeld_leaving hr hc))
    rw [hc, hl] at ha
    obtain ⟨hw', ha'⟩ := ih (fun d hd => hcs d (List.mem_cons_of_mem _ hd)) (rejudge t c)
      (by rw [rejudge_frame]; exact hl) fun d => (judgeHeld_rejudge t c d).trans (hj d)
    have on := onward_foldl_rejudge cs (rejudge t c)
    refine ⟨hw'.trans hw, fun d hd => ?_⟩
    rcases List.mem_cons.mp hd with rfl | hd
    · exact ha.mono on.sent on.free
    · exact ha' d hd

theorem answers_frame (status : ResponseStatus) (cs : List PassCommand) : ∀ s : State,
    cs.foldl (fun s c => answer s c status) s = { s with
      tags := (cs.foldl (fun s c => answer s c status) s).tags
      sent := (cs.foldl (fun s c => answer s c status) s).sent } := by
  induction cs with
  | nil => exact fun _ => rfl
  | cons c cs ih =>
    intro s
    rw [List.foldl_cons, ih]
    unfold answer
    rw [respond_eq]

/-- The commands of a bay that leaves READY are answered, and none of them stands in a queue any more (R160). -/
theorem answerLeaving_spec (s : State) (b : BayId) :
    Leaves b (leavingStatus s b) s (answerLeaving s b) ∧
    (answerLeaving s b).hold = s.hold.filter (fun c => decide (c.bay ≠ b)) ∧
    (answerLeaving s b).wait = s.wait.filter (fun c => decide (c.bay ≠ b)) ∧
    answerLeaving s b = { s with
      hold := (answerLeaving s b).hold, wait := (answerLeaving s b).wait, tags := (answerLeaving s b).tags
      sent := (answerLeaving s b).sent } := by
  have hm : (fun c : PassCommand => !decide (c.bay = b)) = fun c => decide (c.bay ≠ b) := by
    funext c; exact (decide_not ..).symm
  unfold answerLeaving
  dsimp only
  rw [hm]
  generalize hl : (s.hold.filter fun c => decide (c.bay = b)) ++ s.wait.filter (fun c => decide (c.bay = b)) = leaving
  have hf : ∀ (t : State) (c : PassCommand), Leaves b (leavingStatus s b) t (answer t c (leavingStatus s b)) :=
    fun t c => leaves_respond ..
  have hs := leaves_foldl hf leaving ((s.putHold (s.hold.filter fun c => decide (c.bay ≠ b))).putWait
    (s.wait.filter fun c => decide (c.bay ≠ b)))
  have answered : ∀ c ∈ leaving, c.bay = b → Answered b s.link (leavingStatus s b) c.tag c.opcode false
      (leaving.foldl (fun s' c => answer s' c (leavingStatus s b)) ((s.putHold
        (s.hold.filter fun c => decide (c.bay ≠ b))).putWait (s.wait.filter fun c => decide (c.bay ≠ b)))) :=
    fun c hc hb => answered_foldl hf (fun t => hb ▸ answered_respond t c.bay c.tag c.opcode _ false) leaving _ hc
  have fr := answers_frame (leavingStatus s b) leaving ((s.putHold
    (s.hold.filter fun c => decide (c.bay ≠ b))).putWait (s.wait.filter fun c => decide (c.bay ≠ b)))
  generalize leaving.foldl (fun s' c => answer s' c (leavingStatus s b)) _ = t at hs answered fr
  have hh : t.hold = s.hold.filter (fun c => decide (c.bay ≠ b)) := by rw [fr]; rfl
  have hw : t.wait = s.wait.filter (fun c => decide (c.bay ≠ b)) := by rw [fr]; rfl
  refine ⟨⟨hs.link, hs.sent, hs.free, ?_, ?_, ?_, ?_, ?_⟩, hh, hw, by rw [fr]; rfl⟩
  · rw [hh]; exact fun c hc => (List.mem_filter.mp hc).1
  · rw [hh]; exact fun c hc hb _ => List.mem_filter.mpr ⟨hc, by simpa using hb⟩
  · rw [hw, List.filter_filter]; simp
  · refine fun c hc hb => .inr (answered c ?_ hb)
    rw [← hl]
    exact List.mem_append_left _ (List.mem_filter.mpr ⟨hc, by simpa using hb⟩)
  · refine fun c hc hb => .inr (answered c ?_ hb)
    rw [← hl]
    exact List.mem_append_right _ (List.mem_filter.mpr ⟨hc, by simpa using hb⟩)

/-- The commands of abandoned records are answered where their result is wanted (R116, R118). -/
theorem answerAbandoned_frame (b : BayId) (status : ResponseStatus) (rs : List Record) : ∀ s : State,
    rs.foldl (answerAbandoned b status) s = { s with
      tags := (rs.foldl (answerAbandoned b status) s).tags
      sent := (rs.foldl (answerAbandoned b status) s).sent } := by
  induction rs with
  | nil => exact fun _ => rfl
  | cons r rs ih =>
    intro s
    rw [List.foldl_cons, ih]
    have h : answerAbandoned b status s r = { s with
        tags := (answerAbandoned b status s r).tags, sent := (answerAbandoned b status s r).sent } := by
      unfold answerAbandoned
      split
      · split
        · rw [respond_eq]
        · rfl
      · rfl
      · rfl
    rw [h]

theorem leaves_answerAbandoned (b : BayId) (status : ResponseStatus) (s : State) (r : Record) :
    Leaves b status s (answerAbandoned b status s r) := by
  unfold answerAbandoned
  split
  · split
    · exact leaves_respond ..
    · exact .refl ..
  · exact .refl ..
  · exact .refl ..

theorem answered_answerAbandoned {b : BayId} {status : ResponseStatus} {rs : List Record} {r : Record} {c : PassCommand}
    {sub : Bool} (hr : r ∈ rs) (hl : r.link = .command c sub) (hw : r.wanted = true) (s : State) :
    Answered b s.link status c.tag c.opcode sub (rs.foldl (answerAbandoned b status) s) := by
  refine answered_foldl (leaves_answerAbandoned b status) (fun t => ?_) rs s hr
  unfold answerAbandoned
  rw [hl]
  dsimp only
  rw [if_pos hw]
  exact answered_respond ..

/-! ### Slots and entries are dropped -/

theorem freeSlot_slot (s : State) (o : Option SlotId) (k : SlotId) :
    (freeSlot s o).slot k = if o = some k then Slot.empty else s.slot k := by
  cases o with
  | none => simp [freeSlot]
  | some i => simp [freeSlot, State.putSlot_slot, eq_comm]

theorem freeSlot_frame (s : State) (o : Option SlotId) : freeSlot s o = { s with slots := (freeSlot s o).slots } := by
  cases o <;> rfl

/-- The slots of a list of records are freed, and no other (R118). -/
theorem freeSlots_slot (rs : List Record) (k : SlotId) : ∀ s : State,
    (freeSlots s rs).slot k = if ∃ r ∈ rs, r.slot = some k then Slot.empty else s.slot k := by
  induction rs with
  | nil => exact fun s => by simp [freeSlots]
  | cons r rs ih =>
    intro s
    change (freeSlots (freeSlot s r.slot) rs).slot k = _
    rw [ih, freeSlot_slot]
    by_cases h : ∃ q ∈ rs, q.slot = some k <;> by_cases hr : r.slot = some k <;> simp [h, hr]

theorem freeSlots_frame (rs : List Record) : ∀ s : State, freeSlots s rs = { s with slots := (freeSlots s rs).slots } := by
  induction rs with
  | nil => exact fun _ => rfl
  | cons r rs ih =>
    intro s
    change freeSlots (freeSlot s r.slot) rs = { s with slots := (freeSlots (freeSlot s r.slot) rs).slots }
    rw [ih, freeSlot_frame]

/-- What entries dropped without retiring leave at a bay that is not READY (R46, R97, R160). -/
structure Dropped (b : BayId) (es : List Entry) (s t : State) : Prop where
  frame : t = { s with
    slots := t.slots, coverage := t.coverage, hold := t.hold, wait := t.wait, tags := t.tags, sent := t.sent }
  slot : ∀ k, t.slot k = if ∃ e ∈ es, e.slot = some k then Slot.empty else s.slot k
  maps : ∀ c, c ≠ b → t.map c = s.map c
  map : t.map b = { s.map b with entries := (t.map b).entries }
  zone : ∀ i, t.zone b i = { s.zone b i with
    out := (s.zone b i).out - (es.filter fun e => decide (e.zone = some i)).length }
  leaves : Leaves b (leavingStatus s b) s t

theorem putEntries_set_zone (s : State) (b : BayId) (i : Nat) (f : ZoneEntry → ZoneEntry)
    (hf : f ZoneEntry.cleared = ZoneEntry.cleared) (k : Nat) :
    (putEntries s b ((s.map b).entries.set i (f (s.zone b i)))).zone b k = if k = i then f (s.zone b k) else s.zone b k := by
  unfold putEntries State.zone
  rw [State.putMap_map_same]
  simp only [List.getD_eq_getElem?_getD, List.getElem?_set]
  by_cases h : i = k
  · subst h
    by_cases hl : i < (s.map b).entries.length
    · simp [hl]
    · simp [hl, hf]
  · simp [h, Ne.symm h]

/-- One entry's zone gives up a request in flight, and the filter hears of it or not (R46, R97, R99). -/
theorem changeZone_abandoned (s : State) (b : BayId) (i : Nat) :
    changeZone s b i abandonedZone = putEntries s b ((s.map b).entries.set i (abandonedZone (s.zone b i))) ∨
    changeZone s b i abandonedZone =
      reevaluate (putEntries s b ((s.map b).entries.set i (abandonedZone (s.zone b i)))) b := by
  unfold changeZone
  have h : (s.zone b i).state = (abandonedZone (s.zone b i)).state := rfl
  dsimp only
  rw [if_pos h]
  split
  · exact .inl rfl
  · exact .inr rfl

theorem Dropped.port {b : BayId} {es : List Entry} {s t : State} (h : Dropped b es s t) (c : BayId) :
    t.port c = s.port c := by
  rw [h.frame]; rfl

theorem Dropped.reevaluate {b : BayId} {es : List Entry} {s t : State} (h : Dropped b es s t)
    (hr : (s.port b).state ≠ .ready) : Dropped b es s (reevaluate t b) where
  frame := by
    have e := reevaluate_frame t b
    rw [reevaluate_slots, reevaluate_coverage]
    generalize Machine.reevaluate t b = r at e ⊢
    rw [e]
    conv_lhs => rw [h.frame]
  slot k := by rw [reevaluate_slot]; exact h.slot k
  maps c hc := by rw [reevaluate_map]; exact h.maps c hc
  map := by rw [reevaluate_map]; exact h.map
  zone i := by rw [reevaluate_zone]; exact h.zone i
  leaves := by
    have k := leaves_reevaluate (s := t) (b := b) (by rw [h.port]; exact hr)
    have e : leavingStatus t b = leavingStatus s b := by unfold leavingStatus; rw [h.port]
    rw [e] at k
    exact h.leaves.trans k

theorem dropped_freeSlot (s : State) (b : BayId) {e : Entry} (hz : e.zone = none) :
    Dropped b [e] s (freeSlot s e.slot) where
  frame := by rw [freeSlot_frame]
  slot k := by rw [freeSlot_slot]; simp
  maps c _ := by rw [freeSlot_frame]; rfl
  map := by rw [freeSlot_frame]; rfl
  zone i := by
    rw [freeSlot_frame]
    simp [hz]
    rfl
  leaves := .of_same (by rw [freeSlot_frame]) (by rw [freeSlot_frame]) (by rw [freeSlot_frame])
    (by rw [freeSlot_frame]) (by rw [freeSlot_frame])

theorem dropped_putEntries (s : State) (b : BayId) {e : Entry} {i : Nat} (hz : e.zone = some i) :
    Dropped b [e] s (putEntries (freeSlot s e.slot) b
      (((freeSlot s e.slot).map b).entries.set i (abandonedZone ((freeSlot s e.slot).zone b i)))) := by
  have hm : (freeSlot s e.slot).map = s.map := by rw [freeSlot_frame]; rfl
  have hzone : (freeSlot s e.slot).zone = s.zone := by rw [freeSlot_frame]; rfl
  refine ⟨?_, fun k => ?_, fun c hc => ?_, ?_, fun k => ?_, ?_⟩
  · rw [freeSlot_frame]; rfl
  · exact (freeSlot_slot s e.slot k).trans (by simp)
  · unfold putEntries
    rw [State.putMap_map, if_neg hc, hm]
  · unfold putEntries
    rw [State.putMap_map_same, hm]
  · have h := putEntries_set_zone (freeSlot s e.slot) b i abandonedZone rfl k
    rw [h, hzone]
    by_cases hk : k = i
    · subst hk; simp [hz, abandonedZone]
    · simp [hz, hk, Ne.symm hk]
  · have h := freeSlot_frame s e.slot
    exact .of_same (by rw [h]; rfl) (by rw [h]; exact List.prefix_rfl) (by rw [h]; rfl) (by rw [h]; rfl) (by rw [h]; rfl)

/-- One abandoned entry is dropped (R46). -/
theorem dropped_dropEntry {s : State} {b : BayId} (hr : (s.port b).state ≠ .ready) (e : Entry) :
    Dropped b [e] s (dropEntry b s e) := by
  unfold dropEntry
  dsimp only
  split
  · next i hz =>
    have h := dropped_putEntries s b hz
    rcases changeZone_abandoned (freeSlot s e.slot) b i with k | k <;> rw [k]
    · exact h
    · exact h.reevaluate hr
  · next hz => exact dropped_freeSlot s b hz

theorem Dropped.refl (b : BayId) (s : State) : Dropped b [] s s :=
  ⟨rfl, fun _ => by simp, fun _ _ => rfl, rfl, fun _ => by simp, .refl ..⟩

theorem Dropped.trans {b : BayId} {es fs : List Entry} {s t u : State} (h : Dropped b es s t) (k : Dropped b fs t u) :
    Dropped b (es ++ fs) s u where
  frame := by rw [k.frame]; conv_lhs => rw [h.frame]
  slot i := by
    rw [k.slot, h.slot]
    by_cases he : ∃ e ∈ es, e.slot = some i <;> by_cases hf : ∃ e ∈ fs, e.slot = some i <;>
      simp only [List.mem_append, or_and_right, exists_or, he, hf, if_true, if_false, or_self, or_true, true_or]
  maps c hc := (k.maps c hc).trans (h.maps c hc)
  map := by rw [k.map, h.map]
  zone i := by
    rw [k.zone, h.zone, List.filter_append, List.length_append]
    simp only [Nat.sub_sub]
  leaves := by
    have e : leavingStatus t b = leavingStatus s b := by unfold leavingStatus; rw [h.port]
    have l := k.leaves
    rw [e] at l
    exact h.leaves.trans l

/-- A whole list of entries is dropped (R46). -/
theorem dropped_foldl {b : BayId} (es : List Entry) : ∀ s : State, (s.port b).state ≠ .ready →
    Dropped b es s (es.foldl (dropEntry b) s) := by
  induction es with
  | nil => exact fun s _ => .refl b s
  | cons e es ih =>
    intro s hr
    have h := dropped_dropEntry hr e
    exact h.trans (ih _ (by rw [h.port]; exact hr))

/-! ### The traffic of a bay is abandoned -/

/-- Bay `b` has entered a state that is not READY, which answers its commands with `status`; its traffic stands yet. -/
structure Entered (b : BayId) (status : ResponseStatus) (u v : State) : Prop where
  frame : v = { u with ports := v.ports, toDrive := v.toDrive, sent := v.sent, attention := v.attention }
  ports : ∀ c, c ≠ b → v.port c = u.port c
  attentions : ∀ c, c ≠ b → v.attentionOf c = u.attentionOf c
  queue : (v.port b).queue = (u.port b).queue
  sent : u.sent <+: v.sent
  state : (v.port b).state ≠ .ready
  status : leavingStatus v b = status

/-- Bay `b` has lost its traffic: its queue and its list are abandoned with their slots, its commands are answered, and
its walk has recorded where it restarts (R46, R47, R97, R118, R160). Its job has not been told yet. -/
structure Left (b : BayId) (status : ResponseStatus) (u m : State) : Prop where
  frame : m = { u with
    ports := m.ports, toDrive := m.toDrive, sent := m.sent, tags := m.tags, hold := m.hold, wait := m.wait
    inFlight := m.inFlight, walk := m.walk, slots := m.slots, coverage := m.coverage, attention := m.attention }
  ports : ∀ c, c ≠ b → m.port c = u.port c
  lists : ∀ c, c ≠ b → m.list c = u.list c
  contexts : ∀ c, c ≠ b → m.context c = u.context c
  maps : ∀ c, c ≠ b → m.map c = u.map c
  attentions : ∀ c, c ≠ b → m.attentionOf c = u.attentionOf c
  list : m.list b = []
  slot : ∀ k, m.slot k =
    if (∃ r ∈ (u.port b).queue, r.slot = some k) ∨ (∃ e ∈ u.list b, e.slot = some k) then Slot.empty else u.slot k
  leaves : Leaves b status u m
  records : ∀ r ∈ (u.port b).queue, ∀ c x, r.link = .command c x → r.wanted = true →
    Answered b u.link status c.tag c.opcode x m
  hold : ∀ c ∈ m.hold, c.bay ≠ b
  wait : ∀ c ∈ m.wait, c.bay ≠ b
  context : ∀ j, activeJob u b = some j → (u.job j).state.stops = true → m.context b =
    (u.context b).map fun w => { w with resumeCursor := some (restartAt u (u.job j) w) }
  map : m.map b = { u.map b with entries := (m.map b).entries }
  zone : ∀ i, m.zone b i = { u.zone b i with
    out := (u.zone b i).out - ((u.list b).filter fun e => decide (e.zone = some i)).length }

/-- The walk of a job that stops records where it restarts (R47). -/
def recorded (s : State) (b : BayId) : State :=
  match activeJob s b with
  | some j => if (s.job j).state.stops then recordResume s j else s
  | none => s

theorem recorded_frame (s : State) (b : BayId) : recorded s b = { s with walk := (recorded s b).walk } := by
  unfold recorded
  split
  · split <;> rfl
  · rfl

theorem recorded_other {s : State} {b c : BayId} (hc : c ≠ b) : (recorded s b).context c = s.context c := by
  unfold recorded
  split
  · next j hj =>
    split
    · rw [recordResume_eq, State.putContext_context, (activeJob_spec hj).2, if_neg hc]
    · rfl
  · rfl

theorem recorded_same {s : State} {b : BayId} {j : JobId} (hj : activeJob s b = some j)
    (hs : (s.job j).state.stops = true) : (recorded s b).context b =
      (s.context b).map fun w => { w with resumeCursor := some (restartAt s (s.job j) w) } := by
  unfold recorded
  rw [hj]
  dsimp only
  rw [if_pos hs, recordResume_eq, (activeJob_spec hj).2, State.putContext_context_same]

theorem abandonList_eq (s : State) (b : BayId) :
    abandonList s b = (s.list b).foldl (dropEntry b) ((recorded s b).putList b []) := rfl

theorem dropped_abandonList {s : State} {b : BayId} (hr : (s.port b).state ≠ .ready) :
    Dropped b (s.list b) ((recorded s b).putList b []) (abandonList s b) := by
  rw [abandonList_eq]
  refine dropped_foldl _ _ ?_
  rw [recorded_frame]
  exact hr

theorem activeJob_of_jobs {s t : State} (h : t.jobs = s.jobs) (b : BayId) : activeJob t b = activeJob s b :=
  activeJob_congr_activity (.of_jobs h) b

/-- The in-flight list of a bay that is not READY is abandoned (R46, R47, R97). -/
structure ListAbandoned (b : BayId) (s t : State) : Prop where
  frame : t = { s with
    sent := t.sent, tags := t.tags, hold := t.hold, wait := t.wait, inFlight := t.inFlight, walk := t.walk
    slots := t.slots, coverage := t.coverage }
  lists : ∀ c, c ≠ b → t.list c = s.list c
  contexts : ∀ c, c ≠ b → t.context c = s.context c
  maps : ∀ c, c ≠ b → t.map c = s.map c
  list : t.list b = []
  slot : ∀ k, t.slot k = if ∃ e ∈ s.list b, e.slot = some k then Slot.empty else s.slot k
  leaves : Leaves b (leavingStatus s b) s t
  context : ∀ j, activeJob s b = some j → (s.job j).state.stops = true → t.context b =
    (s.context b).map fun w => { w with resumeCursor := some (restartAt s (s.job j) w) }
  map : t.map b = { s.map b with entries := (t.map b).entries }
  zone : ∀ i, t.zone b i = { s.zone b i with
    out := (s.zone b i).out - ((s.list b).filter fun e => decide (e.zone = some i)).length }

theorem listAbandoned_abandonList {s : State} {b : BayId} (hr : (s.port b).state ≠ .ready) :
    ListAbandoned b s (abandonList s b) := by
  have d := dropped_abandonList hr
  have hR := recorded_frame s b
  have other (c) (hc : c ≠ b) := recorded_other (s := s) hc
  have same (j) (hj) (hst) := recorded_same (s := s) (b := b) (j := j) hj hst
  generalize abandonList s b = t at *
  generalize recorded s b = r at *
  have list (c) : (r.putList b []).list c = if c = b then [] else s.list c := by rw [State.putList_list, hR]; rfl
  have hcontext : t.context = r.context := by rw [d.frame]; rfl
  have hlist : t.list = (r.putList b []).list := by rw [d.frame]; rfl
  have hmap (c) : (r.putList b []).map c = s.map c := by rw [hR]; rfl
  have hzone (i) : (r.putList b []).zone b i = s.zone b i := by rw [hR]; rfl
  have hslot (k) : (r.putList b []).slot k = s.slot k := by rw [hR]; rfl
  have hstatus : leavingStatus (r.putList b []) b = leavingStatus s b := by rw [hR]; rfl
  have hleaves : Leaves b (leavingStatus s b) s (r.putList b []) := by
    rw [hR]; exact .of_same rfl List.prefix_rfl rfl rfl rfl
  refine ⟨?_, fun c hc => ?_, fun c hc => ?_, fun c hc => ?_, ?_, fun k => ?_, ?_, fun j hj hst => ?_, ?_, fun i => ?_⟩
  · rw [d.frame, hR]; rfl
  · rw [hlist, list, if_neg hc]
  · rw [hcontext, other c hc]
  · rw [d.maps c hc, hmap]
  · rw [hlist, list, if_pos rfl]
  · rw [d.slot, hslot]
  · have k := d.leaves
    rw [hstatus] at k
    exact hleaves.trans k
  · rw [hcontext, same j hj hst]
  · rw [d.map, hmap]
  · rw [d.zone, hzone]

/-- The records' slots and the list are abandoned (R46, R118). -/
structure QueueAbandoned (b : BayId) (v a : State) : Prop where
  frame : a = { v with
    ports := a.ports, sent := a.sent, tags := a.tags, hold := a.hold, wait := a.wait, inFlight := a.inFlight
    walk := a.walk, slots := a.slots, coverage := a.coverage }
  port : a.port b = { v.port b with queue := [] }
  ports : ∀ c, c ≠ b → a.port c = v.port c
  lists : ∀ c, c ≠ b → a.list c = v.list c
  contexts : ∀ c, c ≠ b → a.context c = v.context c
  maps : ∀ c, c ≠ b → a.map c = v.map c
  list : a.list b = []
  slot : ∀ k, a.slot k =
    if (∃ r ∈ (v.port b).queue, r.slot = some k) ∨ (∃ e ∈ v.list b, e.slot = some k) then Slot.empty else v.slot k
  leaves : Leaves b (leavingStatus v b) v a
  records : ∀ r ∈ (v.port b).queue, ∀ c x, r.link = .command c x → r.wanted = true →
    Answered b v.link (leavingStatus v b) c.tag c.opcode x a
  context : ∀ j, activeJob v b = some j → (v.job j).state.stops = true → a.context b =
    (v.context b).map fun w => { w with resumeCursor := some (restartAt v (v.job j) w) }
  map : a.map b = { v.map b with entries := (a.map b).entries }
  zone : ∀ i, a.zone b i = { v.zone b i with
    out := (v.zone b i).out - ((v.list b).filter fun e => decide (e.zone = some i)).length }

/-- The state of a bay whose queue has been emptied and whose records' slots are free (R118). -/
def emptied (v : State) (b : BayId) : State :=
  freeSlots (v.modPort b fun p => { p with queue := [] }) (v.port b).queue

theorem emptied_frame (v : State) (b : BayId) : emptied v b =
    { v with ports := put v.ports b { v.port b with queue := [] }, slots := (emptied v b).slots } := by
  unfold emptied
  rw [freeSlots_frame]
  rfl

theorem emptied_slot (v : State) (b : BayId) (k : SlotId) : (emptied v b).slot k =
    if ∃ r ∈ (v.port b).queue, r.slot = some k then Slot.empty else v.slot k := by
  unfold emptied; rw [freeSlots_slot]; rfl

theorem queueAbandoned_abandonQueue {v : State} {b : BayId} (hr : (v.port b).state ≠ .ready) :
    QueueAbandoned b v (abandonQueue v b (leavingStatus v b)) := by
  have e : abandonQueue v b (leavingStatus v b) =
      (v.port b).queue.foldl (answerAbandoned b (leavingStatus v b)) (abandonList (emptied v b) b) := rfl
  have hp (c) : (emptied v b).port c = if c = b then { v.port b with queue := [] } else v.port c := by
    rw [emptied_frame]; exact State.putPort_port v b c _
  have hpb : (emptied v b).port b = { v.port b with queue := [] } := (hp b).trans (if_pos rfl)
  have d := listAbandoned_abandonList (s := emptied v b) (b := b) (by rw [hpb]; exact hr)
  have fr := answerAbandoned_frame b (leavingStatus v b) (v.port b).queue (abandonList (emptied v b) b)
  have hl := leaves_foldl (leaves_answerAbandoned b (leavingStatus v b)) (v.port b).queue (abandonList (emptied v b) b)
  have ha (r) (hr : r ∈ (v.port b).queue) (c x) (hc : r.link = .command c x) (hw : r.wanted = true) :=
    answered_answerAbandoned (b := b) (status := leavingStatus v b) hr hc hw (abandonList (emptied v b) b)
  rw [← e] at fr hl
  simp only [← e] at ha
  have hE := emptied_frame v b
  have hslot := emptied_slot v b
  clear e
  generalize abandonQueue v b (leavingStatus v b) = a at *
  generalize abandonList (emptied v b) b = t at *
  generalize emptied v b = s at *
  have hstatus : leavingStatus s b = leavingStatus v b := by unfold leavingStatus; rw [hpb]
  have hlist : s.list = v.list := by rw [hE]; rfl
  have hcontext : s.context = v.context := by rw [hE]; rfl
  have hmap : s.map = v.map := by rw [hE]; rfl
  have hzone : s.zone = v.zone := by rw [hE]; rfl
  have hjobs : s.jobs = v.jobs := by rw [hE]
  have hjob (j) : s.job j = v.job j := by unfold State.job; rw [hjobs]
  have hrestart (x : Job) (w) : restartAt s x w = restartAt v x w :=
    restartAt_congr (by rw [hE]) (by rw [hlist]) rfl rfl
  have hport : a.port = s.port := by rw [fr, d.frame]; rfl
  have at_ : a.list = t.list ∧ a.context = t.context ∧ a.map = t.map ∧ a.zone = t.zone ∧ a.slot = t.slot := by
    rw [fr]; exact ⟨rfl, rfl, rfl, rfl, rfl⟩
  obtain ⟨al, ac, am, az, as⟩ := at_
  have hleaves : Leaves b (leavingStatus v b) v s := by rw [hE]; exact .of_same rfl List.prefix_rfl rfl rfl rfl
  have hdl := d.leaves
  rw [hstatus] at hdl
  refine ⟨?_, ?_, fun c hc => ?_, fun c hc => ?_, fun c hc => ?_, fun c hc => ?_, ?_, fun k => ?_, ?_, ?_,
    fun j hj hst => ?_, ?_, fun i => ?_⟩
  · rw [fr, d.frame, hE]
  · rw [hport, hpb]
  · rw [hport, hp, if_neg hc]
  · rw [al, d.lists c hc, hlist]
  · rw [ac, d.contexts c hc, hcontext]
  · rw [am, d.maps c hc, hmap]
  · rw [al, d.list]
  · rw [as, d.slot, hslot, hlist]
    by_cases h : ∃ e ∈ v.list b, e.slot = some k <;> simp [h]
  · exact hleaves.trans (hdl.trans hl)
  · intro r hr c x hc hw
    have h := ha r hr c x hc hw
    rwa [hdl.link, hleaves.link] at h
  · rw [ac, d.context j ((activeJob_of_jobs hjobs b).trans hj) (by rw [hjob]; exact hst), hcontext]
    simp only [hrestart, hjob]
  · rw [am, d.map, hmap]
  · rw [az, d.zone, hzone, hlist]

/-- The bay's traffic is gone behind the abandoned queue, the answers and a last write of its port (R118, R160). -/
theorem left_of_entered {b : BayId} {status : ResponseStatus} {u v : State} (h : Entered b status u v)
    (f : BayPort → BayPort) : Left b status u ((answerLeaving (abandonQueue v b status) b).modPort b f) := by
  have q := queueAbandoned_abandonQueue h.state
  rw [h.status] at q
  obtain ⟨l, hh, hw, fr⟩ := answerLeaving_spec (abandonQueue v b status) b
  generalize abandonQueue v b status = a at *
  generalize answerLeaving a b = m at *
  have hstatus : leavingStatus a b = status := by rw [← h.status]; unfold leavingStatus; rw [q.port]
  rw [hstatus] at l
  have hvu : Leaves b status u v := by
    have := h.sent
    rw [h.frame]
    exact .of_same rfl this rfl rfl rfl
  have hall : Leaves b status u m := (hvu.trans (by have := q.leaves; rwa [h.status] at this)).trans l
  have hv := h.frame
  have hqv := q.frame
  have mports : m.ports = a.ports := by rw [fr]
  have alist : a.list = m.list := by rw [fr]; rfl
  have acontext : a.context = m.context := by rw [fr]; rfl
  have amap : a.map = m.map := by rw [fr]; rfl
  have azone : a.zone = m.zone := by rw [fr]; rfl
  have aslot : a.slot = m.slot := by rw [fr]; rfl
  have vlist : v.list = u.list := by rw [hv]; rfl
  have vcontext : v.context = u.context := by rw [hv]; rfl
  have vmap : v.map = u.map := by rw [hv]; rfl
  have vzone : v.zone = u.zone := by rw [hv]; rfl
  have vslot : v.slot = u.slot := by rw [hv]; rfl
  have vjobs : v.jobs = u.jobs := by rw [hv]
  have vjob (j) : v.job j = u.job j := by unfold State.job; rw [vjobs]
  have hrestart (x : Job) (w) : restartAt v x w = restartAt u x w :=
    restartAt_congr (by rw [hv]) (by rw [vlist]) rfl rfl
  refine ⟨?_, fun c hc => ?_, fun c hc => ?_, fun c hc => ?_, fun c hc => ?_, fun c hc => ?_, ?_, fun k => ?_, ?_,
    ?_, ?_, ?_, fun j hj hst => ?_, ?_, fun i => ?_⟩
  · change m.modPort b f = { u with ports := put m.ports b (f (m.port b)), toDrive := m.toDrive, sent := m.sent
                                    tags := m.tags, hold := m.hold, wait := m.wait, inFlight := m.inFlight
                                    walk := m.walk, slots := m.slots, coverage := m.coverage, attention := m.attention }
    unfold State.modPort State.putPort
    rw [fr, hqv, hv]
  · rw [State.modPort_port, if_neg hc]
    have e : m.port c = a.port c := by unfold State.port; rw [mports]
    rw [e, q.ports c hc, h.ports c hc]
  · change m.list c = _
    rw [← alist, q.lists c hc, vlist]
  · change m.context c = _
    rw [← acontext, q.contexts c hc, vcontext]
  · change m.map c = _
    rw [← amap, q.maps c hc, vmap]
  · change m.attentionOf c = _
    have e : m.attentionOf c = v.attentionOf c := by rw [fr, hqv]; rfl
    rw [e, h.attentions c hc]
  · change m.list b = _
    rw [← alist, q.list]
  · change m.slot k = _
    rw [← aslot, q.slot, vslot, vlist, h.queue]
  · exact ⟨hall.link, hall.sent, hall.free, hall.hold, hall.others, hall.wait, hall.held, hall.waiting⟩
  · intro r hr c x hc hwn
    have k := q.records r (by rw [h.queue]; exact hr) c x hc hwn
    rw [h.status, hvu.link] at k
    exact k.mono l.sent l.free
  · change ∀ c ∈ m.hold, _
    rw [hh]
    exact fun c hc => by simpa using (List.mem_filter.mp hc).2
  · change ∀ c ∈ m.wait, _
    rw [hw]
    exact fun c hc => by simpa using (List.mem_filter.mp hc).2
  · change m.context b = _
    rw [← acontext, q.context j ((activeJob_of_jobs vjobs b).trans hj) (by rw [vjob]; exact hst), vcontext]
    simp only [hrestart, vjob]
  · change m.map b = { u.map b with entries := (m.map b).entries }
    rw [← amap, q.map, vmap]
  · change m.zone b i = _
    rw [← azone, q.zone, vzone, vlist]

end Sys2Proof.Proofs
end

section
/-! The job of a bay that is lost takes the event (R9, R17, R18, R51, R132, R140), and the events that lose a bay: the
three causes of a selective reset and the removal of a drive (R131, R132, R139, R140). -/

namespace Sys2Proof.Proofs

open Sys2Proof Sys2Proof.Machine Sys2Proof.Safety

/-! ### Attention -/

/-- A raised kind is present (R175). -/
theorem kindPresent_raise (s : State) (b : BayId) (k : AttentionKind) :
    kindPresent ((raise s b k).attentionOf b) k = true := by
  unfold raise
  split
  · assumption
  · have h : kindPresent (s.attentionOf b ||| kindMask k) k = true := by
      unfold kindPresent kindMask
      have := k.number.isLt
      simp [this]
    dsimp only
    split
    · rw [State.putAttention_attentionOf_same]; exact h
    · rw [send_eq]
      exact (congrArg (kindPresent · k) (State.putAttention_attentionOf_same ..)).trans h

theorem raise_attentionOf_other (s : State) {b c : BayId} (hc : c ≠ b) (k : AttentionKind) :
    (raise s b k).attentionOf c = s.attentionOf c := by
  unfold raise
  split
  · rfl
  · have h : ∀ x, (s.putAttention b x).attentionOf c = s.attentionOf c := fun x => by
      rw [State.putAttention_attentionOf, if_neg hc]
    dsimp only
    split
    · exact h _
    · rw [send_eq]; exact h _

/-! ### A bay without reads whose indicator is settled -/

/-- Nothing of bay `b` is held, and its indicator shows the pattern of a state that is not READY. -/
structure Quiet (b : BayId) (s : State) : Prop where
  hold : ∀ c ∈ s.hold, c.bay ≠ b
  state : (s.port b).state ≠ .ready
  shown : (s.port b).shown = (s.port b).override.getD (bayPattern (s.port b).state)

/-- Quiet rests on the hold queue and the port. -/
theorem Quiet.congr {b : BayId} {s t : State} (h : Quiet b s) (hh : t.hold = s.hold) (hp : t.port b = s.port b) :
    Quiet b t :=
  ⟨by rw [hh]; exact h.hold, by rw [hp]; exact h.state, by rw [hp]; exact h.shown⟩

theorem reevaluate_quiet {b : BayId} {s : State} (h : Quiet b s) : reevaluate s b = s := by
  unfold reevaluate
  rw [List.filter_eq_nil_iff.mpr fun c hc => by simpa using h.hold c hc]
  rfl

theorem wantedPattern_quiet {b : BayId} {s : State} (h : Quiet b s) : (s.port b).shown = wantedPattern s b := by
  unfold wantedPattern
  rw [autoPattern_of_state h.state, h.shown]

/-- A report at a quiet bay changes nothing. -/
theorem report_quiet {b : BayId} {s : State} (h : Quiet b s) : report s b = s := by
  unfold report
  rw [reevaluate_quiet h]
  unfold refreshIndicator
  dsimp only
  rw [if_pos (wantedPattern_quiet h)]

/-- At a quiet bay a change of a job's record is no more than that, where the job stays active. -/
theorem changeJob_quiet {b : BayId} {s : State} {j : JobId} {x y : Job} (h : Quiet b s) (hx : s.job j = x)
    (hb : x.bay = b) (hf : x.state ≠ .free) (hy : y.state.active = true) : changeJob s j y = s.putJob j y := by
  subst hx
  by_cases e : (s.job j).state = y.state
  · exact changeJob_same e
  · rw [changeJob_report e hf (.inl hy), hb]
    exact report_quiet (h.congr rfl rfl)

/-! ### The job takes the event -/

/-- What the loss of a bay makes of its job, from the state `m` in which the bay has lost its traffic. -/
structure Told (b : BayId) (reason : HaltReason) (m t : State) : Prop where
  frame : t = { m with
    jobs := t.jobs, attention := t.attention, sent := t.sent, walk := t.walk, building := t.building
    coverage := t.coverage }
  sent : m.sent <+: t.sent
  jobs : ∀ j, t.job j = if activeJob m b = some j then jobAfterLoss reason (m.job j) else m.job j
  contexts : ∀ c, c ≠ b → t.context c = m.context c
  maps : ∀ c, c ≠ b → t.map c = m.map c
  attentions : ∀ c, c ≠ b → t.attentionOf c = m.attentionOf c
  halted : ∀ j, activeJob m b = some j →
    (m.job j).state = .running ∨ (m.job j).state = .waitingTrigger ∨ (m.job j).state = .draining .paused →
    kindPresent (t.attentionOf b) .jobHalted = true ∧ t.context b = m.context b
  finished : ∀ j o, activeJob m b = some j → (m.job j).state = .draining (.finishing o) →
    { slot := j, record := none } ∈ t.building ∧ t.context b = none
  scanned : ∀ j n e, activeJob m b = some j → (m.job j).state = .preparing (.scanning n e) →
    t.map b = CoverageMap.cleared
  kept : (∀ j n e, activeJob m b = some j → (m.job j).state ≠ .preparing (.scanning n e)) → t.map b = m.map b
  raised : ∀ k, kindPresent (m.attentionOf b) k = true → kindPresent (t.attentionOf b) k = true

theorem job_putJob_told {b : BayId} {r : HaltReason} {m : State} {j : JobId} (hj : activeJob m b = some j) {y : Job}
    (hy : y = jobAfterLoss r (m.job j)) (k : JobId) :
    (m.putJob j y).job k = if activeJob m b = some k then jobAfterLoss r (m.job k) else m.job k := by
  rw [State.putJob_job, hj]
  by_cases h : k = j
  · subst h; simp [hy]
  · simp [h, Ne.symm h]

/-- A job that is not touched, or whose record alone changes (R9). -/
theorem told_putJob {b : BayId} {r : HaltReason} {m : State} {j : JobId} {x : Job} (hj : activeJob m b = some j)
    (hx : m.job j = x) (hs : x.state ≠ .running ∧ x.state ≠ .waitingTrigger ∧ (∀ q, x.state ≠ .draining q) ∧
      ∀ n e, x.state ≠ .preparing (.scanning n e)) : Told b r m (m.putJob j (jobAfterLoss r x)) := by
  subst hx
  obtain ⟨h1, h2, h3, h4⟩ := hs
  refine ⟨rfl, List.prefix_rfl, job_putJob_told hj rfl, fun _ _ => rfl, fun _ _ => rfl, fun _ _ => rfl, ?_, ?_, ?_,
    fun _ => rfl, fun _ h => h⟩
  · intro k hk h
    cases hj.symm.trans hk
    rcases h with h | h | h
    · exact absurd h h1
    · exact absurd h h2
    · exact absurd h (h3 _)
  · intro k o hk h
    cases hj.symm.trans hk
    exact absurd h (h3 _)
  · intro k n e hk h
    cases hj.symm.trans hk
    exact absurd h (h4 n e)

/-- A job that halts (R17, R18). -/
theorem told_raise {b : BayId} {r : HaltReason} {m : State} {j : JobId} {x : Job} (hj : activeJob m b = some j)
    (hx : m.job j = x)
    (hs : (∀ o, x.state ≠ .draining (.finishing o)) ∧ ∀ n e, x.state ≠ .preparing (.scanning n e)) :
    Told b r m (raise (m.putJob j (jobAfterLoss r x)) b .jobHalted) := by
  subst hx
  obtain ⟨h1, h2⟩ := hs
  refine ⟨?_, ?_, fun k => ?_, fun c _ => ?_, fun c _ => ?_, fun c hc => ?_, ?_, ?_, ?_, fun _ => ?_, fun k h => ?_⟩
  · rw [raise_frame]; rfl
  · exact (inner_raise (m.putJob j (jobAfterLoss r (m.job j))) b .jobHalted).sent
  · rw [raise_job]; exact job_putJob_told hj rfl k
  · rw [raise_context]; rfl
  · rw [raise_map]; rfl
  · rw [raise_attentionOf_other _ hc]; rfl
  · exact fun _ _ _ => ⟨kindPresent_raise .., by rw [raise_context]; rfl⟩
  · intro k o hk h
    cases hj.symm.trans hk
    exact absurd h (h1 o)
  · intro k n e hk h
    cases hj.symm.trans hk
    exact absurd h (h2 n e)
  · rw [raise_map]; rfl
  · exact (inner_raise (m.putJob j (jobAfterLoss r (m.job j))) b .jobHalted).attention b _ h

/-- A job whose run has ended finishes (R17, R23, R166). -/
theorem told_finishing {b : BayId} {r : HaltReason} {m : State} {j : JobId} {x : Job} {o : RunOutcome}
    (hj : activeJob m b = some j) (hx : m.job j = x) (hs : x.state = .draining (.finishing o)) :
    Told b r m (finishing b j (closing x o) (m.building ++ [{ slot := j, record := none }]) m) := by
  subst hx
  have hy : closing (m.job j) o = jobAfterLoss r (m.job j) := by unfold jobAfterLoss; rw [hs]
  refine ⟨rfl, List.prefix_rfl, job_putJob_told hj hy, fun c hc => ?_, fun _ _ => rfl, fun _ _ => rfl, ?_, ?_, ?_,
    fun _ => rfl, fun _ h => h⟩
  · exact (State.putContext_context ..).trans (if_neg hc)
  · intro k hk h
    cases hj.symm.trans hk
    simp [hs] at h
  · exact fun k o' hk h => by
      cases hj.symm.trans hk
      exact ⟨List.mem_append_right _ (List.mem_singleton.mpr rfl), State.putContext_context_same ..⟩
  · intro k n e hk h
    cases hj.symm.trans hk
    rw [hs] at h
    cases h

/-- A scan cut short leaves the map cleared (R9, R66). -/
theorem told_scan {b : BayId} {r : HaltReason} {m : State} {j : JobId} {x : Job} {n e : Nat}
    (hj : activeJob m b = some j) (hx : m.job j = x) (hs : x.state = .preparing (.scanning n e)) :
    Told b r m ((m.putMap b CoverageMap.cleared).putJob j (jobAfterLoss r x)) := by
  subst hx
  refine ⟨rfl, List.prefix_rfl, job_putJob_told hj rfl, fun _ _ => rfl, fun c hc => ?_, fun _ _ => rfl, ?_, ?_, ?_,
    fun h => absurd hs (h j n e hj), fun _ h => h⟩
  · exact (State.putMap_map ..).trans (if_neg hc)
  · intro k hk h
    cases hj.symm.trans hk
    simp [hs] at h
  · intro k o hk h
    cases hj.symm.trans hk
    rw [hs] at h
    cases h
  · exact fun _ _ _ _ _ => State.putMap_map_same ..

theorem told_none {b : BayId} {r : HaltReason} {m : State} (h : activeJob m b = none) : Told b r m m := by
  refine ⟨rfl, List.prefix_rfl, fun k => by simp [h], fun _ _ => rfl, fun _ _ => rfl, fun _ _ => rfl, ?_, ?_, ?_,
    fun _ => rfl, fun _ h => h⟩
  all_goals simp [h]

theorem putJob_self (s : State) (j : JobId) : s.putJob j (s.job j) = s := by
  unfold State.putJob State.job
  rw [show put s.jobs j s.jobs[j] = s.jobs from Vector.set_getElem_self ..]

/-- A job of a quiet bay halts (R18). -/
theorem enterHalted_quiet {b : BayId} {s : State} {j : JobId} {x : Job} (h : Quiet b s) (hx : s.job j = x)
    (hb : x.bay = b) (hf : x.state ≠ .free) (r : HaltReason) :
    enterHalted s j r = raise (s.putJob j { x with state := .halted, haltReason := some r }) b .jobHalted := by
  unfold enterHalted
  dsimp only
  rw [hx, changeJob_quiet h hx hb hf rfl, hb]

/-- A preparation of a quiet bay returns to WAITING(BAY) (R9, R66). -/
theorem told_returnToWaiting {b : BayId} {r : HaltReason} {m : State} {j : JobId} {p : Preparation} (h : Quiet b m)
    (hj : activeJob m b = some j) (hs : (m.job j).state = .preparing p) : Told b r m (returnToWaiting m j p) := by
  obtain ⟨_, hb⟩ := activeJob_spec hj
  have hf : (m.job j).state ≠ .free := by rw [hs]; nofun
  have hy : jobAfterLoss r (m.job j) = { undoStages (m.job j) with state := .waitingBay } := by
    unfold jobAfterLoss; rw [hs]; rfl
  unfold returnToWaiting
  cases p with
  | draining =>
    dsimp only
    rw [changeJob_quiet h rfl hb hf rfl, ← hy]
    exact told_putJob hj rfl (by rw [hs]; exact ⟨nofun, nofun, nofun, nofun⟩)
  | scanning n e =>
    have hc : clearMap m (m.job j).bay = m.putMap b CoverageMap.cleared := by
      unfold clearMap
      rw [hb]
      exact reevaluate_quiet (h.congr rfl rfl)
    dsimp only
    rw [hc, changeJob_quiet (s := m.putMap b CoverageMap.cleared) (h.congr rfl rfl) rfl hb hf rfl, ← hy]
    exact told_scan hj rfl hs

/-- A job that the event does not change. -/
theorem told_unmoved {b : BayId} {r : HaltReason} {m : State} {j : JobId} (hj : activeJob m b = some j)
    (hy : jobAfterLoss r (m.job j) = m.job j)
    (hs : (m.job j).state ≠ .running ∧ (m.job j).state ≠ .waitingTrigger ∧ (∀ q, (m.job j).state ≠ .draining q) ∧
      ∀ n e, (m.job j).state ≠ .preparing (.scanning n e)) : Told b r m m := by
  have k := told_putJob (r := r) hj rfl hs
  rwa [hy, putJob_self] at k

/-- A job that the event halts with reason `q` (R17, R18). -/
theorem told_enterHalted {b : BayId} {r q : HaltReason} {m : State} {j : JobId} (h : Quiet b m)
    (hj : activeJob m b = some j) (hf : (m.job j).state ≠ .free)
    (hs : (∀ o, (m.job j).state ≠ .draining (.finishing o)) ∧ ∀ n e, (m.job j).state ≠ .preparing (.scanning n e))
    (hy : jobAfterLoss r (m.job j) = { m.job j with state := .halted, haltReason := some q }) :
    Told b r m (enterHalted m j q) := by
  rw [enterHalted_quiet h rfl (activeJob_spec hj).2 hf, ← hy]
  exact told_raise hj rfl hs

/-- A drain that the event ends enters its target (R16, R17). -/
theorem told_draining {b : BayId} {r : HaltReason} {m : State} {j : JobId} {t : DrainTarget} (h : Quiet b m)
    (hl : m.list b = []) (hj : activeJob m b = some j) (hs : (m.job j).state = .draining t) :
    Told b r m (haltOrRetarget m j r) := by
  obtain ⟨_, hb⟩ := activeJob_spec hj
  have hlb : m.list (m.job j).bay = [] := by rw [hb]; exact hl
  have hf : (m.job j).state ≠ .free := by rw [hs]; nofun
  unfold haltOrRetarget
  cases t with
  | paused =>
    simp only [hs]
    have e : enterHalted (m.putJob j { m.job j with state := .draining (.halted r) }) j r = enterHalted m j r := by
      have k := enterHalted_quiet (s := m.putJob j { m.job j with state := .draining (.halted r) })
        (x := { m.job j with state := .draining (.halted r) }) (b := b) (j := j) (h.congr rfl rfl)
        (State.putJob_job_same ..) hb nofun r
      rw [putJob_putJob] at k
      rw [k, enterHalted_quiet h rfl hb hf]
    rw [enterDraining_empty hlb, changeJob_quiet h rfl hb hf rfl]
    change Told b r m (enterHalted _ j r)
    rw [e]
    exact told_enterHalted h hj hf (by rw [hs]; exact ⟨nofun, nofun⟩) (by unfold jobAfterLoss; rw [hs])
  | halted first =>
    simp only [hs]
    rw [settleDrain_empty hs hlb]
    exact told_enterHalted h hj hf (by rw [hs]; exact ⟨nofun, nofun⟩) (by unfold jobAfterLoss; rw [hs])
  | finishing o =>
    simp only [hs]
    rw [settleDrain_empty hs hlb]
    change Told b r m (enterFinishing m j o)
    rw [enterFinishing_eq rfl (by rw [hs]; nofun) hf, hb]
    have hq : report (finishing b j (closing (m.job j) o) (m.building ++ [{ slot := j, record := none }]) m) b = _ :=
      report_quiet (h.congr rfl rfl)
    rw [hq]
    exact told_finishing hj rfl hs

/-- The job of a quiet bay whose list is empty takes the event (R9, R17, R18, R132, R140). -/
theorem told_jobLosesBay {b : BayId} {r : HaltReason} {m : State} (h : Quiet b m) (hl : m.list b = []) :
    Told b r m (jobLosesBay m b r) := by
  unfold jobLosesBay
  cases hj : activeJob m b with
  | none => exact told_none hj
  | some j =>
    have halts := told_enterHalted (r := r) (q := r) h hj
    dsimp only
    cases hs : (m.job j).state with
    | preparing p => exact told_returnToWaiting h hj hs
    | running | waitingTrigger =>
      simp only [haltOrRetarget, hs]
      exact halts (by rw [hs]; nofun) (by rw [hs]; exact ⟨nofun, nofun⟩) (by unfold jobAfterLoss; rw [hs])
    | draining t => exact told_draining h hl hj hs
    | free | loaded | waitingBay | paused | halted | finishing | closed =>
      simp only [haltOrRetarget, hs]
      exact told_unmoved hj (by unfold jobAfterLoss; rw [hs]) (by rw [hs]; exact ⟨nofun, nofun, nofun, nofun⟩)

/-! ### The loss of a bay in the words of Safety.lean -/

theorem stops_of_halting {st : JobState} (h : st = .running ∨ st = .waitingTrigger ∨ st = .draining .paused) :
    st.stops = true := by
  rcases h with rfl | rfl | rfl <;> rfl

/-- An indicator is computed before or after a write of the port's other fields alike. -/
theorem showing_write (auto : IndicatorPattern) {f : BayPort → BayPort}
    (hf : ∀ (p : BayPort) (q : IndicatorPattern) (n : Nat),
      f { p with shown := q, phase := n } = { f p with shown := q, phase := n })
    (hs : ∀ p, (f p).shown = p.shown ∧ (f p).override = p.override) (p : BayPort) :
    f (showing auto p) = showing auto (f p) := by
  have e : (f p).shown = (f p).override.getD auto ↔ p.shown = p.override.getD auto := by rw [(hs p).1, (hs p).2]
  unfold showing
  by_cases h : p.shown = p.override.getD auto
  · rw [if_pos h, if_pos (e.mpr h)]
  · rw [if_neg h, if_neg (mt e.mp h), hf, ← (hs p).2]

/-- The bay has lost its traffic, and its job has been told (R46, R47, R118, R132, R140, R160). -/
theorem losesBay_of_left {b : BayId} {status : ResponseStatus} {reason : HaltReason} {u m t : State}
    (l : Left b status u m) (k : Told b reason m t) : LosesBay b status reason u t := by
  have mjobs : m.jobs = u.jobs := by rw [l.frame]
  have mjob (j) : m.job j = u.job j := by unfold State.job; rw [mjobs]
  have mactive : activeJob m b = activeJob u b := activeJob_of_jobs mjobs b
  have tports : t.port = m.port := by rw [k.frame]; rfl
  have tlist : t.list = m.list := by rw [k.frame]; rfl
  have tslot : t.slot = m.slot := by rw [k.frame]; rfl
  have thold : t.hold = m.hold := by rw [k.frame]
  have twait : t.wait = m.wait := by rw [k.frame]
  have ttag : t.tagInUse = m.tagInUse := by rw [k.frame]; rfl
  have mono {tag opcode sub} (h : Answered b u.link status tag opcode sub m) :
      Answered b u.link status tag opcode sub t := h.mono k.sent fun x hx => by rw [ttag]; exact hx
  have answered : ∀ c, (c ∈ u.hold ∨ c ∈ u.wait) → c.bay = b →
      Answered b u.link status c.tag c.opcode false t := by
    intro c hc hb
    rcases hc with hc | hc
    · exact mono ((l.leaves.held c hc hb).resolve_left fun h => l.hold c h hb)
    · exact mono ((l.leaves.waiting c hc hb).resolve_left fun h => l.wait c h hb)
  have active {j} (hj : activeJob u b = some j) : activeJob m b = some j := mactive.trans hj
  refine ⟨?_, fun c hc => ⟨?_, ?_, ?_, ?_, ?_⟩, ?_, ?_, ?_, ?_, l.leaves.sent.trans k.sent, ?_, answered, ?_, ?_, ?_, ?_,
    ?_, ?_, ?_, ?_⟩
  · rw [k.frame, l.frame]
  · rw [tports, l.ports c hc]
  · rw [tlist, l.lists c hc]
  · rw [k.contexts c hc, l.contexts c hc]
  · rw [k.maps c hc, l.maps c hc]
  · rw [k.attentions c hc, l.attentions c hc]
  · rw [tlist, l.list]
  · exact fun r hr i hi => by rw [tslot, l.slot, if_pos (.inl ⟨r, hr, hi⟩)]
  · exact fun e he i hi => by rw [tslot, l.slot, if_pos (.inr ⟨e, he, hi⟩)]
  · intro i h1 h2
    rw [tslot, l.slot, if_neg]
    rintro (⟨r, hr, h⟩ | ⟨e, he, h⟩)
    · exact h1 r hr h
    · exact h2 e he h
  · exact fun r hr c x hc hw => mono (l.records r hr c x hc hw)
  · rw [thold]; exact fun c hc => ⟨l.leaves.hold c hc, l.hold c hc⟩
  · rw [thold]; exact l.leaves.others
  · rw [twait, ← l.leaves.wait, List.filter_eq_self.mpr]
    exact fun c hc => by simpa using l.wait c hc
  · intro j
    rw [k.jobs j, mactive, mjob]
  · intro j hj hs
    obtain ⟨h1, h2⟩ := k.halted j (active hj) (by rw [mjob]; exact hs)
    exact ⟨h1, h2.trans (l.context j hj (stops_of_halting hs))⟩
  · exact fun j o hj hs => k.finished j o (active hj) (by rw [mjob]; exact hs)
  · exact fun j n e hj hs => k.scanned j n e (active hj) (by rw [mjob]; exact hs)
  · intro hn
    have hm : t.map b = m.map b := k.kept fun j n e hj => by rw [mjob]; exact hn j n e (mactive.symm.trans hj)
    have hz (i) : t.zone b i = m.zone b i := by unfold State.zone; rw [hm]
    refine ⟨?_, ?_, ?_, ?_, fun i => by rw [hz, l.zone]⟩ <;> rw [hm, l.map]

/-- What a lost bay's port holds before the job is told, and what has been sent to the drive. -/
theorem port_of_left {v : State} {b : BayId} {status : ResponseStatus} (hr : (v.port b).state ≠ .ready)
    (hs : leavingStatus v b = status) (f : BayPort → BayPort) :
    ((answerLeaving (abandonQueue v b status) b).modPort b f).port b = f { v.port b with queue := [] } ∧
      ((answerLeaving (abandonQueue v b status) b).modPort b f).toDrive = v.toDrive ∧
      ((answerLeaving (abandonQueue v b status) b).modPort b f).attentionOf b = v.attentionOf b := by
  subst hs
  have q := queueAbandoned_abandonQueue hr
  obtain ⟨_, _, _, fr⟩ := answerLeaving_spec (abandonQueue v b (leavingStatus v b)) b
  refine ⟨?_, ?_, ?_⟩
  · rw [State.modPort_port_same, fr]
    change f ((abandonQueue v b (leavingStatus v b)).port b) = _
    rw [q.port]
  · rw [State.modPort_toDrive, fr]
    change (abandonQueue v b (leavingStatus v b)).toDrive = _
    rw [q.frame]
  · rw [State.modPort_attentionOf, fr]
    change (abandonQueue v b (leavingStatus v b)).attentionOf b = _
    rw [q.frame]
    rfl

theorem Told.port {b : BayId} {r : HaltReason} {m t : State} (k : Told b r m t) (c : BayId) : t.port c = m.port c := by
  rw [k.frame]; rfl

theorem shown_showing (auto : IndicatorPattern) (p : BayPort) : (showing auto p).shown = p.override.getD auto := by
  unfold showing
  dsimp only
  split
  · assumption
  · rfl

/-- An entered bay loses its traffic and tells its job; `f` writes the rest of its port. -/
theorem losesBay_of_entered {b : BayId} {status : ResponseStatus} {u v : State} (h : Entered b status u v)
    (hp : (v.port b).shown = (v.port b).override.getD (bayPattern (v.port b).state)) {f : BayPort → BayPort}
    (hf : ∀ p, (f p).state = p.state ∧ (f p).shown = p.shown ∧ (f p).override = p.override) (reason : HaltReason) :
    ∃ t, jobLosesBay ((answerLeaving (abandonQueue v b status) b).modPort b f) b reason = t ∧
      LosesBay b status reason u t ∧ t.port b = f { v.port b with queue := [] } ∧ t.toDrive = v.toDrive ∧
      ∀ k, kindPresent (v.attentionOf b) k = true → kindPresent (t.attentionOf b) k = true := by
  have l := left_of_entered h f
  obtain ⟨port, drive, attention⟩ := port_of_left h.state h.status f
  generalize (answerLeaving (abandonQueue v b status) b).modPort b f = m at *
  obtain ⟨hst, hsh, hov⟩ := hf { v.port b with queue := [] }
  have quiet : Quiet b m := by
    refine ⟨l.hold, ?_, ?_⟩ <;> rw [port, hst]
    · exact h.state
    · rw [hsh, hov]; exact hp
  have k := told_jobLosesBay (r := reason) quiet l.list
  refine ⟨_, rfl, losesBay_of_left l k, (k.port b).trans port, ?_, fun n hn => k.raised n (by rw [attention]; exact hn)⟩
  rw [k.frame]
  exact drive

/-- A selective reset (R139, R140). -/
theorem selectivelyReset_selectiveReset (s : State) (b : BayId) (cause : ResetCause) :
    SelectivelyReset b cause s (selectiveReset s b cause) := by
  have hv := setBayState_putPort s b { s.port b with
    lastReset := some cause, fault := none, rejected := none, resetTimer := some 500 } (st := .resetting) nofun
  have hport : ∀ p : BayPort, ((s.putPort b p).signal (.interfaceReset b)).port b = p :=
    fun p => State.putPort_port_same ..
  have entered : Entered b .bayReset s ((setBayState (s.putPort b { s.port b with
      lastReset := some cause, fault := none, rejected := none, resetTimer := some 500 }) b .resetting).signal
        (.interfaceReset b)) := by
    rw [hv]
    refine ⟨rfl, fun c hc => ?_, fun _ _ => rfl, ?_, List.prefix_rfl, ?_, ?_⟩
    · exact (State.putPort_port ..).trans (if_neg hc)
    · rw [hport, showing_eq]
    · rw [hport, showing_eq]; nofun
    · unfold leavingStatus
      rw [hport, showing_eq]
      rfl
  obtain ⟨t, e, hl, hp, hd, _⟩ := losesBay_of_entered entered (by rw [hv, hport, shown_showing, showing_eq])
    (f := fun p => { p with identity := none }) (fun _ => ⟨rfl, rfl, rfl⟩) cause.haltReason
  rw [show selectiveReset s b cause = t from e]
  refine ⟨hl, hd.trans ?_, hp.trans ?_⟩
  · rw [hv]; rfl
  · rw [hv, hport]
    exact showing_write .fast (f := fun p => { p with queue := [], identity := none }) (fun _ _ _ => rfl)
      (fun _ => ⟨rfl, rfl⟩) _

/-- A removal of a drive (R132). -/
theorem driveRemoved_removeDrive (s : State) (b : BayId) : DriveRemoved b s (removeDrive s b) := by
  have hv := setBayState_putPort s b { s.port b with debounce := none, resetTimer := none } (st := .empty) nofun
  have hport : ∀ p : BayPort, (raise (s.putPort b p) b .removed).port b = p :=
    fun p => (raise_port ..).trans (State.putPort_port_same ..)
  have entered : Entered b .bayAbsent s (raise (setBayState (s.putPort b { s.port b with
      debounce := none, resetTimer := none }) b .empty) b .removed) := by
    rw [hv]
    refine ⟨?_, fun c hc => ?_, fun c hc => ?_, ?_, ?_, ?_, ?_⟩
    · rw [raise_frame]; rfl
    · rw [raise_port]; exact (State.putPort_port ..).trans (if_neg hc)
    · rw [raise_attentionOf_other _ hc]; rfl
    · rw [hport, showing_eq]
    · exact (inner_raise (s.putPort b _) b .removed).sent
    · rw [hport, showing_eq]; nofun
    · unfold leavingStatus
      rw [hport, showing_eq]
      rfl
  obtain ⟨t, e, hl, hp, hd, ha⟩ := losesBay_of_entered entered (by rw [hv, hport, shown_showing, showing_eq])
    (f := fun p => { p with identity := none, attempts := 0, fault := none, rejected := none })
    (fun _ => ⟨rfl, rfl, rfl⟩) .removed
  rw [show removeDrive s b = t from e]
  refine ⟨hl, hd.trans ?_, ha _ (kindPresent_raise ..), hp.trans ?_⟩
  · rw [hv, raise_toDrive]; rfl
  · rw [hv, hport]
    exact showing_write .off
      (f := fun p => { p with queue := [], identity := none, attempts := 0, fault := none, rejected := none })
      (fun _ _ _ => rfl) (fun _ => ⟨rfl, rfl⟩) _

/-! ### Settled: the selective resets and the removal -/

/-- Settles O39: the three causes take the one selective reset of `selectivelyReset_selectiveReset`. -/
theorem selectiveResetsAreTaken : Obligations.SelectiveResetsAreTaken := by
  unfold Obligations.SelectiveResetsAreTaken
  intro s
  refine ⟨fun b => ?_, fun b id => ⟨fun r hr ha => ?_, fun hn => ?_⟩,
    fun c rest bay hf => ⟨fun hn => ?_, fun b hb => ?_⟩⟩
  · have h := selectivelyReset_selectiveReset s b .deviceFault
    simp only [exec, execDeviceFaultIndication]
    cases (s.port b).state with
    | identifying | ready => exact ⟨_, rfl, h⟩
    | empty | seating | faulted | resetting => rfl
  · refine ⟨_, ?_, selectivelyReset_selectiveReset s b .t2Expiry⟩
    simp only [exec, execT2Expiry, hr, ha, if_true]
  · simp only [exec, execT2Expiry]
    cases hr : findRecord s b id with
    | none => rfl
    | some r => simp [hn r hr]
  · simp only [exec, execResetBay, takeManagement_front hf.1 hf.2, bayOf_eq_none hn, refuse_putManagement]
  · subst hb
    have e := fun x => selectivelyReset_selectiveReset ((accepted s c rest).putPort b x) b .resetBay
    have hx : exec (.resetBay b.val) s = .next (
        match (s.port b).state with
        | .empty => replied s c rest .absent .nothing
        | .seating => replied s c rest .absent .nothing
        | .resetting => (accepted s c rest).modPort b restartReset
        | .identifying => selectiveReset ((accepted s c rest).putPort b { s.port b with attempts := 0 }) b .resetBay
        | .ready => selectiveReset ((accepted s c rest).putPort b { s.port b with attempts := 0 }) b .resetBay
        | .faulted => selectiveReset ((accepted s c rest).putPort b { s.port b with attempts := 0 }) b .resetBay) := by
      simp only [exec, execResetBay, takeManagement_front hf.1 hf.2, bayOf_val, reply_putManagement,
        accept_putManagement, State.putManagement_port]
      rfl
    rw [hx]
    split
    · next h => rcases h with h | h <;> rw [h]
    · next h1 =>
      split
      · next h2 => rw [h2]; rfl
      · next h2 =>
        refine ⟨_, rfl, ?_⟩
        split
        · next h => exact absurd (.inl h) h1
        · next h => exact absurd (.inr h) h1
        · next h => exact absurd h h2
        · exact e _
        · exact e _
        · exact e _

/-- A drop in SEATING (R131). -/
theorem setBayState_presence (s : State) (b : BayId) : setBayState (stopDebounce (setPresence s b false) b) b .empty =
    s.putPort b (showing .off { s.port b with presence := false, debounce := none, state := .empty }) := by
  have e : stopDebounce (setPresence s b false) b =
      s.putPort b { s.port b with presence := false, debounce := none } := by
    unfold stopDebounce setPresence State.modPort
    rw [State.putPort_port_same, putPort_putPort]
  rw [e, setBayState_putPort _ _ _ (by nofun)]
  rfl

/-- A drop of presence in an occupied bay begins a removal (R132). -/
theorem exec_presenceDropped {s : State} {b : BayId} (h : (s.port b).presence = true)
    (ho : (s.port b).state ≠ .empty ∧ (s.port b).state ≠ .seating) : exec (.presenceDropped b) s =
      .next (beginRemoval (setPresence s b false) b) := by
  simp only [exec, execPresenceDropped]
  rw [if_pos h]
  split
  · next hs => exact absurd hs ho.1
  · next hs => exact absurd hs ho.2
  all_goals rfl

/-- A removal's debounce expires (R132). -/
theorem exec_debounceExpiry {s : State} {b : BayId} (h : (s.port b).debounce ≠ none)
    (ho : (s.port b).state ≠ .empty ∧ (s.port b).state ≠ .seating) :
    exec (.debounceExpiry b) s = .next (endRemoval s b) := by
  simp only [exec, execDebounceExpiry]
  rw [if_pos (Option.isSome_iff_ne_none.mpr h)]
  cases hs : (s.port b).state with
  | empty => exact absurd hs ho.1
  | seating => exact absurd hs ho.2
  | identifying | ready | faulted | resetting => rfl

/-- Settles O42: a drop in SEATING, the debounce, and the one removal of `driveRemoved_removeDrive`. -/
theorem removalIsDebounced : Obligations.RemovalIsDebounced := by
  unfold Obligations.RemovalIsDebounced
  intro s b p occupied
  refine ⟨fun h => ?_, fun h => ⟨fun hs => ?_, fun hs => ?_, fun ho hd => ?_, fun ho hd => ?_⟩, fun h => ?_,
    fun hd ho hp => ?_, fun hd ho hp => ?_⟩
  · simp only [exec, execPresenceDropped]
    rw [if_neg (by simpa using h)]
  · simp only [exec, execPresenceDropped]
    rw [if_pos h]
    split
    · rfl
    all_goals next e => exact nomatch (show BayState.empty = _ from hs.symm.trans e)
  · simp only [exec, execPresenceDropped]
    rw [if_pos h]
    split
    · next e => exact nomatch (show BayState.seating = _ from hs.symm.trans e)
    · exact congrArg Host.Outcome.next (setBayState_presence s b)
    all_goals next e => exact nomatch (show BayState.seating = _ from hs.symm.trans e)
  · rw [exec_presenceDropped h ho]
    unfold beginRemoval
    rw [if_neg (by exact hd)]
    unfold setPresence State.modPort
    rw [putPort_putPort, State.putPort_port_same]
    rfl
  · rw [exec_presenceDropped h ho]
    refine ⟨_, rfl, ?_⟩
    unfold beginRemoval
    rw [if_pos (by exact hd)]
    exact driveRemoved_removeDrive ..
  · simp only [exec, execDebounceExpiry]
    rcases h with h | h
    · rw [if_neg (by simp [show (s.port b).debounce = none from h])]
    · rw [show (s.port b).state = .empty from h]
      split <;> rfl
  · rw [exec_debounceExpiry hd ho]
    unfold endRemoval
    rw [if_pos hp]
  · rw [exec_debounceExpiry hd ho]
    refine ⟨_, rfl, ?_⟩
    unfold endRemoval
    rw [if_neg (by simpa using hp)]
    exact driveRemoved_removeDrive ..

end Sys2Proof.Proofs
end

section
/-! What follows a retirement, first part: the steps of the job controller stay within the run's frame (R11, R14, R16,
R17, R21, R22, R45). -/

namespace Sys2Proof.Proofs

open Sys2Proof Sys2Proof.Machine Sys2Proof.Safety

/-- A record that is in no preparation has no scan in progress. -/
theorem scanChecked_of_not_preparing {s : State} {x : Job} (h : ∀ p, x.state ≠ .preparing p) : scanChecked s x = true := by
  unfold scanChecked
  split
  · next hx => exact absurd hx (h _)
  · rfl

/-- The run of an active job of bay `b` is carried on: within its frame, to a state that is active again. -/
structure RunGoes (b : BayId) (j : JobId) (s t : State) : Prop where
  frame : RunFrame b j s t
  active : (t.job j).state.active = true

section
variable {b : BayId} {j : JobId} {s t u : State}

theorem RunGoes.bay (h : RunGoes b j s t) (hb : (s.job j).bay = b) : (t.job j).bay = b := h.frame.bay.trans hb

theorem RunGoes.trans (h : RunGoes b j s t) (k : RunGoes b j t u) : RunGoes b j s u := ⟨h.frame.trans k.frame, k.active⟩

variable (hb : (s.job j).bay = b) (ha : (s.job j).state.active = true)
include hb ha

omit hb in
theorem runGoes_refl : RunGoes b j s s := ⟨.refl .., ha⟩

theorem runGoes_changeJob {x : Job}
    (hx : x = { s.job j with
      state := x.state, haltReason := x.haltReason, outcome := x.outcome, passIndex := x.passIndex
      passComplete := x.passComplete, latch := x.latch, unitActive := x.unitActive, passEnds := x.passEnds
      permille := x.permille })
    (hxa : x.state.active = true) (hn : ∀ p, x.state ≠ .preparing p) : RunGoes b j s (changeJob s j x) :=
  ⟨runFrame_changeJob hx ha hxa fun _ => scanChecked_of_not_preparing hn, by rw [changeJob_job_same]; exact hxa⟩

theorem runGoes_setState {st : JobState} (hst : st.active = true) (hn : ∀ p, st ≠ .preparing p) :
    RunGoes b j s (setState s j st) := runGoes_changeJob hb ha (x := { s.job j with state := st }) rfl hst hn

theorem runGoes_recordResume : RunGoes b j s (recordResume s j) := by
  rw [recordResume_eq, hb]
  exact ⟨runFrame_putContext _, ha⟩

theorem runGoes_enterHalted (r : HaltReason) : RunGoes b j s (enterHalted s j r) := by
  have k := runGoes_changeJob hb ha (x := { s.job j with state := .halted, haltReason := some r }) rfl rfl nofun
  exact ⟨k.frame.trans (runFrame_raise ..), by unfold enterHalted; rw [raise_job]; exact k.active⟩

theorem runGoes_enterFinishing (o : RunOutcome) : RunGoes b j s (enterFinishing s j o) :=
  ⟨runFrame_enterFinishing hb ha o, by rw [enterFinishing_job]; rfl⟩

theorem runGoes_enterTarget (t : DrainTarget) : RunGoes b j s (enterTarget s j t) := by
  cases t with
  | paused =>
    have k := runGoes_recordResume hb ha
    exact k.trans (runGoes_setState (st := .paused) (k.bay hb) k.active rfl nofun)
  | halted r => exact runGoes_enterHalted hb ha r
  | finishing o => exact runGoes_enterFinishing hb ha o

theorem runGoes_settleDrain : RunGoes b j s (settleDrain s j) := by
  unfold settleDrain
  split
  · split
    · exact runGoes_enterTarget hb ha _
    · exact runGoes_refl ha
  · exact runGoes_refl ha

theorem runGoes_enterDraining (t : DrainTarget) : RunGoes b j s (enterDraining s j t) := by
  have k := runGoes_setState hb ha (st := .draining t) rfl nofun
  exact k.trans (runGoes_settleDrain (k.bay hb) k.active)

theorem runGoes_compareTolerance : RunGoes b j s (compareTolerance s j) := by
  unfold compareTolerance
  dsimp only
  split
  · split
    · exact runGoes_enterDraining hb ha _
    · exact runGoes_enterFinishing hb ha _
    · exact runGoes_setState hb ha rfl nofun
    · exact runGoes_refl ha
  · exact runGoes_refl ha

theorem runGoes_recordPassEnd : RunGoes b j s (recordPassEnd s j) :=
  ⟨runFrame_recordPassEnd .., by rw [recordPassEnd_job]; exact ha⟩

theorem runGoes_clearLatch : RunGoes b j s (clearLatch s j) :=
  ⟨runFrame_clearLatch .., by rw [clearLatch_job]; exact ha⟩

theorem runGoes_beginUnit : RunGoes b j s (beginUnit s j) :=
  ⟨runFrame_beginUnit hb, by rw [beginUnit_job_same]; exact ha⟩

theorem runGoes_startPass (i : Nat) : RunGoes b j s (startPass s j i) :=
  ⟨runFrame_startPass hb i, by rw [sameStates_startPass]; exact ha⟩

omit hb ha in
theorem runGoes_beginPass (n : Nat) : ∀ {s : State} (i : Nat), (s.job j).bay = b → (s.job j).state.active = true →
    RunGoes b j s (beginPass n s j i) := by
  induction n with
  | zero => exact fun _ hb ha => runGoes_refl ha
  | succ n ih =>
    intro s i hb ha
    have k1 := runGoes_startPass hb ha i
    have k2 := k1.trans (runGoes_recordPassEnd (k1.bay hb) k1.active)
    unfold beginPass
    dsimp only
    split
    · exact k1.trans (runGoes_beginUnit (k1.bay hb) k1.active)
    · split
      · exact k2.trans (runGoes_enterFinishing (k2.bay hb) k2.active _)
      · exact k2.trans (ih _ (k2.bay hb) k2.active)
      · have k3 := k2.trans (runGoes_clearLatch (k2.bay hb) k2.active)
        exact k3.trans (ih _ (k3.bay hb) k3.active)
      · exact k2.trans (runGoes_setState (k2.bay hb) k2.active rfl nofun)

theorem runGoes_followPass : RunGoes b j s (followPass s j) := by
  unfold followPass
  split
  · exact runGoes_enterFinishing hb ha _
  · exact runGoes_beginPass _ _ hb ha
  · have k := runGoes_clearLatch hb ha
    exact k.trans (runGoes_beginPass _ _ (k.bay hb) k.active)
  · exact runGoes_setState hb ha rfl nofun

theorem runGoes_passEndWhileDraining (t : DrainTarget) : RunGoes b j s (passEndWhileDraining s j t) := by
  have k := runGoes_recordPassEnd hb ha
  unfold passEndWhileDraining
  dsimp only
  split
  · cases t with
    | finishing o => exact k
    | paused => exact k.trans (runGoes_setState (k.bay hb) k.active rfl nofun)
    | halted r => exact k.trans (runGoes_setState (k.bay hb) k.active rfl nofun)
  · exact k
end

/-- The state behind a unit that has ended: its flag is clear and it has no end (R11, R38). -/
def unitClosed (s : State) (j : JobId) : State :=
  (s.putJob j { s.job j with unitActive := false }).putContext (s.job j).bay
    ((s.context (s.job j).bay).map fun w => { w with unitEnd := none })

@[simp] theorem unitClosed_job (s : State) (j : JobId) :
    (unitClosed s j).job j = { s.job j with unitActive := false } := State.putJob_job_same ..

/-- What the end of a unit leads to, by the state of its job (R11, R16). -/
theorem completeUnit_eq (s : State) (j : JobId) : completeUnit s j =
    match (s.job j).state with
    | .running =>
      if jobPassHasWork (unitClosed s j) j then
        if (s.job j).latch then beginUnit (clearLatch (unitClosed s j) j) j
        else setState (unitClosed s j) j .waitingTrigger
      else followPass (recordPassEnd (unitClosed s j) j) j
    | .draining t =>
      if jobPassHasWork (unitClosed s j) j then unitClosed s j else passEndWhileDraining (unitClosed s j) j t
    | _ => unitClosed s j := by
  have e : (s.modJob j fun x => { x with unitActive := false }).modContext
      ((s.modJob j fun x => { x with unitActive := false }).job j).bay (fun w => { w with unitEnd := none }) =
      unitClosed s j := by
    unfold unitClosed State.modContext
    rw [State.modJob_job_same]
    rfl
  unfold completeUnit
  dsimp only
  rw [e, unitClosed_job] <;> rfl

section
variable {b : BayId} {j : JobId} {s : State} (hb : (s.job j).bay = b) (ha : (s.job j).state.active = true)
include hb ha

theorem runGoes_unitClosed : RunGoes b j s (unitClosed s j) := by
  subst hb
  have f : RunFrame (s.job j).bay j s (s.putJob j { s.job j with unitActive := false }) := runFrame_putJob rfl id id
  exact ⟨f.trans (runFrame_putContext _), by rw [unitClosed_job]; exact ha⟩

theorem runGoes_completeUnit : RunGoes b j s (completeUnit s j) := by
  have k := runGoes_unitClosed hb ha
  have kb := k.bay hb
  rw [completeUnit_eq]
  split
  · split
    · split
      · have l := k.trans (runGoes_clearLatch kb k.active)
        exact l.trans (runGoes_beginUnit (l.bay hb) l.active)
      · exact k.trans (runGoes_setState kb k.active rfl nofun)
    · have l := k.trans (runGoes_recordPassEnd kb k.active)
      exact l.trans (runGoes_followPass (l.bay hb) l.active)
  · split
    · exact k
    · exact k.trans (runGoes_passEndWhileDraining kb k.active _)
  · exact k

theorem runGoes_judgeUnit : RunGoes b j s (judgeUnit s j) := by
  unfold judgeUnit
  dsimp only
  split
  · split
    · exact runGoes_completeUnit hb ha
    · exact runGoes_refl ha
  · exact runGoes_refl ha

/-- What follows a retirement carries the run on (R16, R21, R45). -/
theorem runGoes_afterRetirement : RunGoes b j s (afterRetirement s j) := by
  have k1 := runGoes_judgeUnit hb ha
  have k2 := k1.trans (runGoes_compareTolerance (k1.bay hb) k1.active)
  exact k2.trans (runGoes_settleDrain (k2.bay hb) k2.active)
end

end Sys2Proof.Proofs
end

section
/-! What follows a retirement, second part: the tolerance comparison and the end of a drain (R16, R17, R21). -/

namespace Sys2Proof.Proofs

open Sys2Proof Sys2Proof.Machine Sys2Proof.Safety

/-- The comparison with the tolerance and the end of the drain, behind a unit that has been judged (R16, R21). -/
def settled (s : State) (j : JobId) : State := settleDrain (compareTolerance s j) j

theorem afterRetirement_eq (s : State) (j : JobId) : afterRetirement s j = settled (judgeUnit s j) j := rfl

/-! ### What settling keeps -/

/-- What settling leaves alone: the maps, and of the job's record all but its state, reason, outcome, latch and flag. -/
structure Kept (b : BayId) (j : JobId) (s t : State) : Prop where
  goes : RunGoes b j s t
  job : t.job j = { s.job j with
    state := (t.job j).state, haltReason := (t.job j).haltReason, outcome := (t.job j).outcome
    latch := (t.job j).latch, unitActive := (t.job j).unitActive }
  map : ∀ c, t.map c = s.map c

section
variable {b : BayId} {j : JobId} {s t u : State}

theorem Kept.trans (h : Kept b j s t) (k : Kept b j t u) : Kept b j s u where
  goes := h.goes.trans k.goes
  job := by rw [k.job, h.job]
  map c := (k.map c).trans (h.map c)

variable (hb : (s.job j).bay = b) (ha : (s.job j).state.active = true)
include hb ha

theorem kept_refl : Kept b j s s := ⟨⟨.refl .., ha⟩, rfl, fun _ => rfl⟩

theorem kept_changeJob {x : Job}
    (hx : x = { s.job j with
      state := x.state, haltReason := x.haltReason, outcome := x.outcome, latch := x.latch, unitActive := x.unitActive })
    (hxa : x.state.active = true) (hn : ∀ p, x.state ≠ .preparing p) : Kept b j s (changeJob s j x) := by
  refine ⟨runGoes_changeJob hb ha ?_ hxa hn, ?_, changeJob_map (.inl hxa)⟩
  · rw [hx]
  · rw [changeJob_job_same]; exact hx

theorem kept_setState {st : JobState} (hst : st.active = true) (hn : ∀ p, st ≠ .preparing p) :
    Kept b j s (setState s j st) := kept_changeJob hb ha (x := { s.job j with state := st }) rfl hst hn

theorem kept_recordResume : Kept b j s (recordResume s j) :=
  ⟨runGoes_recordResume hb ha, by rw [recordResume_eq]; rfl, fun _ => by rw [recordResume_eq]; rfl⟩

theorem kept_enterHalted (r : HaltReason) : Kept b j s (enterHalted s j r) := by
  have k := kept_changeJob hb ha (x := { s.job j with state := .halted, haltReason := some r }) rfl rfl nofun
  refine ⟨runGoes_enterHalted hb ha r, ?_, fun c => ?_⟩
  · unfold enterHalted; rw [raise_job]; exact k.job
  · unfold enterHalted; rw [raise_map]; exact k.map c

theorem kept_enterFinishing (o : RunOutcome) : Kept b j s (enterFinishing s j o) := by
  refine ⟨runGoes_enterFinishing hb ha o, by rw [enterFinishing_job]; rfl, fun c => ?_⟩
  unfold enterFinishing
  exact changeJob_map (.inl rfl) c

theorem kept_enterTarget (t : DrainTarget) : Kept b j s (enterTarget s j t) := by
  cases t with
  | paused =>
    have k := kept_recordResume hb ha
    exact k.trans (kept_setState (st := .paused) (k.goes.bay hb) k.goes.active rfl nofun)
  | halted r => exact kept_enterHalted hb ha r
  | finishing o => exact kept_enterFinishing hb ha o

theorem kept_settleDrain : Kept b j s (settleDrain s j) := by
  unfold settleDrain
  split
  · split
    · exact kept_enterTarget hb ha _
    · exact kept_refl hb ha
  · exact kept_refl hb ha

theorem kept_enterDraining (t : DrainTarget) : Kept b j s (enterDraining s j t) := by
  have k := kept_setState hb ha (st := .draining t) rfl nofun
  exact k.trans (kept_settleDrain (k.goes.bay hb) k.goes.active)

theorem kept_compareTolerance : Kept b j s (compareTolerance s j) := by
  unfold compareTolerance
  dsimp only
  split
  · split
    · exact kept_enterDraining hb ha _
    · exact kept_enterFinishing hb ha _
    · exact kept_setState hb ha rfl nofun
    · exact kept_refl hb ha
  · exact kept_refl hb ha

theorem kept_settled : Kept b j s (settled s j) := by
  have k := kept_compareTolerance hb ha
  exact k.trans (kept_settleDrain (k.goes.bay hb) k.goes.active)
end

/-! ### What settling does -/

section
variable {s : State} {j : JobId}

theorem settled_running (hs : (s.job j).state = .running) (ht : ¬ (s.job j).tolerance < (s.job j).badZones) :
    settled s j = s := by
  unfold settled compareTolerance
  dsimp only
  rw [if_neg ht, settleDrain_not_draining (by rw [hs]; nofun)]

theorem settled_waiting (hs : (s.job j).state = .waitingTrigger) (ht : ¬ (s.job j).tolerance < (s.job j).badZones) :
    settled s j = s := by
  unfold settled compareTolerance
  dsimp only
  rw [if_neg ht, settleDrain_not_draining (by rw [hs]; nofun)]

theorem settled_finishing (hs : (s.job j).state = .finishing) : settled s j = s := by
  unfold settled compareTolerance
  dsimp only
  rw [hs]
  dsimp only
  rw [ite_self, settleDrain_not_draining (by rw [hs]; nofun)]

/-- A drain that the tolerance leaves alone ends where its list is empty (R16, R21). -/
theorem settled_draining {t : DrainTarget} (hs : (s.job j).state = .draining t)
    (ht : ¬ ((s.job j).tolerance < (s.job j).badZones ∧ t = .paused)) : settled s j = settleDrain s j := by
  unfold settled compareTolerance
  dsimp only
  rw [hs]
  split
  · next hlt =>
    cases t with
    | paused => exact absurd ⟨hlt, rfl⟩ ht
    | halted r => rfl
    | finishing o => rfl
  · rfl

/-- The target of a drain that an exceeded tolerance makes (R17, R21). -/
abbrev rejecting : JobState := .draining (.finishing .rejected)

theorem settled_running_exceeds (hs : (s.job j).state = .running) (ht : (s.job j).tolerance < (s.job j).badZones)
    (hl : s.list (s.job j).bay ≠ []) : settled s j = setState s j rejecting := by
  unfold settled compareTolerance
  dsimp only
  rw [if_pos ht, hs]
  dsimp only
  rw [enterDraining_standing hl, settleDrain_standing]
  · rfl
  · rw [changeJob_job_same, changeJob_list]; exact hl

theorem settled_running_exceeds_empty (hs : (s.job j).state = .running)
    (ht : (s.job j).tolerance < (s.job j).badZones) (hl : s.list (s.job j).bay = []) :
    settled s j = enterFinishing (setState s j rejecting) j .rejected := by
  unfold settled compareTolerance
  dsimp only
  rw [if_pos ht, hs]
  dsimp only
  rw [enterDraining_empty hl]
  exact settleDrain_not_draining (by unfold enterTarget; rw [enterFinishing_job]; nofun)

theorem settled_waiting_exceeds (hs : (s.job j).state = .waitingTrigger)
    (ht : (s.job j).tolerance < (s.job j).badZones) : settled s j = enterFinishing s j .rejected := by
  unfold settled compareTolerance
  dsimp only
  rw [if_pos ht, hs]
  exact settleDrain_not_draining (by dsimp only; rw [enterFinishing_job]; nofun)

theorem settled_pausing_exceeds (hs : (s.job j).state = .draining .paused)
    (ht : (s.job j).tolerance < (s.job j).badZones) : settled s j = settleDrain (setState s j rejecting) j := by
  unfold settled compareTolerance
  dsimp only
  rw [if_pos ht, hs]
end

end Sys2Proof.Proofs
end

section
/-! The completion of an engine request: what is marked before anything retires, and the native erase, one request for
the whole drive (R43, R44, R49 to R51, R94, R108). -/

namespace Sys2Proof.Proofs

open Sys2Proof Sys2Proof.Machine Sys2Proof.Safety

/-! ### The entry of a completion is marked -/

/-- A bay's list with the entry of a record's request marked DONE_GOOD or DONE_ERROR (R43). -/
def markedList (s : State) (b : BayId) (r : Record) (good : Bool) : List Entry :=
  (s.list b).map fun e => if e.request = r.id then { e with
    slot := none, status := if good then .doneGood else .doneError
    mismatched := recordedMismatches s r.slot good } else e

/-- The state in which an engine completion has left its mark and nothing has retired yet (R43, R108). -/
def marking (s : State) (b : BayId) (r : Record) (good : Bool) : State := { s with
  ports := put s.ports b { s.port b with queue := (s.port b).queue.filter fun q => decide (q.id ≠ r.id) }
  slots := (freeSlot s r.slot).slots
  inFlight := put s.inFlight b (markedList s b r good) }

@[simp] theorem marking_list (s : State) (b : BayId) (r : Record) (good : Bool) :
    (marking s b r good).list b = markedList s b r good := put_same ..

theorem completeEntry_eq (s : State) (b : BayId) (r : Record) (good : Bool) : completeEntry s b r good =
    if nativeHeadFailed (marking s b r good) b then nativeEraseFailed (marking s b r good) b
    else retireAll (markedList s b r good).length (marking s b r good) b := by
  have e : (updateEntry (freeSlot (dropRecord s b r.id) r.slot) b r.id fun e => { e with
      slot := none, status := if good then .doneGood else .doneError
      mismatched := recordedMismatches s r.slot good }) = marking s b r good := by
    cases hs : r.slot <;> (unfold marking markedList; rw [hs]; rfl)
  unfold completeEntry
  dsimp only
  rw [e, marking_list]

section
variable {s : State} {b : BayId} {id : Nat} {r : Record} (hf : findRecord s b id = some r) (hl : r.link = .entry)
include hf hl

theorem exec_entry_completion (status : CompletionStatus) (d : DriveIdentity) :
    exec (.requestCompletion b id status d) s = .next (completeEntry s b r (decide (status = .good))) := by
  rw [exec_completion hf]
  unfold takeCompletion
  rw [hl]

theorem exec_entry_confirmation (ha : r.status = .aborting) :
    exec (.abortConfirmation b id) s = .next (completeEntry s b r false) := by
  rw [exec_confirmation hf ha]
  unfold takeConfirmation
  rw [hl]
end

/-! ### What a change of zones leaves alone -/

theorem reportBadZones_frame (s : State) (b : BayId) : reportBadZones s b = { s with jobs := (reportBadZones s b).jobs } := by
  unfold reportBadZones
  split <;> rfl

theorem reportBadZones_job (s : State) (b : BayId) (k : JobId) : (reportBadZones s b).job k = { s.job k with
    badZones := if (s.map b).owner = some k then badZones (s.map b) else (s.job k).badZones } := by
  unfold reportBadZones
  cases h : (s.map b).owner with
  | none => rfl
  | some j =>
    dsimp only
    rw [State.modJob_job]
    by_cases hk : k = j
    · subst hk; simp
    · simp [hk, Ne.symm hk]

theorem changeAllZones_frame (s : State) (b : BayId) (f : ZoneEntry → ZoneEntry) : changeAllZones s b f = { s with
    hold := (changeAllZones s b f).hold, wait := (changeAllZones s b f).wait, tags := (changeAllZones s b f).tags
    sent := (changeAllZones s b f).sent, jobs := (changeAllZones s b f).jobs
    coverage := (changeAllZones s b f).coverage } := by
  unfold changeAllZones
  rw [reevaluate_frame, reportBadZones_frame]
  rfl

theorem changeAllZones_job (s : State) (b : BayId) (f : ZoneEntry → ZoneEntry) (k : JobId) :
    (changeAllZones s b f).job k = { s.job k with badZones := ((changeAllZones s b f).job k).badZones } := by
  unfold changeAllZones
  rw [reevaluate_job, reportBadZones_job]
  rfl

theorem changeAllZones_zone {s : State} {b : BayId} {i : Nat} (f : ZoneEntry → ZoneEntry)
    (hi : i < (s.map b).entries.length) : (changeAllZones s b f).zone b i = f (s.zone b i) := by
  unfold changeAllZones
  rw [reevaluate_zone, reportBadZones_frame]
  unfold State.zone
  change ((putEntries s b _).map b).entries.getD i _ = _
  unfold putEntries
  rw [State.putMap_map_same]
  simp [hi]

/-! ### The native-erase entry is failed -/

theorem enterHalted_job (s : State) (j : JobId) (r : HaltReason) :
    (enterHalted s j r).job j = { s.job j with state := .halted, haltReason := some r } := by
  unfold enterHalted; rw [raise_job, changeJob_job_same]

theorem enterHalted_context (s : State) (j : JobId) (r : HaltReason) (c : BayId) :
    (enterHalted s j r).context c = s.context c := by
  unfold enterHalted; rw [raise_context, changeJob_context]

theorem kindPresent_enterHalted (s : State) (j : JobId) (r : HaltReason) :
    kindPresent ((enterHalted s j r).attentionOf (s.job j).bay) .jobHalted = true := kindPresent_raise ..

/-- A run or a drain with nothing in flight has taken a bay event (R16, R17, R18). -/
structure Stopped (b : BayId) (j : JobId) (r : HaltReason) (s t : State) : Prop where
  kept : Kept b j s t
  job : t.job j = jobAfterLoss r (s.job j)
  halted : (s.job j).state = .running ∨ (s.job j).state = .draining .paused →
    kindPresent (t.attentionOf b) .jobHalted = true ∧ t.context b = s.context b
  finished : ∀ o, (s.job j).state = .draining (.finishing o) →
    t.context b = none ∧ { slot := j, record := none } ∈ t.building

theorem stopped_haltOrRetarget {b : BayId} {j : JobId} {s : State} (hb : (s.job j).bay = b) (hl : s.list b = [])
    (hs : (s.job j).state = .running ∨ ∃ q, (s.job j).state = .draining q) (r : HaltReason) :
    Stopped b j r s (haltOrRetarget s j r) := by
  have hlb : s.list (s.job j).bay = [] := hb ▸ hl
  unfold haltOrRetarget
  rcases hs with hs | ⟨q, hs⟩
  · have ha : (s.job j).state.active = true := by rw [hs]; rfl
    simp only [hs]
    refine ⟨kept_enterHalted hb ha r, ?_, fun _ => ⟨hb ▸ kindPresent_enterHalted .., enterHalted_context ..⟩,
      fun _ h => nomatch hs.symm.trans h⟩
    rw [enterHalted_job]; simp only [jobAfterLoss, hs]
  · have ha : (s.job j).state.active = true := by rw [hs]; rfl
    cases q with
    | paused =>
      simp only [hs]
      have k := kept_enterDraining hb ha (.halted r)
      rw [enterDraining_empty hlb] at k ⊢
      refine ⟨k, ?_, fun _ => ⟨?_, ?_⟩, fun _ h => nomatch hs.symm.trans h⟩
      · change (enterHalted _ j r).job j = _
        rw [enterHalted_job, changeJob_job_same]; simp only [jobAfterLoss, hs]
      · have h := kindPresent_enterHalted (changeJob s j { s.job j with state := .draining (.halted r) }) j r
        rwa [changeJob_job_same, hb] at h
      · exact (enterHalted_context ..).trans (changeJob_context ..)
    | halted first =>
      simp only [hs]
      rw [settleDrain_empty hs hlb]
      refine ⟨kept_enterHalted hb ha first, ?_, fun h => by simp [hs] at h, fun _ h => nomatch hs.symm.trans h⟩
      change (enterHalted _ j first).job j = _
      rw [enterHalted_job]; simp only [jobAfterLoss, hs]
    | finishing o =>
      simp only [hs]
      rw [settleDrain_empty hs hlb]
      refine ⟨kept_enterFinishing hb ha o, ?_, fun h => by simp [hs] at h, fun o' ho => ?_⟩
      · change (enterFinishing s j o).job j = _
        rw [enterFinishing_job]; simp only [jobAfterLoss, hs]
      · have f := finishes_enterFinishing hb o
        exact ⟨f.2.2.2.2.1, f.2.2.2.2.2⟩

theorem JobState.stops_of_running {x : JobState} (h : x = .running ∨ ∃ q, x = .draining q) : x.stops = true := by
  rcases h with rfl | ⟨q, rfl⟩ <;> rfl

theorem JobState.active_of_running {x : JobState} (h : x = .running ∨ ∃ q, x = .draining q) : x.active = true := by
  rcases h with rfl | ⟨q, rfl⟩ <;> rfl

/-- A native-erase list whose one entry is failed is emptied with the resume cursor recorded, and its job takes the
event (R46, R47, R51). -/
theorem nativeEraseFailed_eq {s : State} {b : BayId} {j : JobId} {e : Entry} (ha : activeJob s b = some j)
    (hs : (s.job j).state = .running ∨ ∃ q, (s.job j).state = .draining q) (hl : s.list b = [e])
    (hz : e.zone = none) (hk : e.slot = none) :
    nativeEraseFailed s b = haltOrRetarget ((recordResume s j).putList b []) j .nativeEraseFailed := by
  have hr : recorded s b = recordResume s j := by
    unfold recorded
    rw [ha]
    exact if_pos (JobState.stops_of_running hs)
  have hd : abandonList s b = (recordResume s j).putList b [] := by
    rw [abandonList_eq, hl, hr]
    change dropEntry b _ e = _
    unfold dropEntry
    rw [hz, hk]
    rfl
  have hj : activeJob ((recordResume s j).putList b []) b = some j := by
    rw [← ha, ← hr, recorded_frame]; exact activeJob_of_jobs rfl b
  unfold nativeEraseFailed
  dsimp only
  rw [hd, hj]

/-! ### The issue of a native erase -/

section
variable {s : State} {b : BayId} {j : JobId} {w : WalkContext} (ha : activeJob s b = some j) (hw : s.context b = some w)
  (hk : w.kind = .nativeErase)
include ha hw hk

/-- The list a native erase finds: empty where its unit's request is still to come, else its one entry (R49, R51). -/
theorem nativeEraseStep_eq (hr : (s.port b).state = .ready) (hst : stalled s b = false) : nativeEraseStep s b =
    match s.list b with
    | [] =>
      if (s.job j).state = .running ∧ (s.job j).unitActive = true ∧ unitHasWork s (s.job j) w = true
      then issueNativeErase s b j w else s
    | e :: _ => if awaitsReissue w e && (s.job j).state.runningOrDraining then reissueNativeErase s b w e else s := by
  have hready : bayReady s b = true := by unfold bayReady; exact decide_eq_true hr
  unfold nativeEraseStep
  rw [if_neg (by simp [hready, hst]), ha, hw]
  dsimp only
  rw [if_pos hk] <;> rfl

/-- A head that is not DONE_ERROR awaits no reissue (R51). -/
theorem nativeEraseStep_standing (hl : s.list b ≠ []) (hd : ∀ e, (s.list b).head? = some e → e.status ≠ .doneError) :
    nativeEraseStep s b = s := by
  by_cases hr : (s.port b).state = .ready ∧ stalled s b = false
  · rw [nativeEraseStep_eq ha hw hk hr.1 hr.2]
    split
    · next h => exact absurd h hl
    · next e _ h =>
      have he : e.status ≠ .doneError := hd e (by rw [h]; rfl)
      simp [awaitsReissue, he]
  · unfold nativeEraseStep
    refine if_pos ?_
    by_cases h : (s.port b).state = .ready
    · exact .inr (by simpa using fun k => hr ⟨h, k⟩)
    · exact .inl (by unfold bayReady; exact decide_eq_false h)

end

/-- A bay that is not READY, or is stalled, gets no native erase (R105). -/
theorem nativeEraseStep_closed {s : State} {b : BayId} (h : (s.port b).state ≠ .ready ∨ stalled s b = true) :
    nativeEraseStep s b = s := by
  unfold nativeEraseStep
  refine if_pos (h.imp_left fun k => ?_)
  unfold bayReady
  exact decide_eq_false k

theorem nativeIssued_touchable (z : ZoneEntry) :
    ((z.state = .excluded ∨ z.state = .failed) → nativeIssued z = z) ∧
    (¬ (z.state = .excluded ∨ z.state = .failed) → nativeIssued z = { z with state := .writing }) :=
  ⟨fun h => if_pos h, fun h => if_neg h⟩

theorem nativeRetired_touchable (p : Nat) (z : ZoneEntry) :
    ((z.state = .excluded ∨ z.state = .failed) → nativeRetired p z = z) ∧
    (¬ (z.state = .excluded ∨ z.state = .failed) →
      nativeRetired p z = { z with state := .written, pass := some p, done := z.due }) :=
  ⟨fun h => if_pos h, fun h => if_neg h⟩

end Sys2Proof.Proofs
end

section
/-! The native erase, one request for the whole drive, settled (R49 to R51, R94). -/

namespace Sys2Proof.Proofs

open Sys2Proof Sys2Proof.Machine Sys2Proof.Safety

/-! ### Issue and reissue -/

/-- The record of a native erase under the bay's native T1 (R49, R106). -/
def nativeRecord (s : State) (b : BayId) (w : WalkContext) : Record :=
  { id := s.nextRequest, origin := .engine, link := .entry, cls := none, request := .nativeErase w.pattern, slot := none
    status := .issued, timer := (s.parameters b).nativeT1 * 60000, wanted := true }

/-- The state in which a native erase has been sent and its zones are still to be turned (R49). -/
def nativeIssuing (s : State) (b : BayId) (j : JobId) (w : WalkContext) : State :=
  ((sendNativeErase s b w).putList b
    [{ request := s.nextRequest, stripe := { first := 0, length := jobCapacity (s.job j) }, zone := none
       kind := .nativeErase, pass := w.pass, attempt := 1, slot := none, status := .issued
       mismatched := 0 }]).putContext b (some { w with cursor := passEnd s (s.job j) w })

theorem issueNativeErase_eq (s : State) (b : BayId) (j : JobId) (w : WalkContext) :
    issueNativeErase s b j w = changeAllZones (nativeIssuing s b j w) b nativeIssued := rfl

theorem sendNativeErase_queue (s : State) (b : BayId) (w : WalkContext) :
    ((sendNativeErase s b w).port b).queue = (s.port b).queue ++ [nativeRecord s b w] :=
  congrArg BayPort.queue (put_same s.ports b { s.port b with queue := (s.port b).queue ++ [nativeRecord s b w] })

theorem exec_nativeErase {s t : State} {b : BayId} (h : nativeEraseStep s b = t) :
    exec (.nativeEraseIssue b) s = .next t := h ▸ rfl

/-- The effects of an issue, behind which the zones are reported (R49, R94). -/
theorem changeAllZones_keeps (s : State) (b : BayId) (f : ZoneEntry → ZoneEntry) (c : BayId) :
    (changeAllZones s b f).list c = s.list c ∧ (changeAllZones s b f).toDrive = s.toDrive ∧
    (changeAllZones s b f).port c = s.port c ∧ (changeAllZones s b f).slots = s.slots ∧
    (changeAllZones s b f).context c = s.context c := by
  rw [changeAllZones_frame]
  exact ⟨rfl, rfl, rfl, rfl, rfl⟩

theorem issueNativeErase_zone {s : State} {b : BayId} {i : Nat} (j : JobId) (w : WalkContext)
    (hi : i < (s.map b).entries.length) : (issueNativeErase s b j w).zone b i = nativeIssued (s.zone b i) :=
  changeAllZones_zone (s := nativeIssuing s b j w) nativeIssued hi

section
variable {s : State} {b : BayId} {j : JobId} {w : WalkContext} (ha : activeJob s b = some j) (hw : s.context b = some w)
  (hk : w.kind = .nativeErase) (hr : (s.port b).state = .ready) (hst : stalled s b = false)
include ha hw hk hr hst

theorem nativeEraseStep_issues (hl : s.list b = []) (hs : (s.job j).state = .running)
    (hu : (s.job j).unitActive = true) (he : w.unitEnd = some (passEnd s (s.job j) w))
    (hc : w.cursor ≠ passEnd s (s.job j) w) : nativeEraseStep s b = issueNativeErase s b j w := by
  rw [nativeEraseStep_eq ha hw hk hr hst, hl]
  refine if_pos ⟨hs, hu, ?_⟩
  unfold unitHasWork
  rw [hk]
  exact decide_eq_true ⟨he, hc⟩

theorem nativeEraseStep_reissues {e : Entry} {rest : List Entry} (hl : s.list b = e :: rest)
    (hd : e.status = .doneError) (hn : e.attempt ≤ w.retryLimit)
    (hs : (s.job j).state = .running ∨ ∃ q, (s.job j).state = .draining q) :
    nativeEraseStep s b = reissueNativeErase s b w e := by
  have hrd : (s.job j).state.runningOrDraining = true := by
    rcases hs with h | ⟨q, h⟩ <;> rw [h] <;> rfl
  rw [nativeEraseStep_eq ha hw hk hr hst, hl]
  exact if_pos (by simp [awaitsReissue, hd, hn, hrd])
end

/-- The reissued entry keeps its place in the list (R51). -/
theorem reissueNativeErase_list {s : State} {b : BayId} {w : WalkContext} {e : Entry} {rest : List Entry}
    (hl : s.list b = e :: rest) (hn : ∀ q ∈ rest, q.request ≠ e.request) :
    (reissueNativeErase s b w e).list b =
      { e with request := s.nextRequest, attempt := e.attempt + 1, status := .issued } :: rest := by
  unfold reissueNativeErase
  dsimp only
  rw [(changeAllZones_keeps ..).1]
  unfold updateEntry
  rw [State.putList_list_same, show (sendNativeErase s b w).list b = s.list b from rfl, hl, List.map_cons, if_pos rfl]
  congr 1
  refine (List.map_congr_left fun q hq => ?_).trans (List.map_id _)
  exact if_neg (hn q hq)

/-! ### Completion -/

/-- A list of one entry, marked by the completion of its request (R43). -/
theorem markedList_one {s : State} {b : BayId} {r : Record} {e : Entry} (hl : s.list b = [e]) (he : e.request = r.id)
    (good : Bool) : markedList s b r good = [{ e with
      slot := none, status := if good then .doneGood else .doneError
      mismatched := recordedMismatches s r.slot good }] := by
  unfold markedList
  rw [hl]
  simp [he]

section
variable {s : State} {b : BayId} {j : JobId} {w : WalkContext} {r : Record} {e : Entry}
  (ha : activeJob s b = some j) (hw : s.context b = some w)
  (hs : (s.job j).state = .running ∨ ∃ q, (s.job j).state = .draining q)
  (hl : s.list b = [e]) (he : e.request = r.id) (hk : e.kind = .nativeErase)
include ha hw hl he hk

/-- The state in which a GOOD native erase has turned its zones, and what follows its retirement is still to come
(R50, R94). -/
def nativeErased (s : State) (b : BayId) (j : JobId) (w : WalkContext) (r : Record) (e : Entry) : State :=
  refreshProgress (changeAllZones (((marking s b r true).putList b []).modJob j (addTotals true
    { e with slot := none, status := .doneGood, mismatched := recordedMismatches s r.slot true })) b
    (nativeRetired w.pass)) j w

theorem completeEntry_native_good :
    completeEntry s b r true = afterRetirement (nativeErased s b j w r e) j := by
  have hm := markedList_one hl he true
  have hj : activeJob (marking s b r true) b = some j := ha
  have hc : (marking s b r true).context b = some w := hw
  have hf : nativeHeadFailed (marking s b r true) b = false := by
    unfold nativeHeadFailed
    rw [marking_list, hm, hc]
    simp [entryFailed]
  rw [completeEntry_eq, hf, hm]
  dsimp only [List.length]
  unfold retireAll
  rw [marking_list, hm, hj, hc]
  simp only [retireAll, retireHead, retireZone, hk]
  rfl

include hs in
theorem nativeErased_goes : RunGoes b j (nativeErased s b j w r e) (completeEntry s b r true) := by
  rw [completeEntry_native_good ha hw hl he hk]
  have hj : ((nativeErased s b j w r e).job j).bay = (s.job j).bay ∧
      ((nativeErased s b j w r e).job j).state = (s.job j).state := by
    unfold nativeErased refreshProgress
    rw [State.modJob_job_same, changeAllZones_job, State.modJob_job_same]
    exact ⟨rfl, rfl⟩
  refine runGoes_afterRetirement (hj.1.trans (activeJob_spec ha).2) ?_
  rw [hj.2]
  exact JobState.active_of_running hs

omit ha hw hl he hk in
theorem nativeErased_list : (nativeErased s b j w r e).list b = [] := by
  unfold nativeErased refreshProgress
  rw [State.modJob_list, (changeAllZones_keeps ..).1, State.modJob_list, State.putList_list_same]

omit ha hw hl he hk in
theorem nativeErased_zone {i : Nat} (hi : i < (s.map b).entries.length) :
    (nativeErased s b j w r e).zone b i = nativeRetired w.pass (s.zone b i) := by
  unfold nativeErased refreshProgress
  exact changeAllZones_zone (s := ((marking s b r true).putList b []).modJob j _) (nativeRetired w.pass) hi

omit hk in
/-- A failed native erase with retries left stands and awaits its reissue (R43, R51). -/
theorem completeEntry_native_retries (hn : e.attempt ≤ w.retryLimit) :
    completeEntry s b r false = marking s b r false := by
  have hm := markedList_one hl he false
  have hj : activeJob (marking s b r false) b = some j := ha
  have hc : (marking s b r false).context b = some w := hw
  have hf : nativeHeadFailed (marking s b r false) b = false := by
    unfold nativeHeadFailed
    rw [marking_list, hm, hc]
    simp [entryFailed, hn]
  rw [completeEntry_eq, hf, hm]
  dsimp only [List.length]
  unfold retireAll
  rw [marking_list, hm, hj, hc]
  simp [entryFailed, hn]

omit hk in
theorem native_retries (hn : e.attempt ≤ w.retryLimit) :
    (completeEntry s b r false).list b = [{ e with status := .doneError, slot := none, mismatched := 0 }] ∧
      (completeEntry s b r false).jobs = s.jobs := by
  rw [completeEntry_native_retries ha hw hl he hn, marking_list, markedList_one hl he]
  cases r.slot <;> simp [recordedMismatches] <;> rfl

include hs in
/-- With its retries spent it is abandoned, and its job takes the event (R51). -/
theorem completeEntry_native_spent (hn : w.retryLimit < e.attempt) (hz : e.zone = none) :
    completeEntry s b r false =
      haltOrRetarget ((recordResume (marking s b r false) j).putList b []) j .nativeEraseFailed := by
  have hm := markedList_one hl he false
  have hf : nativeHeadFailed (marking s b r false) b = true := by
    unfold nativeHeadFailed
    rw [marking_list, hm, show (marking s b r false).context b = some w from hw]
    simp [entryFailed, hn, hk]
  rw [completeEntry_eq, hf]
  exact nativeEraseFailed_eq ha hs ((marking_list ..).trans hm) hz rfl

include hs in
theorem native_spent (hn : w.retryLimit < e.attempt) (hz : e.zone = none) :
    let x := s.job j
    let t := completeEntry s b r false
    t.list b = [] ∧ t.job j = jobAfterLoss .nativeEraseFailed x ∧
      (x.state = .running ∨ x.state = .draining .paused → kindPresent (t.attentionOf b) .jobHalted = true ∧
        t.context b = some { w with resumeCursor := some (restartAt s x w) }) ∧
      (∀ o, x.state = .draining (.finishing o) → t.context b = none ∧ { slot := j, record := none } ∈ t.building) ∧
      ∀ i, t.zone b i = s.zone b i := by
  dsimp only
  have hb := (activeJob_spec ha).2
  rw [completeEntry_native_spent ha hw hs hl he hk hn hz]
  have hrestart : restartAt (marking s b r false) (s.job j) w = restartAt s (s.job j) w := by
    unfold restartAt
    rw [hb, marking_list, markedList_one hl he, hl]
    rfl
  have hc : ((recordResume (marking s b r false) j).putList b []).context b =
      some { w with resumeCursor := some (restartAt s (s.job j) w) } := by
    rw [State.putList_context, recordResume_eq]
    change ((marking s b r false).putContext (s.job j).bay _).context b = _
    rw [hb, State.putContext_context_same]
    rw [show (marking s b r false).job j = s.job j from rfl, hb,
      show (marking s b r false).context b = some w from hw, ← hrestart]
    rfl
  have hjob : ((recordResume (marking s b r false) j).putList b []).job j = s.job j := by rw [recordResume_eq]; rfl
  have hmap : ((recordResume (marking s b r false) j).putList b []).map b = s.map b := by rw [recordResume_eq]; rfl
  have k := stopped_haltOrRetarget (s := (recordResume (marking s b r false) j).putList b []) (by rw [hjob]; exact hb)
    (State.putList_list_same ..) (by rw [hjob]; exact hs) .nativeEraseFailed
  have hlist : ((recordResume (marking s b r false) j).putList b []).list b = [] := State.putList_list_same ..
  generalize (recordResume (marking s b r false) j).putList b [] = m at *
  obtain ⟨hk, hjt, hh, hf⟩ := k
  rw [hjob, hc] at hh
  rw [hjob] at hf hjt
  refine ⟨?_, hjt, hh, hf, fun i => ?_⟩
  · unfold State.list
    rw [hk.goes.frame.inFlight]
    exact hlist
  · unfold State.zone
    rw [hk.map, hmap]
end

/-- Settles O49: each command is one equation of the step, and the zones turn by one map over all of them. -/
theorem nativeEraseIsOneRequest : Obligations.NativeEraseIsOneRequest := by
  intro s b j w ha hw hk
  refine ⟨fun hl hd => exec_nativeErase (nativeEraseStep_standing ha hw hk hl hd),
    fun h => exec_nativeErase (nativeEraseStep_closed h), fun hr hst => ⟨fun hl hs hu he hc => ?_, ?_⟩, ?_⟩
  · refine ⟨_, exec_nativeErase (nativeEraseStep_issues ha hw hk hr hst hl hs hu he hc), ?_⟩
    obtain ⟨h1, h2, h3, h4, h5⟩ := changeAllZones_keeps (nativeIssuing s b j w) b nativeIssued b
    refine ⟨h1.trans (State.putList_list_same ..), h2, ?_, h4, ?_, fun i hi => ?_⟩
    · exact (congrArg BayPort.queue h3).trans (sendNativeErase_queue s b w)
    · exact (congrArg (Option.map WalkContext.cursor) h5).trans (by
        unfold nativeIssuing; rw [State.putContext_context_same]; rfl)
    · rw [issueNativeErase_zone j w hi]
      exact nativeIssued_touchable (s.zone b i)
  · intro e rest hl hd hn hs hq
    refine ⟨_, exec_nativeErase (nativeEraseStep_reissues ha hw hk hr hst hl hd hn hs), reissueNativeErase_list hl hq, ?_⟩
    obtain ⟨_, h2, _, h4, _⟩ := changeAllZones_keeps (updateEntry (sendNativeErase s b w) b e.request fun e =>
      { e with request := s.nextRequest, attempt := e.attempt + 1, status := .issued }) b nativeIssued b
    exact ⟨h2, h4⟩
  · intro id r e d hf hlink hl he hek hz hs
    have hid := findRecord_id hf
    have her : e.request = r.id := he.trans hid.symm
    have spent := native_spent ha hw hs hl her hek (hz := hz)
    have retries := native_retries ha hw hl her
    refine ⟨⟨_, exec_entry_completion hf hlink .good d, ?_, fun i hi => ?_⟩, fun status hg => ?_, fun hab => ?_⟩
    · have g := nativeErased_goes ha hw hs hl her hek
      unfold State.list
      rw [decide_eq_true rfl, g.frame.inFlight]
      exact nativeErased_list
    · have g := nativeErased_goes ha hw hs hl her hek
      have hzone := g.frame.zone b i
      rw [nativeErased_zone hi] at hzone
      rw [decide_eq_true rfl, hzone]
      obtain ⟨h1, h2⟩ := nativeRetired_touchable w.pass (s.zone b i)
      exact ⟨fun h => by rw [h1 h]; exact ⟨rfl, rfl⟩, fun h => by rw [h2 h]; exact ⟨rfl, rfl⟩⟩
    · have hc := exec_entry_completion hf hlink status d
      rw [decide_eq_false hg] at hc
      exact ⟨fun hn => ⟨_, hc, retries hn⟩, fun hn => ⟨_, hc, spent hn⟩⟩
    · have hc := exec_entry_confirmation hf hlink hab
      exact ⟨fun hn => ⟨_, hc, retries hn⟩, fun hn => ⟨_, hc, spent hn⟩⟩

end Sys2Proof.Proofs
end

section
/-! What follows a retirement, third part: the state a retirement leaves to the job controller, and which end it takes:
none, the unit's or the pass's (R11, R14, R16, R38, R45). -/

namespace Sys2Proof.Proofs

open Sys2Proof Sys2Proof.Machine Sys2Proof.Safety

/-! ### The state behind a retirement -/

/-- `u` is `s` with entries of job `j` retired under the walk `w`, `rest` left of its list and the job in state `y`: the
totals and the permille are up to date, and nothing has followed yet (R25, R44, R98). -/
structure Retiring (b : BayId) (j : JobId) (w : WalkContext) (y : JobState) (rest : List Entry) (s u : State) : Prop where
  bay : (s.job j).bay = b
  job : u.job j = { s.job j with
    state := y, badZones := (u.job j).badZones, mismatched := (u.job j).mismatched
    failedStripes := (u.job j).failedStripes, permille := (u.job j).permille }
  list : u.list b = rest
  context : u.context b = some w
  tables : u.tables = s.tables
  clock : u.clock = s.clock
  due : SameDue (s.map b) (u.map b)
  length : (u.map b).entries.length = (s.map b).entries.length
  permille : (u.job j).permille = permilleOf u b w
  bad : (u.job j).badZones = badZones (u.map b)

/-- The unit in progress has lost its last stripe (R11, R45). -/
abbrev UnitEnds (s : State) (x : Job) (w : WalkContext) (rest : List Entry) : Prop :=
  rest = [] ∧ x.unitActive = true ∧ unitLeft s x w = false

/-- With the unit the pass ends (R14, R45). -/
abbrev PassEnds (s : State) (x : Job) (w : WalkContext) (rest : List Entry) : Prop :=
  UnitEnds s x w rest ∧ nextStripe s x w = none

/-- A walk of stripes has work left in its unit where Safety.lean says so (R38). -/
theorem unitHasWork_eq {s : State} {x : Job} {w : WalkContext} (hk : w.kind ≠ .nativeErase) :
    unitHasWork s x w = unitLeft s x w := by
  have h : (unitStripe s x w).isSome = unitLeft s x w := by
    unfold unitStripe unitLeft beforeUnitEnd
    cases w.unitEnd <;> cases nextStripe s x w <;> cases w.direction <;> simp
    all_goals split <;> simp_all
  unfold unitHasWork
  split
  · next e => exact absurd e hk
  · exact h
  · exact h

/-- A walk of stripes has work left in its pass where it has a next stripe (R35). -/
theorem passHasWork_eq {s : State} {x : Job} {w : WalkContext} (hk : w.kind ≠ .nativeErase) :
    passHasWork s x w = (nextStripe s x w).isSome := by
  unfold passHasWork
  split
  · next e => exact absurd e hk
  · rfl
  · rfl

section
variable {b : BayId} {j : JobId} {w : WalkContext} {y : JobState} {rest : List Entry} {s u : State}
  (h : Retiring b j w y rest s u)
include h

theorem Retiring.sameWalk : SameWalk (s.job j) (u.job j) := by rw [h.job]; exact {}

theorem Retiring.jobBay : (u.job j).bay = b := h.sameWalk.bay.trans h.bay

theorem Retiring.state : (u.job j).state = y := by rw [h.job]

theorem Retiring.latch : (u.job j).latch = (s.job j).latch := by rw [h.job]

theorem Retiring.unitActive : (u.job j).unitActive = (s.job j).unitActive := by rw [h.job]

theorem Retiring.program : u.program (u.job j).program = s.program (s.job j).program := by
  rw [h.job]; unfold State.program; rw [h.tables]

theorem Retiring.sameDue : SameDue (s.map (s.job j).bay) (u.map (s.job j).bay) := by rw [h.bay]; exact h.due

theorem Retiring.next_eq (v : WalkContext) : nextStripe u (u.job j) v = nextStripe s (s.job j) v :=
  nextStripe_congr h.tables h.sameWalk h.sameDue v

theorem Retiring.left_eq (v : WalkContext) : unitLeft u (u.job j) v = unitLeft s (s.job j) v :=
  unitLeft_congr h.tables h.sameWalk h.sameDue v

/-- The list, the flag and the walk decide whether the unit is complete (R45). -/
theorem Retiring.judge_eq (hk : w.kind ≠ .nativeErase) : judgeUnit u j =
    if UnitEnds s (s.job j) w rest then completeUnit u j else u := by
  unfold judgeUnit
  dsimp only
  rw [h.jobBay, h.context]
  dsimp only
  rw [h.list, unitHasWork_eq hk, h.left_eq, h.unitActive]
  simp only [Bool.and_eq_true, Bool.not_eq_true', List.isEmpty_iff]
  exact if_congr (by tauto) rfl rfl

theorem Retiring.behind_eq (hk : w.kind ≠ .nativeErase) : afterRetirement u j =
    settled (if UnitEnds s (s.job j) w rest then completeUnit u j else u) j := by
  rw [afterRetirement_eq, h.judge_eq hk]

theorem Retiring.closed_context : (unitClosed u j).context b = some { w with unitEnd := none } := by
  unfold unitClosed
  rw [h.jobBay, State.putContext_context_same, h.context]
  rfl

theorem Retiring.closed_list : (unitClosed u j).list b = rest := h.list

/-- The pass has work behind the unit's end where a stripe is left to issue (R35, R45). -/
theorem Retiring.closed_work (hk : w.kind ≠ .nativeErase) :
    jobPassHasWork (unitClosed u j) j = (nextStripe s (s.job j) w).isSome := by
  have hj : ((unitClosed u j).job j).bay = b := by rw [unitClosed_job]; exact h.jobBay
  have hn : nextStripe (unitClosed u j) ((unitClosed u j).job j) { w with unitEnd := none } =
      nextStripe u (u.job j) { w with unitEnd := none } :=
    nextStripe_congr (s := u) (x := u.job j) rfl (by rw [unitClosed_job]; exact {}) {} _
  unfold jobPassHasWork
  rw [hj, h.closed_context]
  dsimp only
  rw [passHasWork_eq (w := { w with unitEnd := none }) hk, hn, nextStripe_unit, h.next_eq]

/-! ### The five ends -/

variable (hk : w.kind ≠ .nativeErase)
include hk

/-- Nothing ends. -/
theorem Retiring.stands (hn : ¬ UnitEnds s (s.job j) w rest) : afterRetirement u j = settled u j := by
  rw [h.behind_eq hk, if_neg hn]

/-- A RUNNING unit ends and the latch begins the next one (R11). -/
theorem Retiring.nextUnit (hu : UnitEnds s (s.job j) w rest) (hn : nextStripe s (s.job j) w ≠ none) (hy : y = .running)
    (hl : (s.job j).latch = true) :
    afterRetirement u j = settled (beginUnit (clearLatch (unitClosed u j) j) j) j := by
  rw [h.behind_eq hk, if_pos hu, completeUnit_eq, h.state, hy]
  dsimp only
  rw [h.closed_work hk, if_pos (Option.isSome_iff_ne_none.mpr hn), if_pos (h.latch.trans hl)]

/-- A RUNNING unit ends and a trigger is waited for (R11). -/
theorem Retiring.awaits (hu : UnitEnds s (s.job j) w rest) (hn : nextStripe s (s.job j) w ≠ none) (hy : y = .running)
    (hl : (s.job j).latch = false) :
    afterRetirement u j = settled (setState (unitClosed u j) j .waitingTrigger) j := by
  rw [h.behind_eq hk, if_pos hu, completeUnit_eq, h.state, hy]
  dsimp only
  rw [h.closed_work hk, if_pos (Option.isSome_iff_ne_none.mpr hn), if_neg (by rw [h.latch, hl]; nofun)]

/-- A RUNNING pass ends (R14). -/
theorem Retiring.nextPass (hp : PassEnds s (s.job j) w rest) (hy : y = .running) :
    afterRetirement u j = settled (followPass (recordPassEnd (unitClosed u j) j) j) j := by
  obtain ⟨hu, hn⟩ := hp
  rw [h.behind_eq hk, if_pos hu, completeUnit_eq, h.state, hy]
  dsimp only
  rw [h.closed_work hk, hn]
  rfl

/-- A DRAINING unit ends (R16). -/
theorem Retiring.drainsUnit (hu : UnitEnds s (s.job j) w rest) (hn : nextStripe s (s.job j) w ≠ none) {q : DrainTarget}
    (hy : y = .draining q) : afterRetirement u j = settled (unitClosed u j) j := by
  rw [h.behind_eq hk, if_pos hu, completeUnit_eq, h.state, hy]
  dsimp only
  rw [h.closed_work hk, if_pos (Option.isSome_iff_ne_none.mpr hn)]

/-- A DRAINING pass ends (R16). -/
theorem Retiring.drainsPass (hp : PassEnds s (s.job j) w rest) {q : DrainTarget} (hy : y = .draining q) :
    afterRetirement u j = settled (passEndWhileDraining (unitClosed u j) j q) j := by
  obtain ⟨hu, hn⟩ := hp
  rw [h.behind_eq hk, if_pos hu, completeUnit_eq, h.state, hy]
  dsimp only
  rw [h.closed_work hk, hn]
  rfl
end

end Sys2Proof.Proofs
end

section
/-! What follows a retirement, fourth part: nothing ends, or the unit of a RUNNING job does (R11, R17, R21, R25). -/

namespace Sys2Proof.Proofs

open Sys2Proof Sys2Proof.Machine Sys2Proof.Safety

/-! ### What the ends of a unit keep -/

section
variable {b : BayId} {j : JobId} {s : State} (hb : (s.job j).bay = b) (ha : (s.job j).state.active = true)
include hb ha

theorem kept_unitClosed : Kept b j s (unitClosed s j) :=
  ⟨runGoes_unitClosed hb ha, by rw [unitClosed_job], fun _ => rfl⟩

theorem kept_clearLatch : Kept b j s (clearLatch s j) :=
  ⟨runGoes_clearLatch hb ha, by rw [clearLatch_job], fun _ => rfl⟩

theorem kept_beginUnit : Kept b j s (beginUnit s j) :=
  ⟨runGoes_beginUnit hb ha, by rw [beginUnit_job_same], fun _ => by rw [beginUnit_frame]; rfl⟩
end

theorem permilleOf_congr {s t : State} {b : BayId} (h : t.map b = s.map b) (w : WalkContext) :
    permilleOf t b w = permilleOf s b w := by
  unfold permilleOf State.zone; rw [h]

section
variable {b : BayId} {j : JobId} {w : WalkContext} {y : JobState} {rest : List Entry} {s u : State}
  (h : Retiring b j w y rest s u) (hk : w.kind ≠ .nativeErase)
include h

theorem Retiring.active (hy : y = .running ∨ ∃ q, y = .draining q) : (u.job j).state.active = true := by
  rw [h.state]; exact JobState.active_of_running hy

/-- The bad zones are compared with the tolerance of the job as it was (R21). -/
theorem Retiring.exceeds_iff (hy : y = .running ∨ ∃ q, y = .draining q) :
    (s.job j).tolerance < ((afterRetirement u j).job j).badZones ↔ (u.job j).tolerance < (u.job j).badZones := by
  have f := (runGoes_afterRetirement h.jobBay (h.active hy)).frame.job
  have hb := congrArg Job.badZones f
  have ht : (u.job j).tolerance = (s.job j).tolerance := by rw [h.job]
  rw [hb, ht]

include hk

/-- Where the pass does not end, its progress, its index and its end times stand (R14, R25). -/
theorem Retiring.kept (hy : y = .running ∨ ∃ q, y = .draining q) (hn : ¬ PassEnds s (s.job j) w rest) :
    Kept b j u (afterRetirement u j) := by
  have ha := h.active hy
  have hb := h.jobBay
  by_cases hu : UnitEnds s (s.job j) w rest
  · have hw : nextStripe s (s.job j) w ≠ none := fun e => hn ⟨hu, e⟩
    have k := kept_unitClosed hb ha
    have settles {v : State} (kv : Kept b j u v) : Kept b j u (settled v j) :=
      kv.trans (kept_settled (kv.goes.bay hb) kv.goes.active)
    rcases hy with hy | ⟨q, hy⟩
    · cases hl : (s.job j).latch with
      | true =>
        rw [h.nextUnit hk hu hw hy hl]
        have k1 := k.trans (kept_clearLatch (k.goes.bay hb) k.goes.active)
        exact settles (k1.trans (kept_beginUnit (k1.goes.bay hb) k1.goes.active))
      | false =>
        rw [h.awaits hk hu hw hy hl]
        exact settles (k.trans (kept_setState (k.goes.bay hb) k.goes.active rfl nofun))
    · rw [h.drainsUnit hk hu hw hy]
      exact settles k
  · rw [h.stands hk hu]
    exact kept_settled hb ha

/-- The progress of a pass that has not ended (R25). -/
theorem Retiring.progress (hy : y = .running ∨ ∃ q, y = .draining q) (hn : ¬ PassEnds s (s.job j) w rest) :
    let x := s.job j
    let t := afterRetirement u j
    (t.job j).permille = permilleOf t b w ∧ (t.job j).passEnds = x.passEnds ∧
      (t.job j).passComplete = x.passComplete ∧ (t.job j).passIndex = x.passIndex := by
  have k := h.kept hk hy hn
  dsimp only
  rw [k.job, permilleOf_congr (k.map b)]
  refine ⟨h.permille, ?_, ?_, ?_⟩ <;> rw [h.job]

/-- A RUNNING job with its unit in progress is compared with its tolerance (R17, R21). -/
theorem Retiring.running (hy : y = .running) (hn : ¬ UnitEnds s (s.job j) w rest) :
    let x := s.job j
    let t := afterRetirement u j
    let exceeds := x.tolerance < (t.job j).badZones
    (¬ exceeds → (t.job j).state = .running ∧ (t.job j).unitActive = x.unitActive ∧ (t.job j).latch = x.latch ∧
      t.context b = some w) ∧
    (exceeds → rest ≠ [] → (t.job j).state = rejecting ∧ (t.job j).latch = x.latch ∧ t.context b = some w) ∧
    (exceeds → rest = [] → Finishes b j .rejected t) := by
  have hx := h.exceeds_iff (.inl hy)
  have hs := h.state.trans hy
  have hl : u.list (u.job j).bay = rest := by rw [h.jobBay, h.list]
  dsimp only
  rw [hx, h.stands hk hn]
  refine ⟨fun he => ?_, fun he hr => ?_, fun he hr => ?_⟩
  · rw [settled_running hs he]
    exact ⟨hs, h.unitActive, h.latch, h.context⟩
  · rw [settled_running_exceeds hs he (hl ▸ hr), job_setState_same]
    exact ⟨rfl, h.latch, (changeJob_context ..).trans h.context⟩
  · rw [settled_running_exceeds_empty hs he (hl.trans hr)]
    exact finishes_enterFinishing (by rw [job_setState_same]; exact h.jobBay) _

omit hk in
/-- The next unit that a latch begins has the unit end of its grain (R11, R38). -/
theorem Retiring.unitBegun (ha : (u.job j).state.active = true) :
    let v := beginUnit (clearLatch (unitClosed u j) j) j
    v.job j = { u.job j with unitActive := true, latch := false } ∧ v.list b = rest ∧
      v.context b = some { w with unitEnd := unitEndNow s (s.job j) w } := by
  have k := kept_unitClosed h.jobBay ha
  have k := k.trans (kept_clearLatch (k.goes.bay h.jobBay) k.goes.active)
  have hj : (clearLatch (unitClosed u j) j).job j = { u.job j with unitActive := false, latch := false } := by
    rw [clearLatch_job, unitClosed_job]
  have hw : (clearLatch (unitClosed u j) j).context b = some { w with unitEnd := none } := h.closed_context
  have hl : (clearLatch (unitClosed u j) j).list b = rest := h.list
  generalize clearLatch (unitClosed u j) j = v at *
  have f := k.goes.frame
  have he := unitEndNow_congr f.tables f.sameWalk (f.sameDue _) { w with unitEnd := none }
  have he' := unitEndNow_congr h.tables h.sameWalk h.sameDue { w with unitEnd := none }
  have hn : unitEndNow s (s.job j) { w with unitEnd := none } = unitEndNow s (s.job j) w := by
    unfold unitEndNow; rw [nextStripe_unit]
  have hc := beginUnit_context_same v j
  rw [k.goes.bay h.jobBay, hw] at hc
  refine ⟨?_, ?_, hc.trans ?_⟩
  · rw [beginUnit_job_same, hj]
  · rw [beginUnit_frame]; exact hl
  · rw [← hn, ← he', ← he]; rfl

/-- A RUNNING unit ends: the tolerance first, else the next unit on the latch, or a trigger is waited for (R11, R21). -/
theorem Retiring.unitEnded (hy : y = .running) (hu : UnitEnds s (s.job j) w rest) (hp : ¬ PassEnds s (s.job j) w rest) :
    let x := s.job j
    let t := afterRetirement u j
    let exceeds := x.tolerance < (t.job j).badZones
    (exceeds → Finishes b j .rejected t) ∧
    (¬ exceeds → x.latch = true → (t.job j).state = .running ∧ (t.job j).latch = false ∧
      (t.job j).unitActive = true ∧ t.context b = some { w with unitEnd := unitEndNow s x w }) ∧
    (¬ exceeds → x.latch = false → (t.job j).state = .waitingTrigger ∧ (t.job j).latch = false ∧
      (t.job j).unitActive = false ∧ t.context b = some { w with unitEnd := none }) := by
  have hx := h.exceeds_iff (.inl hy)
  have hs := h.state.trans hy
  have hw : nextStripe s (s.job j) w ≠ none := fun e => hp ⟨hu, e⟩
  dsimp only
  rw [hx]
  cases hl : (s.job j).latch with
  | true =>
    rw [h.nextUnit hk hu hw hy hl]
    obtain ⟨hv, hlist, hbegun⟩ := h.unitBegun (h.active (.inl hy))
    rw [hu.1] at hlist
    generalize beginUnit (clearLatch (unitClosed u j) j) j = v at *
    have hvs : (v.job j).state = .running := by rw [hv]; exact hs
    have hvx : (v.job j).tolerance < (v.job j).badZones ↔ (u.job j).tolerance < (u.job j).badZones := by rw [hv]
    have hvb : (v.job j).bay = b := by rw [hv]; exact h.jobBay
    refine ⟨fun he => ?_, fun he _ => ?_, fun _ => nofun⟩
    · rw [settled_running_exceeds_empty hvs (hvx.mpr he) (by rw [hvb]; exact hlist)]
      exact finishes_enterFinishing (by rw [job_setState_same]; exact hvb) _
    · rw [settled_running hvs fun k => he (hvx.mp k)]
      refine ⟨hvs, ?_, ?_, hbegun⟩ <;> rw [hv]
  | false =>
    rw [h.awaits hk hu hw hy hl]
    have hv := job_setState_same (unitClosed u j) j .waitingTrigger
    rw [unitClosed_job] at hv
    have hc : (setState (unitClosed u j) j .waitingTrigger).context b = some { w with unitEnd := none } :=
      (changeJob_context ..).trans h.closed_context
    generalize setState (unitClosed u j) j .waitingTrigger = v at *
    have hvs : (v.job j).state = .waitingTrigger := by rw [hv]
    have hvx : (v.job j).tolerance < (v.job j).badZones ↔ (u.job j).tolerance < (u.job j).badZones := by rw [hv]
    refine ⟨fun he => ?_, fun _ => nofun, fun he _ => ?_⟩
    · rw [settled_waiting_exceeds hvs (hvx.mpr he)]
      exact finishes_enterFinishing (by rw [hv]; exact h.jobBay) _
    · rw [settled_waiting hvs fun k => he (hvx.mp k)]
      refine ⟨hvs, ?_, ?_, hc⟩ <;> rw [hv]
      exact h.latch.trans hl
end

end Sys2Proof.Proofs
end

section
/-! What follows a retirement, fifth part: the pass of a RUNNING job ends (R14, R17, R21, R22, R45). -/

namespace Sys2Proof.Proofs

open Sys2Proof Sys2Proof.Machine Sys2Proof.Safety

/-! ### What follows a pass -/

/-- The current pass is the last of its program (R14). -/
abbrev LastPass (s : State) (x : Job) : Prop := (s.program x.program).length ≤ x.passIndex + 1

/-- The next pass follows the current one of itself (R14). -/
abbrev autoChained (s : State) (x : Job) : Bool :=
  ((s.program x.program)[x.passIndex]?).any fun p => decide (chainOfPass p = .auto)

theorem passSuccessor_eq (s : State) (x : Job) : passSuccessor s x =
    if LastPass s x then .finish
    else if autoChained s x = true then .begin
    else if x.latch = true then .beginOnLatch else .wait := by
  unfold passSuccessor lastPass currentChain
  by_cases hl : LastPass s x
  · rw [if_pos hl, if_pos (decide_eq_true hl)]
  · rw [if_neg hl, if_neg (by simpa using hl)]
    unfold autoChained
    cases (s.program x.program)[x.passIndex]? with
    | none => rfl
    | some p => cases hc : chainOfPass p <;> simp [hc]

/-- The pass that begins behind the current one, and the latch it leaves (R12, R14). -/
def latchUsed (s : State) (j : JobId) : State := if autoChained s (s.job j) then s else clearLatch s j

theorem latchUsed_job (s : State) (j : JobId) : (latchUsed s j).job j = { s.job j with
    latch := if autoChained s (s.job j) = true then (s.job j).latch else false } := by
  unfold latchUsed
  split
  · rfl
  · rw [clearLatch_job]

theorem followPass_last {s : State} {j : JobId} (h : LastPass s (s.job j)) :
    followPass s j = enterFinishing s j (outcomeOf (s.map (s.job j).bay).entries) := by
  unfold followPass
  rw [passSuccessor_eq, if_pos h, ← decideOutcome_eq]

theorem followPass_waits {s : State} {j : JobId} (h : ¬ LastPass s (s.job j)) (ha : autoChained s (s.job j) = false)
    (hl : (s.job j).latch = false) : followPass s j = setState s j .waitingTrigger := by
  unfold followPass
  rw [passSuccessor_eq, if_neg h, if_neg (by simp [ha]), if_neg (by simp [hl])]

theorem followPass_begins {s : State} {j : JobId} (h : ¬ LastPass s (s.job j))
    (ha : autoChained s (s.job j) = true ∨ (s.job j).latch = true) :
    followPass s j = beginPass passBound (latchUsed s j) j ((s.job j).passIndex + 1) := by
  unfold followPass latchUsed
  rw [passSuccessor_eq, if_neg h]
  by_cases hc : autoChained s (s.job j) = true
  · rw [if_pos hc, if_pos hc]
  · rw [if_neg hc, if_pos (ha.resolve_left hc), if_neg hc]

/-- A pass that begins without work has its end recorded, whatever passes follow it (R45). -/
theorem passEnds_beginPass {b : BayId} {s : State} {j : JobId} {i : Nat} {p : PassImage} (n : Nat)
    (hb : (s.job j).bay = b) (hs : (s.job j).state = .running) (hp : (s.program (s.job j).program)[i]? = some p)
    (hw : passHasWork s (s.job j) (contextOfPass s (s.job j) i p) = false) (hi : i < (s.job j).passEnds.length)
    (hn : (s.program (s.job j).program).length ≤ i + (n + 1)) :
    ((beginPass (n + 1) s j i).job j).passEnds[i]? = some (some s.clock) := by
  have hlt : i < (s.program (s.job j).program).length := (List.getElem?_eq_some_iff.mp hp).1
  have hj := passedOver_job (s := s) (j := j) hlt
  have hset : ((passedOver s j i).job j).passEnds[i]? = some (some s.clock) := by
    rw [hj]; exact List.getElem?_set_self hi
  have k := passing_passedOver hb hs hlt
  unfold beginPass
  dsimp only
  rw [if_neg (by rw [jobPassHasWork_startPass hb hp, hw]; nofun)]
  rw [show recordPassEnd (startPass s j i) j = passedOver s j i from rfl]
  have later : ∀ {v}, Passing b j i s v → (v.job j).passEnds = ((passedOver s j i).job j).passEnds →
      i + 1 < (s.program (s.job j).program).length →
      ((beginPass n v j (i + 1)).job j).passEnds[i]? = some (some s.clock) := fun {v} hv he hl => by
    have q := passBegun_beginPass n hv.bay hv.state (i := i + 1) (by rw [hv.frame.program]; exact hl)
      (by rw [hv.frame.program]; omega)
    rw [q.ends i (by omega), he, hset]
  have follows : passSuccessor (passedOver s j i) ((passedOver s j i).job j) ≠ .finish →
      i + 1 < (s.program (s.job j).program).length := fun h => by
    have := lt_of_passSuccessor h
    rwa [k.frame.program, k.index] at this
  split
  · rw [enterFinishing_job]; exact hset
  · next h => exact later k rfl (follows (by rw [h]; nofun))
  · next h => exact later k.clearLatch (by rw [clearLatch_job]) (follows (by rw [h]; nofun))
  · rw [job_setState_same]; exact hset

/-! ### The comparison behind a pass -/

/-- A bad zone makes the outcome of a run REJECTED (R22). -/
theorem outcomeOf_bad {m : CoverageMap} (h : badZones m ≠ 0) : outcomeOf m.entries = .rejected := by
  have hne : (m.entries.filter fun z => z.state.bad) ≠ [] := fun e => h (by unfold badZones; rw [e]; rfl)
  obtain ⟨z, hz⟩ := List.exists_mem_of_ne_nil _ hne
  obtain ⟨hm, hbad⟩ := List.mem_filter.mp hz
  have hs : z.state = .failed ∨ z.state = .mismatched := by
    cases hst : z.state <;> rw [hst] at hbad <;> simp [ZoneState.bad] at hbad ⊢
  unfold outcomeOf
  rw [if_neg fun hall => ?_, if_pos ⟨z, hm, hs⟩]
  rcases hall z hm with e | e <;> rcases hs with k | k <;> rw [e] at k <;> nomatch k

/-- A job behind a pass: it runs, it waits, or its program has ended with the outcome of its zones. -/
abbrev PassFollowed (b : BayId) (j : JobId) (v : State) : Prop :=
  (v.job j).state = .running ∨ (v.job j).state = .waitingTrigger ∨ Finishes b j (outcomeOf (v.map b).entries) v

theorem settled_within {b : BayId} {j : JobId} {v : State} (h : PassFollowed b j v)
    (hx : ¬ (v.job j).tolerance < (v.job j).badZones) : settled v j = v := by
  rcases h with h | h | h
  · exact settled_running h hx
  · exact settled_waiting h hx
  · exact settled_finishing h.1

theorem settled_exceeds {b : BayId} {j : JobId} {v : State} (h : PassFollowed b j v) (hb : (v.job j).bay = b)
    (hl : v.list b = []) (hbad : (v.job j).badZones = badZones (v.map b))
    (hx : (v.job j).tolerance < (v.job j).badZones) : Finishes b j .rejected (settled v j) := by
  rcases h with h | h | h
  · rw [settled_running_exceeds_empty h hx (by rw [hb]; exact hl)]
    exact finishes_enterFinishing (by rw [job_setState_same]; exact hb) _
  · rw [settled_waiting_exceeds h hx]
    exact finishes_enterFinishing hb _
  · rw [settled_finishing h.1]
    rw [outcomeOf_bad (by omega)] at h
    exact h

/-- The bad zones of a bay do not depend on the done counts. -/
theorem badZones_withoutDone {m n : CoverageMap} (h : withoutDone n.entries = withoutDone m.entries) :
    badZones n = badZones m := by
  have e : ∀ es : List ZoneEntry, (es.filter fun z => z.state.bad).length =
      ((es.map fun z => z.state.bad).filter id).length :=
    fun es => by rw [List.filter_map, List.length_map]; rfl
  unfold badZones
  rw [e, e, map_congr_done (fun _ => rfl) h]

/-! ### The pass of a RUNNING job ends -/

/-- The state behind a pass that has ended with its last unit (R14). -/
def passClosed (s : State) (j : JobId) : State := recordPassEnd (unitClosed s j) j

theorem passClosed_job (s : State) (j : JobId) : (passClosed s j).job j = { s.job j with
    unitActive := false, passEnds := (s.job j).passEnds.set (s.job j).passIndex (some s.clock), passComplete := true
    permille := 1000 } := by
  unfold passClosed
  rw [recordPassEnd_job, unitClosed_job]
  rfl

theorem passClosed_map (s : State) (j : JobId) (c : BayId) : (passClosed s j).map c = s.map c := by
  unfold passClosed recordPassEnd; rw [raise_map]; rfl

theorem passClosed_context (s : State) (j : JobId) (c : BayId) :
    (passClosed s j).context c = (unitClosed s j).context c := by
  unfold passClosed recordPassEnd; rw [raise_context]; rfl

theorem kindPresent_passClosed (s : State) (j : JobId) :
    kindPresent ((passClosed s j).attentionOf (s.job j).bay) .passDone = true := by
  unfold passClosed recordPassEnd
  rw [unitClosed_job]
  exact kindPresent_raise ..

theorem runGoes_passClosed {b : BayId} {j : JobId} {s : State} (hb : (s.job j).bay = b)
    (ha : (s.job j).state.active = true) : RunGoes b j s (passClosed s j) := by
  have k := runGoes_unitClosed hb ha
  exact k.trans (runGoes_recordPassEnd (k.bay hb) k.active)

section
variable {b : BayId} {j : JobId} {w : WalkContext} {y : JobState} {rest : List Entry} {s u : State}
  (h : Retiring b j w y rest s u)
include h

theorem Retiring.closed_last : LastPass (passClosed u j) ((passClosed u j).job j) ↔ LastPass s (s.job j) := by
  have hp : (passClosed u j).program = u.program := by
    funext p; unfold passClosed recordPassEnd; rw [raise_program]; rfl
  unfold LastPass
  rw [passClosed_job, hp]
  dsimp only
  rw [h.program, show (u.job j).passIndex = (s.job j).passIndex by rw [h.job]]

theorem Retiring.closed_auto : autoChained (passClosed u j) ((passClosed u j).job j) = autoChained s (s.job j) := by
  have hp : (passClosed u j).program = u.program := by
    funext p; unfold passClosed recordPassEnd; rw [raise_program]; rfl
  unfold autoChained
  rw [passClosed_job, hp]
  dsimp only
  rw [h.program, show (u.job j).passIndex = (s.job j).passIndex by rw [h.job]]

theorem Retiring.closed_latch : ((passClosed u j).job j).latch = (s.job j).latch := by
  rw [passClosed_job]; exact h.latch

end

end Sys2Proof.Proofs
end

section
/-! What follows a retirement, sixth part: the pass of a RUNNING job has ended, and the run finishes, goes on or waits
(R14, R21, R22, R45). -/

namespace Sys2Proof.Proofs

open Sys2Proof Sys2Proof.Machine Sys2Proof.Safety

/-- The state `z` behind the end of a RUNNING job's pass, seen from the state `s` before the retirement (R14). -/
structure PassClosed (b : BayId) (j : JobId) (s z : State) : Prop where
  bay : (z.job j).bay = b
  state : (z.job j).state = .running
  index : (z.job j).passIndex = (s.job j).passIndex
  latch : (z.job j).latch = (s.job j).latch
  flag : (z.job j).unitActive = false
  complete : (z.job j).passComplete = true ∧ (z.job j).permille = 1000
  ended : (z.job j).passEnds[(s.job j).passIndex]? = some (some s.clock)
  ends : (z.job j).passEnds.length = (s.job j).passEnds.length
  program : z.program (z.job j).program = s.program (s.job j).program
  name : (z.job j).program = (s.job j).program
  walk : SameWalk (s.job j) (z.job j)
  length : (z.map b).entries.length = (s.map b).entries.length
  list : z.list b = []
  clock : z.clock = s.clock
  last : LastPass z (z.job j) ↔ LastPass s (s.job j)
  auto : autoChained z (z.job j) = autoChained s (s.job j)
  bad : (z.job j).badZones = badZones (z.map b)
  done : kindPresent (z.attentionOf b) .passDone = true

theorem Retiring.closes {b : BayId} {j : JobId} {w : WalkContext} {y : JobState} {rest : List Entry} {s u : State}
    (h : Retiring b j w y rest s u) (hy : y = .running) (hr : rest = [])
    (hi : (s.job j).passIndex < (s.job j).passEnds.length) : PassClosed b j s (passClosed u j) := by
  have hj := passClosed_job u j
  have hp : (s.job j).passEnds = (u.job j).passEnds ∧ (s.job j).passIndex = (u.job j).passIndex := by rw [h.job]; simp
  have k := runGoes_passClosed h.jobBay (h.active (.inl hy))
  have hd := kindPresent_passClosed u j
  have hm := passClosed_map u j b
  have hlast := h.closed_last
  have hauto := h.closed_auto
  have hlatch := h.closed_latch
  rw [h.jobBay] at hd
  generalize passClosed u j = z at *
  refine {
    bay := k.bay h.jobBay
    state := ?_
    index := ?_
    latch := hlatch
    flag := ?_
    complete := ?_
    ended := ?_
    ends := ?_
    program := k.frame.program.trans h.program
    name := ?_
    walk := ?_
    length := by rw [hm, h.length]
    list := (k.frame.list b).trans (h.list.trans hr)
    clock := k.frame.inner.clock.trans h.clock
    last := hlast
    auto := hauto
    bad := ?_
    done := hd }
  · rw [hj]; exact h.state.trans hy
  · rw [hj]; exact hp.2.symm
  · rw [hj]
  · rw [hj]; exact ⟨rfl, rfl⟩
  · rw [hj, ← h.clock, hp.2]
    exact List.getElem?_set_self (by rw [← hp.1, ← hp.2]; exact hi)
  · rw [hj, hp.1]; exact List.length_set
  · rw [hj, h.job]
  · rw [hj, h.job]; exact {}
  · rw [hj, hm]; exact h.bad

/-- What follows a pass of a RUNNING job, before the tolerance is compared (R14). -/
structure Followed (b : BayId) (j : JobId) (s z v : State) : Prop where
  goes : RunGoes b j z v
  follows : PassFollowed b j v
  ended : (v.job j).passEnds[(s.job j).passIndex]? = some (some s.clock)
  same : (v.job j).passIndex = (s.job j).passIndex → (v.job j).passComplete = true ∧ (v.job j).permille = 1000

section
variable {b : BayId} {j : JobId} {s z : State} (h : PassClosed b j s z)
include h

theorem PassClosed.active : (z.job j).state.active = true := by rw [h.state]; rfl

/-- The last pass of a program ends the run (R14, R22). -/
theorem PassClosed.finishes (hl : LastPass s (s.job j)) : Followed b j s z (followPass z j) ∧
    Finishes b j (outcomeOf ((followPass z j).map b).entries) (followPass z j) := by
  have k := kept_enterFinishing h.bay h.active (outcomeOf (z.map (z.job j).bay).entries)
  have f := finishes_enterFinishing h.bay (outcomeOf (z.map (z.job j).bay).entries)
  have hj := enterFinishing_job z j (outcomeOf (z.map (z.job j).bay).entries)
  rw [followPass_last (h.last.mpr hl)]
  generalize enterFinishing z j _ = v at *
  rw [h.bay, ← k.map b] at f
  refine ⟨⟨k.goes, .inr (.inr f), ?_, fun _ => ?_⟩, f⟩ <;> rw [hj]
  · exact h.ended
  · exact h.complete

/-- A program that is not chained waits for a trigger (R14). -/
theorem PassClosed.waits (hl : ¬ LastPass s (s.job j)) (ha : autoChained s (s.job j) = false)
    (hc : (s.job j).latch = false) : Followed b j s z (followPass z j) ∧
    (followPass z j).job j = { z.job j with state := .waitingTrigger } := by
  have e := followPass_waits (mt h.last.mp hl) (h.auto.trans ha) (h.latch.trans hc)
  have hj := job_setState_same z j .waitingTrigger
  rw [e]
  refine ⟨⟨runGoes_setState h.bay h.active rfl nofun, .inr (.inl ?_), ?_, fun _ => ?_⟩, hj⟩ <;> rw [hj]
  · exact h.ended
  · exact h.complete

/-- The state in which the next pass begins (R12, R14). -/
theorem PassClosed.begins (h8 : (s.program (s.job j).program).length ≤ 8) (hl : ¬ LastPass s (s.job j))
    (ha : autoChained s (s.job j) = true ∨ (s.job j).latch = true) :
    followPass z j = beginPass passBound (latchUsed z j) j ((s.job j).passIndex + 1) ∧
    Kept b j z (latchUsed z j) ∧
    PassBegun b j ((s.job j).passIndex + 1) (latchUsed z j) (followPass z j) := by
  have e := followPass_begins (mt h.last.mp hl) (by rw [h.auto, h.latch]; exact ha)
  have k : Kept b j z (latchUsed z j) := by
    unfold latchUsed
    split
    · exact kept_refl h.bay h.active
    · exact kept_clearLatch h.bay h.active
  have hj := latchUsed_job z j
  rw [h.index] at e
  rw [e]
  generalize latchUsed z j = v at *
  have hp : v.program (v.job j).program = s.program (s.job j).program := k.goes.frame.program.trans h.program
  exact ⟨rfl, k, passBegun_beginPass passBound (k.goes.bay h.bay) (by rw [hj]; exact h.state)
    (by rw [hp]; omega) (by rw [hp]; unfold passBound; omega)⟩

/-- What follows a pass, in every case (R14). -/
theorem PassClosed.followed (h8 : (s.program (s.job j).program).length ≤ 8) : Followed b j s z (followPass z j) := by
  by_cases hl : LastPass s (s.job j)
  · exact (h.finishes hl).1
  · by_cases ha : autoChained s (s.job j) = true ∨ (s.job j).latch = true
    · obtain ⟨_, k, p⟩ := h.begins h8 hl ha
      refine ⟨runGoes_followPass h.bay h.active, ?_, ?_, fun e => ?_⟩
      · exact p.outcome.elim (fun o => .inl o.1) fun o => .inr o.2
      · rw [p.ends _ (by omega), k.job]; exact h.ended
      · have := p.least; omega
    · rw [not_or, Bool.not_eq_true, Bool.not_eq_true] at ha
      exact (h.waits hl ha.1 ha.2).1

end

section
variable {b : BayId} {j : JobId} {s z : State} (h : PassClosed b j s z)
  (h8 : (s.program (s.job j).program).length ≤ 8)
include h h8

/-- The job and its bad zones behind what follows the pass. -/
theorem PassClosed.bad_followed : ((followPass z j).job j).bay = b ∧ (followPass z j).list b = [] ∧
    ((followPass z j).job j).badZones = badZones ((followPass z j).map b) := by
  have f := (h.followed h8).goes.frame
  refine ⟨f.bay.trans h.bay, (f.list b).trans h.list, ?_⟩
  rw [badZones_withoutDone (f.withoutDone b), ← h.bad, f.job]

/-- With the tolerance exceeded the run is REJECTED, whatever followed the pass (R17, R21, R22). -/
theorem PassClosed.rejected
    (hx : ((followPass z j).job j).tolerance < ((followPass z j).job j).badZones) :
    Finishes b j .rejected (settled (followPass z j) j) := by
  obtain ⟨hb, hl, hbad⟩ := h.bad_followed h8
  exact settled_exceeds (h.followed h8).follows hb hl hbad hx

variable (hl : ¬ LastPass s (s.job j)) (ha : autoChained s (s.job j) = true ∨ (s.job j).latch = true)
  {p : PassImage} (hp : (s.program (s.job j).program)[(s.job j).passIndex + 1]? = some p)
include hl ha hp

omit h8 hl ha hp in
/-- The next pass has work behind its beginning where it had it before (R35, R49). -/
theorem PassClosed.work_iff {t : State} (f : RunFrame b j (latchUsed z j) t) (k : Kept b j z (latchUsed z j)) :
    (let v := contextOfPass t (s.job j) ((s.job j).passIndex + 1) p
     if v.kind = .nativeErase then v.cursor ≠ passEnd t (s.job j) v else nextStripe t (s.job j) v ≠ none) ↔
    passHasWork (latchUsed z j) ((latchUsed z j).job j)
      (contextOfPass (latchUsed z j) ((latchUsed z j).job j) ((s.job j).passIndex + 1) p) = true := by
  have hj := k.job
  generalize latchUsed z j = v at *
  have hw : SameWalk (v.job j) (s.job j) := by
    have e := h.walk
    rw [hj]
    exact ⟨e.bay.symm, e.first.symm, e.count.symm, e.identity.symm, e.geometry.symm⟩
  have hn : (s.job j).program = (v.job j).program := by rw [hj]; exact h.name.symm
  have hc : contextOfPass t (s.job j) ((s.job j).passIndex + 1) p =
      contextOfPass v (v.job j) ((s.job j).passIndex + 1) p :=
    contextOfPass_congr f.tables hw hn (f.withoutDone _) _ p
  dsimp only
  rw [← passHasWork_iff, passHasWork_congr f.tables hw (f.sameDue _), hc]

/-- The next pass begins with its first unit (R14, R34, R38, R90). -/
theorem PassClosed.firstUnit {v : WalkContext}
    (hv : v = contextOfPass (followPass z j) (s.job j) ((s.job j).passIndex + 1) p)
    (hw : if v.kind = .nativeErase then v.cursor ≠ passEnd (followPass z j) (s.job j) v
      else nextStripe (followPass z j) (s.job j) v ≠ none) :
    let t := followPass z j
    (t.job j).state = .running ∧ (t.job j).passIndex = (s.job j).passIndex + 1 ∧ (t.job j).passComplete = false ∧
      (t.job j).unitActive = true ∧ (t.job j).permille = 0 ∧
      (t.job j).latch = (if autoChained s (s.job j) = true then (s.job j).latch else false) ∧
      (∀ k, k < (s.map b).entries.length → (t.zone b k).done = 0) ∧
      t.context b = some { v with unitEnd := unitEndNow t (s.job j) v } := by
  subst hv
  obtain ⟨e, k, q⟩ := h.begins h8 hl ha
  have hwork := (h.work_iff (p := p) q.frame k).mp hw
  have hprog : (latchUsed z j).program ((latchUsed z j).job j).program = s.program (s.job j).program :=
    k.goes.frame.program.trans h.program
  have g := firstUnit_beginPass 7 (k.goes.bay h.bay) (by rw [hprog]; exact hp) hwork
  have eg : beginPass (7 + 1) (latchUsed z j) j ((s.job j).passIndex + 1) = followPass z j := e.symm
  rw [eg] at g
  have hj := latchUsed_job z j
  have hm := k.map b
  have f := q.frame
  have hkj := k.job
  generalize followPass z j = t at *
  generalize latchUsed z j = x at *
  obtain ⟨gj, gd, gc⟩ := g
  have hwalk : SameWalk (x.job j) (s.job j) := by
    have e := h.walk
    rw [hkj]
    exact ⟨e.bay.symm, e.first.symm, e.count.symm, e.identity.symm, e.geometry.symm⟩
  have hcon : contextOfPass t (s.job j) ((s.job j).passIndex + 1) p = contextOfPass t (x.job j) ((s.job j).passIndex + 1) p :=
    contextOfPass_congr rfl hwalk (by rw [hj]; exact h.name.symm) rfl _ p
  have hend : ∀ v, unitEndNow t (s.job j) v = unitEndNow t (x.job j) v := fun v => unitEndNow_congr rfl hwalk {} v
  dsimp only
  rw [hcon, hend]
  refine ⟨?_, ?_, ?_, ?_, ?_, ?_, fun i hi => gd i (by rw [hm, h.length]; exact hi), gc⟩ <;> rw [gj]
  · rw [hj]; exact h.state
  · rw [hj, h.auto, h.latch]

/-- A next pass without work has its end recorded at once (R14, R45). -/
theorem PassClosed.passedOver
    (hw : ¬ (let v := contextOfPass (followPass z j) (s.job j) ((s.job j).passIndex + 1) p
      if v.kind = .nativeErase then v.cursor ≠ passEnd (followPass z j) (s.job j) v
      else nextStripe (followPass z j) (s.job j) v ≠ none))
    (hi : (s.job j).passIndex + 1 < (s.job j).passEnds.length) :
    ((followPass z j).job j).passEnds[(s.job j).passIndex + 1]? = some (some s.clock) := by
  obtain ⟨e, k, q⟩ := h.begins h8 hl ha
  rw [h.work_iff (p := p) q.frame k, Bool.not_eq_true] at hw
  have hprog : (latchUsed z j).program ((latchUsed z j).job j).program = s.program (s.job j).program :=
    k.goes.frame.program.trans h.program
  have hj := latchUsed_job z j
  have hclock : (latchUsed z j).clock = s.clock := k.goes.frame.inner.clock.trans h.clock
  have g := passEnds_beginPass 7 (k.goes.bay h.bay) (by rw [hj]; exact h.state) (by rw [hprog]; exact hp) hw
    (by rw [hj]; exact h.ends ▸ hi) (by rw [hprog]; omega)
  rw [e]
  exact g.trans (by rw [hclock])
end

end Sys2Proof.Proofs
end

section
/-! What follows a retirement, seventh part: the pass of a RUNNING job ends, and the end of a drain (R14, R16, R17, R21,
R22). -/

namespace Sys2Proof.Proofs

open Sys2Proof Sys2Proof.Machine Sys2Proof.Safety

section
variable {b : BayId} {j : JobId} {w : WalkContext} {y : JobState} {rest : List Entry} {s u : State}
  (h : Retiring b j w y rest s u) (hk : w.kind ≠ .nativeErase) (h8 : (s.program (s.job j).program).length ≤ 8)
  (hi : (s.job j).passIndex < (s.job j).passEnds.length)
include h hk h8 hi

/-- The pass of a RUNNING job has ended and is followed, and the tolerance has been compared (R14, R21). -/
theorem Retiring.runningPass (hy : y = .running) (hp : PassEnds s (s.job j) w rest) :
    let z := passClosed u j
    PassClosed b j s z ∧ afterRetirement u j = settled (followPass z j) j ∧
    Kept b j (followPass z j) (afterRetirement u j) ∧
    ((s.job j).tolerance < ((afterRetirement u j).job j).badZones ↔
      ((followPass z j).job j).tolerance < ((followPass z j).job j).badZones) := by
  dsimp only
  have hz := h.closes hy hp.1.1 hi
  have e : afterRetirement u j = settled (followPass (passClosed u j) j) j := h.nextPass hk hp hy
  have hf := hz.followed h8
  have k := kept_settled (hf.goes.bay hz.bay) hf.goes.active
  have g := ((runGoes_passClosed h.jobBay (h.active (.inl hy))).trans hf.goes).frame.job
  rw [← e] at k
  refine ⟨hz, e, k, ?_⟩
  rw [h.exceeds_iff (.inl hy), g]

/-- The end of a RUNNING job's pass (R14). -/
theorem Retiring.runningPass_ended (hy : y = .running) (hp : PassEnds s (s.job j) w rest) :
    let x := s.job j
    let t := afterRetirement u j
    (t.job j).passEnds[x.passIndex]? = some (some s.clock) ∧ kindPresent (t.attentionOf b) .passDone = true ∧
      ((t.job j).passIndex = x.passIndex → (t.job j).passComplete = true ∧ (t.job j).permille = 1000) := by
  obtain ⟨hz, _, k, _⟩ := h.runningPass hk h8 hi hy hp
  have hf := hz.followed h8
  dsimp only
  refine ⟨?_, (hf.goes.trans k.goes).frame.inner.attention b _ hz.done, ?_⟩ <;> rw [k.job]
  · exact hf.ended
  · exact hf.same

/-- What follows the end of a RUNNING job's pass (R14, R17, R21, R22, R45). -/
theorem Retiring.passEnded (hy : y = .running) (hp : PassEnds s (s.job j) w rest) :
    let x := s.job j
    let t := afterRetirement u j
    let exceeds := x.tolerance < (t.job j).badZones
    let last := LastPass s x
    let auto := autoChained s x
    (last → Finishes b j (outcomeOf (t.map b).entries) t) ∧
    (¬ last → exceeds → Finishes b j .rejected t) ∧
    (¬ last → ¬ exceeds → auto = false → x.latch = false → (t.job j).state = .waitingTrigger ∧
      (t.job j).unitActive = false ∧ (t.job j).latch = false ∧ (t.job j).passIndex = x.passIndex) ∧
    (¬ last → ¬ exceeds → auto = true ∨ x.latch = true →
      ∀ p, (s.program x.program)[x.passIndex + 1]? = some p →
        let v := contextOfPass t x (x.passIndex + 1) p
        let work : Prop := if v.kind = .nativeErase then v.cursor ≠ passEnd t x v else nextStripe t x v ≠ none
        (work → (t.job j).state = .running ∧ (t.job j).passIndex = x.passIndex + 1 ∧
          (t.job j).passComplete = false ∧ (t.job j).unitActive = true ∧ (t.job j).permille = 0 ∧
          (t.job j).latch = (if auto = true then x.latch else false) ∧
          (∀ k, k < (s.map b).entries.length → (t.zone b k).done = 0) ∧
          t.context b = some { v with unitEnd := unitEndNow t x v }) ∧
        (¬ work → x.passIndex + 1 < x.passEnds.length →
          (t.job j).passEnds[x.passIndex + 1]? = some (some s.clock))) := by
  obtain ⟨hz, e, k, hx⟩ := h.runningPass hk h8 hi hy hp
  have within (hn : ¬ (s.job j).tolerance < ((afterRetirement u j).job j).badZones) :
      afterRetirement u j = followPass (passClosed u j) j :=
    e.trans (settled_within (hz.followed h8).follows (mt hx.mpr hn))
  dsimp only
  generalize passClosed u j = z at *
  refine ⟨fun hl => ?_, fun hl hxt => ?_, fun hl hxt ha hc => ?_, fun hl hxt ha p hnext => ?_⟩
  · obtain ⟨_, f⟩ := hz.finishes hl
    rw [e, settled_finishing f.1]
    exact f
  · rw [e]
    exact hz.rejected h8 (hx.mp hxt)
  · obtain ⟨_, hj⟩ := hz.waits hl ha hc
    rw [within hxt, hj]
    exact ⟨rfl, hz.flag, hz.latch.trans hc, hz.index⟩
  · rw [within hxt]
    exact ⟨fun hw => hz.firstUnit h8 hl ha hnext rfl hw, fun hw hlt => hz.passedOver h8 hl ha hnext hw hlt⟩
end

/-! ### The end of a drain -/

/-- Job `j` of bay `b` has left the drain it stood in in `v` for a target (R16, R47). -/
def Drained (b : BayId) (j : JobId) (g : DrainTarget) (v t : State) : Prop :=
  match g with
  | .paused => t.job j = { v.job j with state := .paused } ∧
      t.context b = (v.context b).map fun w => { w with resumeCursor := some w.cursor }
  | .halted r => t.job j = { v.job j with state := .halted, haltReason := some r }
  | .finishing o => Finishes b j o t

theorem drained_settleDrain {b : BayId} {j : JobId} {g : DrainTarget} {v : State} (hb : (v.job j).bay = b)
    (hs : (v.job j).state = .draining g) (hl : v.list b = []) : Drained b j g v (settleDrain v j) := by
  subst hb
  rw [settleDrain_empty hs hl]
  cases g with
  | paused =>
    refine ⟨?_, ?_⟩
    · change (setState _ j .paused).job j = _
      rw [job_setState_same, recordResume_eq]; rfl
    · change (changeJob _ j _).context _ = _
      rw [changeJob_context, recordResume_eq, State.putContext_context_same]
      congr 1
      funext w
      unfold restartAt
      rw [hl]
  | halted r => exact enterHalted_job v j r
  | finishing o => exact finishes_enterFinishing rfl o

/-- A drain whose list is empty ends in its target, or with REJECTED where it stood toward PAUSED with its tolerance
exceeded (R16, R17, R21). -/
theorem drained_settled {b : BayId} {j : JobId} {g : DrainTarget} {v : State} (hb : (v.job j).bay = b)
    (hs : (v.job j).state = .draining g) (hl : v.list b = []) :
    ((v.job j).tolerance < (v.job j).badZones → g = .paused → Finishes b j .rejected (settled v j)) ∧
    (¬ ((v.job j).tolerance < (v.job j).badZones ∧ g = .paused) → Drained b j g v (settled v j)) := by
  refine ⟨fun hx hg => ?_, fun hx => ?_⟩
  · subst hg
    rw [settled_pausing_exceeds hs hx]
    have hj := job_setState_same v j rejecting
    exact drained_settleDrain (g := .finishing .rejected) (v := setState v j rejecting) (by rw [hj]; exact hb)
      (by rw [hj]) ((changeJob_list ..).trans hl)
  · rw [settled_draining hs hx]
    exact drained_settleDrain hb hs hl

/-- A drain with entries in flight goes on, toward FINISHING with REJECTED where it stood toward PAUSED with its
tolerance exceeded (R16, R21). -/
theorem settled_drain_standing {j : JobId} {g : DrainTarget} {v : State} (hs : (v.job j).state = .draining g)
    (hl : v.list (v.job j).bay ≠ []) :
    ((v.job j).tolerance < (v.job j).badZones → g = .paused → settled v j = setState v j rejecting) ∧
    (¬ ((v.job j).tolerance < (v.job j).badZones ∧ g = .paused) → settled v j = v) := by
  refine ⟨fun hx hg => ?_, fun hx => ?_⟩
  · subst hg
    rw [settled_pausing_exceeds hs hx]
    have hj := job_setState_same v j rejecting
    exact settleDrain_standing (s := setState v j rejecting) (by rw [hj]; exact (changeJob_list ..).trans_ne hl)
  · rw [settled_draining hs hx, settleDrain_standing hl]

end Sys2Proof.Proofs
end

section
/-! What follows a retirement, last part: a DRAINING job, and every case together (R11, R14, R16, R17, R21, R22, R25,
R45). -/

namespace Sys2Proof.Proofs

open Sys2Proof Sys2Proof.Machine Sys2Proof.Safety

/-! ### The unit and the pass of a DRAINING job -/

/-- The end of the last pass decides the outcome of a drain that had none (R16). -/
abbrev Decides (s : State) (x : Job) (w : WalkContext) (rest : List Entry) (q : DrainTarget) : Prop :=
  PassEnds s x w rest ∧ LastPass s x ∧ ∀ o, q ≠ .finishing o

section
variable {s : State} {j : JobId} {q : DrainTarget}

theorem passEndWhileDraining_decides (hl : LastPass (recordPassEnd s j) ((recordPassEnd s j).job j))
    (hq : ∀ o, q ≠ .finishing o) : passEndWhileDraining s j q =
      setState (recordPassEnd s j) j (.draining (.finishing
        (outcomeOf ((recordPassEnd s j).map ((recordPassEnd s j).job j).bay).entries))) := by
  unfold passEndWhileDraining lastPass
  dsimp only
  rw [if_pos (decide_eq_true hl), decideOutcome_eq]
  cases q with
  | finishing o => exact absurd rfl (hq o)
  | paused => rfl
  | halted r => rfl

theorem passEndWhileDraining_keeps
    (h : ¬ (LastPass (recordPassEnd s j) ((recordPassEnd s j).job j) ∧ ∀ o, q ≠ .finishing o)) :
    passEndWhileDraining s j q = recordPassEnd s j := by
  unfold passEndWhileDraining lastPass
  dsimp only
  split
  · next hl =>
    cases q with
    | finishing o => rfl
    | paused => exact absurd ⟨of_decide_eq_true hl, nofun⟩ h
    | halted r => exact absurd ⟨of_decide_eq_true hl, nofun⟩ h
  · rfl
end

/-- The state `v` of a DRAINING job whose unit has been judged, with the target `g` it now drains toward (R16). -/
structure DrainJudged (b : BayId) (j : JobId) (w : WalkContext) (rest : List Entry) (s u v : State) (g : DrainTarget) :
    Prop where
  settles : afterRetirement u j = settled v j
  goes : RunGoes b j u v
  state : (v.job j).state = .draining g
  latch : (v.job j).latch = (s.job j).latch
  ended : UnitEnds s (s.job j) w rest → (v.job j).unitActive = false ∧ v.context b = some { w with unitEnd := none }
  stands : ¬ UnitEnds s (s.job j) w rest → (v.job j).unitActive = (s.job j).unitActive ∧ v.context b = some w
  passed : PassEnds s (s.job j) w rest → (v.job j).passEnds = (u.job j).passEnds.set (u.job j).passIndex (some u.clock) ∧
    (v.job j).passComplete = true ∧ (v.job j).permille = 1000 ∧ kindPresent (v.attentionOf b) .passDone = true

section
variable {b : BayId} {j : JobId} {w : WalkContext} {y : JobState} {rest : List Entry} {s u : State}
  (h : Retiring b j w y rest s u) (hk : w.kind ≠ .nativeErase) {q : DrainTarget} (hy : y = .draining q)
include h hk hy

/-- A drain keeps its target while its pass goes on (R16). -/
theorem Retiring.drainJudged_unit (hp : ¬ PassEnds s (s.job j) w rest) :
    ∃ v, DrainJudged b j w rest s u v q := by
  have ha := h.active (.inr ⟨q, hy⟩)
  by_cases hu : UnitEnds s (s.job j) w rest
  · have hj := unitClosed_job u j
    refine ⟨unitClosed u j, h.drainsUnit hk hu (fun e => hp ⟨hu, e⟩) hy, runGoes_unitClosed h.jobBay ha, ?_, ?_,
      fun _ => ⟨?_, h.closed_context⟩, fun hn => absurd hu hn, fun e => absurd e hp⟩ <;> rw [hj]
    · exact h.state.trans hy
    · exact h.latch
  · exact ⟨u, h.stands hk hu, runGoes_refl ha, h.state.trans hy, h.latch, fun e => absurd e hu,
      fun _ => ⟨h.unitActive, h.context⟩, fun e => absurd e hp⟩

/-- A pass that ends while draining is recorded, and its target decided where it was the last (R16, R22). -/
theorem Retiring.drainJudged_pass (hp : PassEnds s (s.job j) w rest) :
    ∃ v g, DrainJudged b j w rest s u v g ∧
      (Decides s (s.job j) w rest q → g = .finishing (outcomeOf (v.map b).entries)) ∧
      (¬ Decides s (s.job j) w rest q → g = q) := by
  have ha := h.active (.inr ⟨q, hy⟩)
  have e := h.drainsPass hk hp hy
  have hdecides := passEndWhileDraining_decides (s := unitClosed u j) (j := j) (q := q)
  have hkeeps := passEndWhileDraining_keeps (s := unitClosed u j) (j := j) (q := q)
  rw [show recordPassEnd (unitClosed u j) j = passClosed u j from rfl] at hdecides hkeeps
  have hj := passClosed_job u j
  have k := runGoes_passClosed h.jobBay ha
  have hd := kindPresent_passClosed u j
  rw [h.jobBay] at hd
  have hc := (passClosed_context u j b).trans h.closed_context
  have hl := h.closed_last
  generalize passClosed u j = z at *
  have hzb := k.bay h.jobBay
  rw [hl, hzb] at hdecides
  rw [hl] at hkeeps
  by_cases hdec : LastPass s (s.job j) ∧ ∀ o, q ≠ .finishing o
  · rw [hdecides hdec.1 hdec.2] at e
    have kv := kept_setState hzb k.active (st := .draining (.finishing (outcomeOf (z.map b).entries))) rfl nofun
    have hv := job_setState_same z j (.draining (.finishing (outcomeOf (z.map b).entries)))
    have hcv : (setState z j (.draining (.finishing (outcomeOf (z.map b).entries)))).context b = z.context b :=
      changeJob_context ..
    generalize setState z j _ = v at *
    refine ⟨v, .finishing (outcomeOf (z.map b).entries), ⟨e, k.trans kv.goes, ?_, ?_, fun _ => ⟨?_, hcv.trans hc⟩,
      fun hn => absurd hp.1 hn, fun _ => ⟨?_, ?_, ?_, kv.goes.frame.inner.attention b _ hd⟩⟩,
      fun _ => by rw [kv.map b], fun hn => absurd ⟨hp, hdec⟩ hn⟩ <;> rw [hv]
    · rw [hj]; exact h.latch
    · rw [hj]
    · rw [hj]
    · rw [hj]
    · rw [hj]
  · rw [hkeeps hdec] at e
    refine ⟨z, q, ⟨e, k, ?_, ?_, fun _ => ⟨?_, hc⟩, fun hn => absurd hp.1 hn, fun _ => ⟨?_, ?_, ?_, hd⟩⟩,
      fun hn => absurd hn.2 hdec, fun _ => rfl⟩ <;> rw [hj]
    · exact h.state.trans hy
    · exact h.latch

theorem Retiring.drainJudged : ∃ v g, DrainJudged b j w rest s u v g ∧
    (Decides s (s.job j) w rest q → g = .finishing (outcomeOf (v.map b).entries)) ∧
    (¬ Decides s (s.job j) w rest q → g = q) := by
  by_cases hp : PassEnds s (s.job j) w rest
  · exact h.drainJudged_pass hk hy hp
  · obtain ⟨v, d⟩ := h.drainJudged_unit hk hy hp
    exact ⟨v, q, d, fun e => absurd e.1 hp, fun _ => rfl⟩

/-- The end of a DRAINING job's pass (R14, R16). -/
theorem Retiring.drainingPass_ended (hi : (s.job j).passIndex < (s.job j).passEnds.length)
    (hp : PassEnds s (s.job j) w rest) :
    let x := s.job j
    let t := afterRetirement u j
    (t.job j).passEnds[x.passIndex]? = some (some s.clock) ∧ kindPresent (t.attentionOf b) .passDone = true ∧
      ((t.job j).passIndex = x.passIndex → (t.job j).passComplete = true ∧ (t.job j).permille = 1000) := by
  obtain ⟨v, g, d, -⟩ := h.drainJudged_pass hk hy hp
  obtain ⟨h1, h2, h3, h4⟩ := d.passed hp
  have k := kept_settled (d.goes.bay h.jobBay) d.goes.active
  have hx : (u.job j).passEnds = (s.job j).passEnds ∧ (u.job j).passIndex = (s.job j).passIndex := by rw [h.job]; simp
  dsimp only
  rw [d.settles]
  refine ⟨?_, k.goes.frame.inner.attention b _ h4, fun _ => ?_⟩ <;> rw [k.job]
  · dsimp only
    rw [h1, hx.1, hx.2, h.clock]
    exact List.getElem?_set_self hi
  · exact ⟨h2, h3⟩

/-- With entries left in flight the drain goes on, but for the tolerance (R16, R21). -/
theorem Retiring.drainsOn (hr : rest ≠ []) :
    let x := s.job j
    let t := afterRetirement u j
    let exceeds := x.tolerance < (t.job j).badZones
    (t.job j).unitActive = x.unitActive ∧ (t.job j).latch = x.latch ∧ t.context b = some w ∧
      (exceeds → q = .paused → (t.job j).state = rejecting) ∧
      (¬ (exceeds ∧ q = .paused) → (t.job j).state = y) := by
  have hx := h.exceeds_iff (.inr ⟨q, hy⟩)
  obtain ⟨h1, h2⟩ := settled_drain_standing (v := u) (j := j) (h.state.trans hy) (by rw [h.jobBay, h.list]; exact hr)
  dsimp only
  rw [hx, h.stands hk fun e => hr e.1]
  by_cases he : (u.job j).tolerance < (u.job j).badZones ∧ q = .paused
  · rw [h1 he.1 he.2, job_setState_same]
    exact ⟨h.unitActive, h.latch, (changeJob_context ..).trans h.context, fun _ _ => rfl, fun hn => absurd he hn⟩
  · rw [h2 he]
    exact ⟨h.unitActive, h.latch, h.context, fun e1 e2 => absurd ⟨e1, e2⟩ he, fun _ => h.state⟩

/-- With its list empty the drain ends (R16, R17, R21, R22). -/
theorem Retiring.drainsOut (hr : rest = []) :
    let x := s.job j
    let t := afterRetirement u j
    let exceeds := x.tolerance < (t.job j).badZones
    (Decides s x w rest q → Finishes b j (outcomeOf (t.map b).entries) t) ∧
    (¬ Decides s x w rest q → exceeds → q = .paused → Finishes b j .rejected t) ∧
    (¬ Decides s x w rest q → ¬ (exceeds ∧ q = .paused) →
      (q = .paused → (t.job j).state = .paused ∧ (t.job j).latch = x.latch ∧
        (UnitEnds s x w rest → (t.job j).unitActive = false ∧
          t.context b = some { w with unitEnd := none, resumeCursor := some w.cursor }) ∧
        (¬ UnitEnds s x w rest → (t.job j).unitActive = x.unitActive ∧
          t.context b = some { w with resumeCursor := some w.cursor })) ∧
      (∀ r, q = .halted r → (t.job j).state = .halted ∧ (t.job j).haltReason = some r ∧ (t.job j).latch = x.latch) ∧
      ∀ o, q = .finishing o → Finishes b j o t) := by
  obtain ⟨v, g, d, hdec, hndec⟩ := h.drainJudged hk hy
  have hb := d.goes.bay h.jobBay
  have hl : v.list b = [] := (d.goes.frame.list b).trans (h.list.trans hr)
  obtain ⟨h1, h2⟩ := drained_settled hb d.state hl
  have hx : (s.job j).tolerance < ((afterRetirement u j).job j).badZones ↔ (v.job j).tolerance < (v.job j).badZones := by
    rw [h.exceeds_iff (.inr ⟨q, hy⟩), d.goes.frame.job]
  have hm := (kept_settled hb d.goes.active).map b
  dsimp only
  rw [hx, d.settles]
  refine ⟨fun hd => ?_, fun hd he hq => h1 he (by rw [hndec hd, hq]), fun hd he => ?_⟩
  · have hg := hdec hd
    rw [hm]
    have k := h2 (by rw [hg]; nofun)
    rw [hg] at k
    exact k
  · cases hndec hd
    have k := h2 he
    refine ⟨fun hq => ?_, fun r hq => ?_, fun o hq => ?_⟩ <;> subst hq
    · obtain ⟨hj, hc⟩ := k
      rw [hj, hc]
      refine ⟨rfl, d.latch, fun hu => ⟨(d.ended hu).1, ?_⟩, fun hu => ⟨(d.stands hu).1, ?_⟩⟩
      · rw [(d.ended hu).2]; rfl
      · rw [(d.stands hu).2]; rfl
    · have hj : _ = _ := k
      rw [hj]
      exact ⟨rfl, rfl, d.latch⟩
    · exact k
end

/-! ### Every case -/

/-- What follows a retirement in the words of Safety.lean. -/
theorem Retiring.followed {b : BayId} {j : JobId} {w : WalkContext} {y : JobState} {rest : List Entry} {s u : State}
    (h : Retiring b j w y rest s u) (hk : w.kind ≠ .nativeErase) (h8 : (s.program (s.job j).program).length ≤ 8)
    (hi : (s.job j).passIndex < (s.job j).passEnds.length) (hy : y = .running ∨ ∃ q, y = .draining q) :
    RetirementFollowed b j w y rest s (afterRetirement u j) := by
  refine ⟨fun hn => h.progress hk hy hn, fun hp => ?_, fun hr hn => h.running hk hr hn,
    fun hr hu hn => h.unitEnded hk hr hu hn, fun hr hp => h.passEnded hk h8 hi hr hp,
    fun q hq => ⟨fun hr => ?_, fun hr => ?_⟩⟩
  · rcases hy with hy | ⟨q, hy⟩
    · exact h.runningPass_ended hk h8 hi hy hp
    · exact h.drainingPass_ended hk hy hi hp
  · exact h.drainsOn hk hq hr
  · obtain ⟨h1, h2, h3⟩ := h.drainsOut hk hq hr
    refine ⟨h1, h2, fun hd he => ?_⟩
    obtain ⟨k1, k2, k3⟩ := h3 hd he
    cases q with
    | paused => exact k1 rfl
    | halted r => exact k2 r rfl
    | finishing o => exact k3 o rfl

end Sys2Proof.Proofs
end

section
/-! What follows a retirement leaves the zones alone where the pass goes on, and the passthrough path where the job's
state stands (R4, R14, R99). -/

namespace Sys2Proof.Proofs

open Sys2Proof Sys2Proof.Machine Sys2Proof.Safety

/-! ### The zones -/

/-- The pass index of job `j` goes on, and the zones stand where it stands (R14, R90). -/
structure Passed (j : JobId) (s t : State) : Prop where
  least : (s.job j).passIndex ≤ (t.job j).passIndex
  zones : (t.job j).passIndex = (s.job j).passIndex → ∀ c, t.map c = s.map c

theorem Passed.trans {j : JobId} {s t u : State} (h : Passed j s t) (k : Passed j t u) : Passed j s u where
  least := h.least.trans k.least
  zones e c := by
    have h1 := h.least
    have h2 := k.least
    rw [k.zones (by omega) c, h.zones (by omega) c]

theorem Kept.passed {b : BayId} {j : JobId} {s t : State} (h : Kept b j s t) : Passed j s t :=
  ⟨by rw [h.job], fun _ => h.map⟩

theorem Passed.of_later {j : JobId} {s t : State} (h : (s.job j).passIndex < (t.job j).passIndex) : Passed j s t :=
  ⟨h.le, fun e => absurd e h.ne'⟩

theorem passed_recordPassEnd (s : State) (j : JobId) : Passed j s (recordPassEnd s j) :=
  ⟨by rw [recordPassEnd_job], fun _ c => by unfold recordPassEnd; rw [raise_map]; rfl⟩

/-- Passes that begin from an index on leave an index that is not below it, where the first of them is a pass of the
program (R14). -/
theorem least_beginPass {j : JobId} {k : Nat} (n : Nat) : ∀ (s : State) (i : Nat), k ≤ i →
    k ≤ (s.job j).passIndex ∨ (n ≠ 0 ∧ i < (s.program (s.job j).program).length) →
    k ≤ ((beginPass n s j i).job j).passIndex := by
  induction n with
  | zero => exact fun _ _ _ h => h.resolve_right fun h => h.1 rfl
  | succ n ih =>
    intro s i hk h
    have hs : k ≤ ((startPass s j i).job j).passIndex := by
      by_cases hi : i < (s.program (s.job j).program).length
      · rw [startPass_job hi]; exact hk
      · rw [show startPass s j i = s by unfold startPass; simp [List.getElem?_eq_none (Nat.le_of_not_lt hi)]]
        exact h.resolve_right fun h => hi h.2
    have hr : k ≤ ((recordPassEnd (startPass s j i) j).job j).passIndex := by rw [recordPassEnd_job]; exact hs
    unfold beginPass
    dsimp only
    split
    · rw [beginUnit_job_same]; exact hs
    · split
      · rw [enterFinishing_job]; exact hr
      · exact ih _ _ (by omega) (.inl hr)
      · exact ih _ _ (by omega) (.inl (by rw [clearLatch_job]; exact hr))
      · rw [job_setState_same]; exact hr

section
variable {b : BayId} {j : JobId} {s : State} (hb : (s.job j).bay = b) (ha : (s.job j).state.active = true)
include hb ha

theorem passed_followPass : Passed j s (followPass s j) := by
  have follows : passSuccessor s (s.job j) ≠ .finish → _ := lt_of_passSuccessor
  unfold followPass
  split
  · exact (kept_enterFinishing hb ha _).passed
  · next e => exact .of_later (least_beginPass passBound s _ le_rfl (.inr ⟨nofun, follows (by rw [e]; nofun)⟩))
  · next e =>
    have k := kept_clearLatch hb ha
    exact .of_later (least_beginPass passBound (clearLatch s j) _ le_rfl
      (.inr ⟨nofun, by rw [k.goes.frame.program]; exact follows (by rw [e]; nofun)⟩))
  · exact (kept_setState hb ha (st := .waitingTrigger) rfl nofun).passed

theorem passed_completeUnit : Passed j s (completeUnit s j) := by
  have k := kept_unitClosed hb ha
  have kb := k.goes.bay hb
  have l := k.goes.trans (runGoes_recordPassEnd kb k.goes.active)
  have p := k.passed.trans (passed_recordPassEnd (unitClosed s j) j)
  rw [completeUnit_eq]
  split
  · split
    · split
      · have k1 := k.trans (kept_clearLatch kb k.goes.active)
        exact (k1.trans (kept_beginUnit (k1.goes.bay hb) k1.goes.active)).passed
      · exact (k.trans (kept_setState kb k.goes.active (st := .waitingTrigger) rfl nofun)).passed
    · exact p.trans (passed_followPass (l.bay hb) l.active)
  · next q _ =>
    split
    · exact k.passed
    · by_cases hd : LastPass (recordPassEnd (unitClosed s j) j) ((recordPassEnd (unitClosed s j) j).job j) ∧
        ∀ o, q ≠ .finishing o
      · rw [passEndWhileDraining_decides hd.1 hd.2]
        exact p.trans (kept_setState (st := .draining _) (l.bay hb) l.active rfl nofun).passed
      · rw [passEndWhileDraining_keeps hd]
        exact p
  · exact k.passed

/-- The zones stand behind a retirement where no later pass has begun (R14, R90). -/
theorem passed_afterRetirement : Passed j s (afterRetirement s j) := by
  have k := runGoes_judgeUnit hb ha
  have p : Passed j s (judgeUnit s j) := by
    unfold judgeUnit
    dsimp only
    split
    · split
      · exact passed_completeUnit hb ha
      · exact (kept_refl hb ha).passed
    · exact (kept_refl hb ha).passed
  exact p.trans (kept_settled (k.bay hb) k.active).passed
end

/-! ### The passthrough path -/

/-- The passthrough path and the bays stand; frames may have been added (R99). -/
structure SamePath (s t : State) : Prop where
  hold : t.hold = s.hold
  wait : t.wait = s.wait
  tags : t.tags = s.tags
  ports : t.ports = s.ports
  link : t.link = s.link
  sent : s.sent <+: t.sent

theorem SamePath.trans {s t u : State} (h : SamePath s t) (k : SamePath t u) : SamePath s u :=
  ⟨k.hold.trans h.hold, k.wait.trans h.wait, k.tags.trans h.tags, k.ports.trans h.ports, k.link.trans h.link,
    h.sent.trans k.sent⟩

theorem SamePath.refl (s : State) : SamePath s s := ⟨rfl, rfl, rfl, rfl, rfl, List.prefix_rfl⟩

section
variable (s : State) (j : JobId)

theorem samePath_unitClosed : SamePath s (unitClosed s j) := ⟨rfl, rfl, rfl, rfl, rfl, List.prefix_rfl⟩

theorem samePath_clearLatch : SamePath s (clearLatch s j) := ⟨rfl, rfl, rfl, rfl, rfl, List.prefix_rfl⟩

theorem samePath_beginUnit : SamePath s (beginUnit s j) := by
  rw [beginUnit_frame]; exact ⟨rfl, rfl, rfl, rfl, rfl, List.prefix_rfl⟩

theorem samePath_recordPassEnd : SamePath s (recordPassEnd s j) := by
  unfold recordPassEnd
  refine SamePath.trans (t := s.putJob j { s.job j with
    passEnds := (s.job j).passEnds.set (s.job j).passIndex (some s.clock), passComplete := true, permille := 1000 })
    ⟨rfl, rfl, rfl, rfl, rfl, List.prefix_rfl⟩ ?_
  exact ⟨raise_hold .., raise_wait .., raise_tags .., raise_ports .., raise_link .., (inner_raise _ _ _).sent⟩

theorem samePath_startPass (i : Nat) : SamePath s (startPass s j i) := by
  unfold startPass
  dsimp only
  split
  · exact .refl s
  · exact ⟨rfl, rfl, rfl, rfl, rfl, List.prefix_rfl⟩

theorem samePath_latchUsed : SamePath s (latchUsed s j) := by
  unfold latchUsed
  split
  · exact .refl s
  · exact samePath_clearLatch s j

/-- Passes that begin one after another leave the path alone where one of them runs (R14, R45). -/
theorem samePath_beginPass (n : Nat) : ∀ (s : State) (i : Nat), ((beginPass n s j i).job j).state = .running →
    SamePath s (beginPass n s j i) := by
  induction n with
  | zero => exact fun s _ _ => .refl s
  | succ n ih =>
    intro s i
    have k := (samePath_startPass s j i).trans (samePath_recordPassEnd (startPass s j i) j)
    unfold beginPass
    dsimp only
    split
    · exact fun _ => (samePath_startPass s j i).trans (samePath_beginUnit ..)
    · split
      · rw [enterFinishing_job]; nofun
      · exact fun hr => k.trans (ih _ _ hr)
      · exact fun hr => (k.trans (samePath_clearLatch ..)).trans (ih _ _ hr)
      · rw [job_setState_same]; nofun
end

section
variable {b : BayId} {j : JobId} {w : WalkContext} {y : JobState} {rest : List Entry} {s u : State}
  (h : Retiring b j w y rest s u) (hk : w.kind ≠ .nativeErase) (h8 : (s.program (s.job j).program).length ≤ 8)
  (hi : (s.job j).passIndex < (s.job j).passEnds.length)
include h hk

include h8 hi in
theorem Retiring.samePath_running (hy : y = .running) (ht : ((afterRetirement u j).job j).state = .running) :
    SamePath u (afterRetirement u j) := by
  by_cases hu : UnitEnds s (s.job j) w rest
  · by_cases hp : PassEnds s (s.job j) w rest
    · obtain ⟨hz, e, _, hx⟩ := h.runningPass hk h8 hi hy hp
      obtain ⟨h1, h2, h3, -⟩ := h.passEnded hk h8 hi hy hp
      have hl : ¬ LastPass s (s.job j) := fun hl => by
        have f := (h1 hl).1
        rw [ht] at f
        nomatch f
      have hn : ¬ (s.job j).tolerance < ((afterRetirement u j).job j).badZones := fun hn => by
        have f := (h2 hl hn).1
        rw [ht] at f
        nomatch f
      have ha : autoChained s (s.job j) = true ∨ (s.job j).latch = true := by
        by_contra ha
        rw [not_or, Bool.not_eq_true, Bool.not_eq_true] at ha
        have f := (h3 hl hn ha.1 ha.2).1
        rw [ht] at f
        nomatch f
      rw [e, settled_within (hz.followed h8).follows (mt hx.mpr hn)] at ht ⊢
      rw [(hz.begins h8 hl ha).1] at ht ⊢
      exact ((samePath_unitClosed u j).trans (samePath_recordPassEnd (unitClosed u j) j)).trans
        ((samePath_latchUsed ..).trans (samePath_beginPass j _ _ _ ht))
    · obtain ⟨h1, _, h3⟩ := h.unitEnded hk hy hu hp
      have hn : ¬ (s.job j).tolerance < ((afterRetirement u j).job j).badZones := fun hn => by
        have f := (h1 hn).1
        rw [ht] at f
        nomatch f
      have hl : (s.job j).latch = true := by
        by_contra hl
        have f := (h3 hn (Bool.not_eq_true _ ▸ hl)).1
        rw [ht] at f
        nomatch f
      obtain ⟨hv, -⟩ := h.unitBegun (h.active (.inl hy))
      have hx := h.exceeds_iff (.inl hy)
      rw [h.nextUnit hk hu (fun e => hp ⟨hu, e⟩) hy hl] at hx hn ⊢
      rw [settled_running (by rw [hv]; exact h.state.trans hy) (by rw [hv]; exact mt hx.mpr hn)]
      exact (samePath_unitClosed u j).trans ((samePath_clearLatch ..).trans (samePath_beginUnit ..))
  · have hx := h.exceeds_iff (.inl hy)
    obtain ⟨-, h2, h3⟩ := h.running hk hy hu
    have hn : ¬ (s.job j).tolerance < ((afterRetirement u j).job j).badZones := fun hn => by
      by_cases hr : rest = []
      · have f := (h3 hn hr).1
        rw [ht] at f
        nomatch f
      · have f := (h2 hn hr).1
        rw [ht] at f
        nomatch f
    rw [h.stands hk hu] at hx hn ⊢
    rw [settled_running (h.state.trans hy) (mt hx.mpr hn)]
    exact .refl u

theorem Retiring.samePath_draining {q : DrainTarget} (hy : y = .draining q)
    (ht : ((afterRetirement u j).job j).state = y) : SamePath u (afterRetirement u j) := by
  by_cases hr : rest = []
  · exfalso
    obtain ⟨h1, h2, h3⟩ := h.drainsOut hk hy hr
    rw [hy] at ht
    by_cases hd : Decides s (s.job j) w rest q
    · have f := (h1 hd).1
      rw [ht] at f
      nomatch f
    · by_cases he : (s.job j).tolerance < ((afterRetirement u j).job j).badZones ∧ q = .paused
      · have f := (h2 hd he.1 he.2).1
        rw [ht] at f
        nomatch f
      · obtain ⟨k1, k2, k3⟩ := h3 hd he
        cases q with
        | paused => have f := (k1 rfl).1; rw [ht] at f; nomatch f
        | halted r => have f := (k2 r rfl).1; rw [ht] at f; nomatch f
        | finishing o => have f := (k3 o rfl).1; rw [ht] at f; nomatch f
  · obtain ⟨_, h2⟩ := settled_drain_standing (v := u) (j := j) (h.state.trans hy) (by rw [h.jobBay, h.list]; exact hr)
    obtain ⟨-, -, -, h1, -⟩ := h.drainsOn hk hy hr
    have hx := h.exceeds_iff (.inr ⟨q, hy⟩)
    have he : ¬ ((u.job j).tolerance < (u.job j).badZones ∧ q = .paused) := fun he => by
      have f := h1 (hx.mpr he.1) he.2
      rw [ht, hy, he.2] at f
      nomatch f
    rw [h.stands hk fun e => hr e.1, h2 he]
    exact .refl u

include h8 hi in
/-- Where the state of the job stands, nothing that follows a retirement touches the passthrough path (R4, R99). -/
theorem Retiring.samePath (hy : y = .running ∨ ∃ q, y = .draining q)
    (ht : ((afterRetirement u j).job j).state = y) : SamePath u (afterRetirement u j) := by
  rcases hy with hy | ⟨q, hy⟩
  · exact h.samePath_running hk h8 hi hy (ht.trans hy)
  · exact h.samePath_draining hk hy ht
end

end Sys2Proof.Proofs
end

section
/-! One zone changes, and the head of a list retires: its zone, its job's totals and the permille (R25, R44, R92, R93,
R98, R99). -/

namespace Sys2Proof.Proofs

open Sys2Proof Sys2Proof.Machine Sys2Proof.Safety

/-! ### One zone changes -/

/-- A zone that is set to what it was leaves the number of bad zones. -/
theorem badZones_set {es : List ZoneEntry} {i : Nat} {z : ZoneEntry}
    (h : ((es.getD i ZoneEntry.cleared).state = z.state)) :
    ((es.set i z).filter fun z => z.state.bad).length = (es.filter fun z => z.state.bad).length := by
  have e : (es.set i z).map (fun z => z.state) = es.map (fun z => z.state) := by
    rw [List.map_set]
    refine List.ext_getElem (by simp) fun k h1 h2 => ?_
    rw [List.getElem_set]
    split
    · next hk =>
      subst hk
      have hi : i < es.length := by simpa using h2
      rw [List.getElem_map, ← h, List.getD_eq_getElem _ _ hi]
    · rfl
  have f : ∀ gs : List ZoneEntry, (gs.filter fun z => z.state.bad).length =
      ((gs.map fun z => z.state).filter ZoneState.bad).length :=
    fun gs => by rw [List.filter_map, List.length_map]; rfl
  rw [f, f, e]

/-- What a change of zone `i` of bay `b`, owned by job `j`, leaves but for the judgements of held reads (R98). -/
structure ZonePut (b : BayId) (j : JobId) (i : Nat) (z : ZoneEntry) (s t : State) : Prop where
  frame : t = { s with
    hold := t.hold, wait := t.wait, tags := t.tags, sent := t.sent, jobs := t.jobs, coverage := t.coverage }
  map : t.map b = { s.map b with entries := (s.map b).entries.set i z }
  maps : ∀ c, c ≠ b → t.map c = s.map c
  others : ∀ k, k ≠ j → t.job k = s.job k
  job : t.job j = { s.job j with badZones := (t.job j).badZones }
  bad : (s.job j).badZones = badZones (s.map b) → (t.job j).badZones = badZones (t.map b)

theorem ZonePut.reevaluate {b : BayId} {j : JobId} {i : Nat} {z : ZoneEntry} {s t : State} (h : ZonePut b j i z s t) :
    ZonePut b j i z s (reevaluate t b) where
  frame := by
    have e := reevaluate_frame t b
    rw [reevaluate_jobs, reevaluate_coverage]
    generalize Machine.reevaluate t b = r at e ⊢
    rw [e]
    conv_lhs => rw [h.frame]
  map := by rw [reevaluate_map]; exact h.map
  maps c hc := by rw [reevaluate_map]; exact h.maps c hc
  others k hk := by rw [reevaluate_job]; exact h.others k hk
  job := by rw [reevaluate_job]; exact h.job
  bad := by rw [reevaluate_job, reevaluate_map]; exact h.bad

/-- The state behind a zone's change and its report to the job controller, before the filter is told (R98). -/
def zonePut (s : State) (b : BayId) (i : Nat) (z : ZoneEntry) : State :=
  if (s.zone b i).state = z.state then putEntries s b ((s.map b).entries.set i z)
  else reportBadZones (putEntries s b ((s.map b).entries.set i z)) b

theorem changeZone_eq (s : State) (b : BayId) (i : Nat) (f : ZoneEntry → ZoneEntry) : changeZone s b i f =
    if (s.zone b i).state = (f (s.zone b i)).state ∧ ((s.zone b i).out = 0 ∨ (f (s.zone b i)).out ≠ 0) then
      zonePut s b i (f (s.zone b i))
    else reevaluate (zonePut s b i (f (s.zone b i))) b := rfl

theorem putEntries_map (s : State) (b c : BayId) (es : List ZoneEntry) :
    (putEntries s b es).map c = if c = b then { s.map b with entries := es } else s.map c := by
  unfold putEntries; exact State.putMap_map ..

section
variable {b : BayId} {j : JobId} {i : Nat} {z : ZoneEntry} {s : State} (ho : (s.map b).owner = some j)
include ho

theorem zonePut_zonePut : ZonePut b j i z s (zonePut s b i z) := by
  have hm := putEntries_map s b
  unfold zonePut
  split
  · next h =>
    refine ⟨rfl, by rw [hm, if_pos rfl], fun c hc => by rw [hm, if_neg hc], fun _ _ => rfl, rfl, fun hb => ?_⟩
    rw [hm, if_pos rfl]
    exact hb.trans (badZones_set h).symm
  · have hmap (c) : (reportBadZones (putEntries s b ((s.map b).entries.set i z)) b).map c =
        (putEntries s b ((s.map b).entries.set i z)).map c := by rw [reportBadZones_frame]; rfl
    have hj := reportBadZones_job (putEntries s b ((s.map b).entries.set i z)) b
    have hown : ((putEntries s b ((s.map b).entries.set i z)).map b).owner = some j := by rw [hm, if_pos rfl]; exact ho
    refine ⟨?_, by rw [hmap, hm, if_pos rfl], fun c hc => by rw [hmap, hm, if_neg hc], fun k hk => ?_, ?_, fun _ => ?_⟩
    · rw [reportBadZones_frame]; rfl
    · rw [hj, if_neg (by rw [hown]; exact fun e => hk (Option.some.inj e).symm)]; rfl
    · rw [hj]; rfl
    · rw [hj, if_pos hown, hmap]

/-- A change of one zone (R98, R99). -/
theorem zonePut_changeZone {f : ZoneEntry → ZoneEntry} (hf : f (s.zone b i) = z) :
    ZonePut b j i z s (changeZone s b i f) := by
  subst hf
  rw [changeZone_eq]
  split
  · exact zonePut_zonePut ho
  · exact (zonePut_zonePut ho).reevaluate

/-- A zone whose state changes, or whose last request in flight ends, has its bay's held reads judged again (R99). -/
theorem judgedAgain_changeZone {f : ZoneEntry → ZoneEntry} (hf : f (s.zone b i) = z)
    (h : (s.zone b i).state ≠ z.state ∨ ((s.zone b i).out ≠ 0 ∧ z.out = 0)) :
    JudgedAgain b s (changeZone s b i f) := by
  subst hf
  have hz := (zonePut_zonePut (i := i) (z := f (s.zone b i)) ho).frame
  have path : (zonePut s b i (f (s.zone b i))).hold = s.hold ∧ (zonePut s b i (f (s.zone b i))).link = s.link := by
    refine ⟨?_, by rw [hz]⟩
    unfold zonePut
    split
    · rfl
    · rw [reportBadZones_frame]; rfl
  rw [changeZone_eq, if_neg (by tauto)]
  have k := judgedAgain_reevaluate (zonePut s b i (f (s.zone b i))) b
  unfold JudgedAgain at k ⊢
  rw [path.1, path.2] at k
  exact k
end

/-! ### The head retires in its zone -/

theorem saturating_eq (l a n : Nat) : saturating l a n = min l (a + n) := rfl

/-- An OVERWRITE that retires changes its zone as Safety.lean says (R92). -/
theorem zoneAfter_overwrite {w : WalkContext} {i : Nat} {e : Entry} (hk : e.kind = .overwrite) (hz : e.zone = some i)
    (z : ZoneEntry) : overwriteRetired w.pass (decide (e.status = .doneGood)) z = zoneAfter w i z e := by
  unfold overwriteRetired zoneAfter
  simp only [hz, hk, ne_eq, not_true, if_false, decide_eq_true_eq]
  by_cases hs : e.status = .doneGood
  · simp only [hs, not_true, if_true, if_false]
  · simp only [hs, not_false_eq_true, if_true, if_false]
    rfl

/-- A VERIFY that retires changes its zone as Safety.lean says (R93). -/
theorem zoneAfter_verify {w : WalkContext} {i : Nat} {e : Entry} (hk : e.kind = .verify) (hz : e.zone = some i)
    (z : ZoneEntry) :
    verifyRetired (dueWork w i z) (decide (e.status = .doneGood)) e.mismatched z = zoneAfter w i z e := by
  unfold verifyRetired zoneAfter
  simp only [hz, hk, ne_eq, not_true, if_false, decide_eq_true_eq]
  by_cases hs : e.status = .doneGood
  · simp only [hs, not_true, if_true, if_false, saturating_eq]
    split <;> (try split) <;> (try split) <;> rfl
  · simp only [hs, not_false_eq_true, if_true, if_false]
    rfl

/-- The retirement of an entry in its zone is one change of that zone (R92, R93). -/
theorem retireZone_eq {s : State} {b : BayId} {w : WalkContext} {e : Entry} {i : Nat} (hk : e.kind ≠ .nativeErase)
    (hz : e.zone = some i) : ∃ f : ZoneEntry → ZoneEntry, f (s.zone b i) = zoneAfter w i (s.zone b i) e ∧
      retireZone s b w e (decide (e.status = .doneGood)) = changeZone s b i f := by
  unfold retireZone
  split
  · next h => exact absurd h hk
  · next h h' => rw [h'] at hz; cases hz; exact ⟨_, zoneAfter_overwrite h h' _, rfl⟩
  · next h h' => rw [h'] at hz; cases hz; exact ⟨_, zoneAfter_verify h h' _, rfl⟩
  · next h' => rw [h'] at hz; nomatch hz
  · next h' => rw [h'] at hz; nomatch hz

/-! ### The sums of the progress -/

theorem workSums_eq (w : WalkContext) (es : List ZoneEntry) : ∀ k, workSums w k es =
    ((es.map fun e => e.done).sum, (es.mapIdx fun i e => dueWork w (k + i) e).sum) := by
  induction es with
  | nil => exact fun _ => rfl
  | cons e es ih =>
    intro k
    unfold workSums
    rw [ih]
    simp [Nat.add_assoc, Nat.add_comm 1]

/-- A map over the zones in use by their indices. -/
theorem map_range_getD {α : Type} (f : Nat → ZoneEntry → α) (es : List ZoneEntry) :
    ((List.range es.length).map fun i => f i (es.getD i ZoneEntry.cleared)) = es.mapIdx f := by
  refine List.ext_getElem (by simp) fun i h1 h2 => ?_
  have hi : i < es.length := by simpa using h1
  simp [hi]

/-- The progress of a pass in the words of Safety.lean (R25). -/
theorem progress_eq (s : State) (b : BayId) (w : WalkContext) : progress w (s.map b) = permilleOf s b w := by
  have h1 := map_range_getD (fun _ z => z.done) (s.map b).entries
  have h2 := map_range_getD (fun i z => dueWork w i z) (s.map b).entries
  have h3 : (s.map b).entries.mapIdx (fun _ z => z.done) = (s.map b).entries.map fun z => z.done :=
    List.ext_getElem (by simp) fun _ _ _ => by simp
  unfold progress permilleOf State.zone
  dsimp only
  rw [workSums_eq, h1, h2, h3]
  simp

end Sys2Proof.Proofs
end

section
/-! A chain of retirements, head first: what one more of them adds (R25, R44, R92, R93, R98). -/

namespace Sys2Proof.Proofs

open Sys2Proof Sys2Proof.Machine Sys2Proof.Safety

/-! ### What a list of retired entries adds up to -/

/-- A job's record with the totals of a list of retired entries added (R44). -/
def totalled (x : Job) (gone : List Entry) : Job :=
  gone.foldl (fun x e => addTotals (decide (e.status = .doneGood)) e x) x

theorem totalled_append (x : Job) (gone : List Entry) (e : Entry) :
    totalled x (gone ++ [e]) = addTotals (decide (e.status = .doneGood)) e (totalled x gone) := by
  unfold totalled; rw [List.foldl_append]; rfl

theorem addTotals_eq (good : Bool) (e : Entry) (x : Job) : addTotals good e x = { x with
    mismatched := (addTotals good e x).mismatched, failedStripes := (addTotals good e x).failedStripes } := by
  unfold addTotals; split <;> rfl

theorem addTotals_with (good : Bool) (e : Entry) (x : Job) (y : JobState) (n p : Nat) :
    addTotals good e { x with state := y, badZones := n, permille := p } =
      { addTotals good e x with state := y, badZones := n, permille := p } := by
  unfold addTotals; split <;> rfl

theorem addTotals_keeps (good : Bool) (e : Entry) (x : Job) : (addTotals good e x).bay = x.bay ∧
    (addTotals good e x).badZones = x.badZones := by
  rw [addTotals_eq]; exact ⟨rfl, rfl⟩

theorem exists_totalled (gone : List Entry) : ∀ x, ∃ m f,
    totalled x gone = { x with mismatched := m, failedStripes := f } := by
  induction gone with
  | nil => exact fun x => ⟨x.mismatched, x.failedStripes, rfl⟩
  | cons e es ih =>
    intro x
    obtain ⟨m, f, h⟩ := ih (addTotals (decide (e.status = .doneGood)) e x)
    exact ⟨m, f, h.trans (by rw [addTotals_eq])⟩

theorem totalled_eq (gone : List Entry) (x : Job) : totalled x gone = { x with
    mismatched := (totalled x gone).mismatched, failedStripes := (totalled x gone).failedStripes } := by
  obtain ⟨m, f, h⟩ := exists_totalled gone x
  rw [h]

theorem zoneAfterAll_append (s : State) (b : BayId) (w : WalkContext) (i : Nat) (gone : List Entry) (e : Entry) :
    zoneAfterAll s b w i (gone ++ [e]) = zoneAfter w i (zoneAfterAll s b w i gone) e := by
  unfold zoneAfterAll; rw [List.foldl_append]; rfl

theorem zoneAfter_other {w : WalkContext} {i : Nat} {e : Entry} (h : e.zone ≠ some i) (z : ZoneEntry) :
    zoneAfter w i z e = z := by
  unfold zoneAfter; exact if_pos h

theorem zoneAfter_due (w : WalkContext) (i : Nat) (z : ZoneEntry) (e : Entry) : (zoneAfter w i z e).due = z.due := by
  unfold zoneAfter
  dsimp only
  split
  · rfl
  · split
    · rfl
    · split
      · rfl
      · split <;> rfl
      · rfl

theorem zoneAfterAll_due (s : State) (b : BayId) (w : WalkContext) (i : Nat) (gone : List Entry) :
    (zoneAfterAll s b w i gone).due = (s.zone b i).due := by
  induction gone using List.reverseRecOn with
  | nil => rfl
  | append_singleton gone e ih => rw [zoneAfterAll_append, zoneAfter_due, ih]

/-! ### The chain -/

/-- `m` is `s` with the entries `gone` retired from bay `b`'s list and `left` still in it: every zone and the totals take
them all, head first (R25, R44). -/
structure Chain (b : BayId) (j : JobId) (w : WalkContext) (gone left : List Entry) (s m : State) : Prop where
  active : activeJob m b = some j
  running : (m.job j).state = .running ∨ ∃ q, (m.job j).state = .draining q
  context : m.context b = some w
  list : m.list b = left
  tables : m.tables = s.tables
  clock : m.clock = s.clock
  owner : (m.map b).owner = some j
  shift : (m.map b).z = (s.map b).z
  length : (m.map b).entries.length = (s.map b).entries.length
  zone : ∀ i, m.zone b i = zoneAfterAll s b w i gone
  others : ∀ k, k ≠ j → m.job k = s.job k
  job : m.job j = { totalled (s.job j) gone with
    state := (m.job j).state, badZones := (m.job j).badZones, permille := (m.job j).permille }
  bad : (m.job j).badZones = badZones (m.map b)

/-- The state in which the head of a list has retired and nothing has followed yet (R44). -/
def headRetired (m : State) (b : BayId) (j : JobId) (w : WalkContext) (e : Entry) (rest : List Entry) : State :=
  refreshProgress (retireZone ((m.putList b rest).modJob j (addTotals (decide (e.status = .doneGood)) e)) b w e
    (decide (e.status = .doneGood))) j w

theorem retireHead_eq (m : State) (b : BayId) (j : JobId) (w : WalkContext) (e : Entry) (rest : List Entry) :
    retireHead m b j w e rest = afterRetirement (headRetired m b j w e rest) j := rfl

/-- The retirement of the head `e` in zone `i` of a state `m` whose job `j` owns the zones (R25, R44, R92, R93, R98). -/
structure Head (b : BayId) (j : JobId) (w : WalkContext) (e : Entry) (i : Nat) (rest : List Entry) (m u : State) :
    Prop where
  frame : u = { m with
    hold := u.hold, wait := u.wait, tags := u.tags, sent := u.sent, jobs := u.jobs, coverage := u.coverage
    inFlight := put m.inFlight b rest }
  map : u.map b = { m.map b with entries := (m.map b).entries.set i (zoneAfter w i (m.zone b i) e) }
  others : ∀ k, k ≠ j → u.job k = m.job k
  job : u.job j = { addTotals (decide (e.status = .doneGood)) e (m.job j) with
    badZones := (u.job j).badZones, permille := (u.job j).permille }
  bad : (m.job j).badZones = badZones (m.map b) → (u.job j).badZones = badZones (u.map b)
  permille : (u.job j).permille = permilleOf u b w
  maps : ∀ c, c ≠ b → u.map c = m.map c
  judged : (m.zone b i).state ≠ (zoneAfter w i (m.zone b i) e).state ∨
    ((m.zone b i).out ≠ 0 ∧ (zoneAfter w i (m.zone b i) e).out = 0) → JudgedAgain b m u

/-- Held reads that have been judged again stay so where the path and their judgements stand (R158). -/
theorem judgedAgain_behind {b : BayId} {s t u : State} (h : JudgedAgain b s t) (k : SamePath t u)
    (hj : ∀ c, judgeHeld u c = judgeHeld t c) : JudgedAgain b s u := by
  intro c hc hb hu
  rw [hj, k.hold, k.wait, show u.tagInUse c.tag = t.tagInUse c.tag by unfold State.tagInUse; rw [k.tags]]
  obtain ⟨h1, h2, h3⟩ := h c hc hb hu
  exact ⟨h1, h2, fun x hx => ⟨(h3 x hx).1, (h3 x hx).2.1, fun hl => k.sent.subset ((h3 x hx).2.2 hl)⟩⟩

theorem judgeHeld_refreshProgress (s : State) (j : JobId) (w : WalkContext) (c : PassCommand) :
    judgeHeld (refreshProgress s j w) c = judgeHeld s c := by
  refine judgeHeld_congr (s := s) (t := refreshProgress s j w) rfl (fun k => ?_)
    (fun _ => ⟨rfl, rfl, rfl, fun _ => ⟨rfl, rfl⟩⟩) (fun _ => ⟨rfl, rfl⟩) c
  unfold refreshProgress
  rw [State.modJob_job]
  split
  · next h => subst h; exact ⟨rfl, rfl, rfl⟩
  · exact ⟨rfl, rfl, rfl⟩

section
variable {b : BayId} {j : JobId} {w : WalkContext} {e : Entry} {i : Nat} {rest : List Entry} {m : State}

theorem head_headRetired (hb : (m.job j).bay = b) (ho : (m.map b).owner = some j) (hk : e.kind ≠ .nativeErase)
    (hz : e.zone = some i) : Head b j w e i rest m (headRetired m b j w e rest) := by
  have hj1 : ((m.putList b rest).modJob j (addTotals (decide (e.status = .doneGood)) e)).job j =
      addTotals (decide (e.status = .doneGood)) e (m.job j) := State.modJob_job_same ..
  obtain ⟨f, hf, hr⟩ := retireZone_eq (s := (m.putList b rest).modJob j (addTotals (decide (e.status = .doneGood)) e))
    (b := b) (w := w) hk hz
  have k := zonePut_changeZone (s := (m.putList b rest).modJob j (addTotals (decide (e.status = .doneGood)) e)) ho hf
  have kj := judgedAgain_changeZone (s := (m.putList b rest).modJob j (addTotals (decide (e.status = .doneGood)) e)) ho hf
  unfold headRetired
  rw [hr]
  have hjob := k.job
  obtain ⟨ab, az⟩ := addTotals_keeps (decide (e.status = .doneGood)) e (m.job j)
  rw [hj1] at hjob
  have hbad := k.bad
  rw [hj1, az] at hbad
  have hothers := k.others
  have hframe := k.frame
  generalize changeZone _ b i f = v at *
  have hv : (v.job j).bay = b := by rw [hjob]; exact ab.trans hb
  have hp : (refreshProgress v j w).job j = { v.job j with permille := progress w (v.map b) } := by
    unfold refreshProgress
    rw [State.modJob_job_same, show v.map (v.job j).bay = v.map b by rw [hv]]
  have hm : ∀ c, (refreshProgress v j w).map c = v.map c := fun _ => rfl
  refine ⟨?_, ?_, fun n hn => ?_, ?_, fun h => ?_, ?_, fun c hc => ?_, fun h => ?_⟩
  · change (v.putJob j _ : State) = { m with
      hold := v.hold, wait := v.wait, tags := v.tags, sent := v.sent, jobs := (v.putJob j _).jobs
      coverage := v.coverage, inFlight := put m.inFlight b rest }
    conv_lhs => rw [hframe]
    rfl
  · rw [hm, k.map]; rfl
  · have h1 : (refreshProgress v j w).job n = v.job n := by
      unfold refreshProgress; rw [State.modJob_job, if_neg hn]
    rw [h1, hothers n hn]
    exact (State.modJob_job ..).trans (if_neg hn)
  · rw [hp]
    exact congrArg (fun y : Job => { y with permille := progress w (v.map b) }) hjob
  · rw [hp, hm]; exact hbad h
  · rw [hp, ← progress_eq, hm]
  · rw [hm, k.maps c hc]; rfl
  · exact judgedAgain_behind (s := m) (kj h) ⟨rfl, rfl, rfl, rfl, rfl, List.prefix_rfl⟩
      (judgeHeld_refreshProgress v j w)
end

end Sys2Proof.Proofs
end

section
/-! A chain of retirements, head first: each of them, and the comparison that follows it while entries are left (R17,
R21, R44, R45). -/

namespace Sys2Proof.Proofs

open Sys2Proof Sys2Proof.Machine Sys2Proof.Safety

/-! ### One more retirement -/

theorem Head.zone {b : BayId} {j : JobId} {w : WalkContext} {e : Entry} {i : Nat} {rest : List Entry} {m u : State}
    (h : Head b j w e i rest m u) (hz : e.zone = some i) (hi : i < (m.map b).entries.length) (k : Nat) :
    u.zone b k = zoneAfter w k (m.zone b k) e := by
  by_cases hk : k = i
  · subst hk
    unfold State.zone
    rw [h.map]
    simp [hi, State.zone]
  · rw [zoneAfter_other (by rw [hz]; exact fun x => hk (Option.some.inj x).symm)]
    unfold State.zone
    rw [h.map]
    simp [Ne.symm hk]

section
variable {b : BayId} {j : JobId} {w : WalkContext} {gone left : List Entry} {s m : State}

/-- The walk, the list and the zones of the chain's job are those of the start (R34, R44). -/
theorem Chain.jobEq (h : Chain b j w gone left s m) : m.job j = { s.job j with
    state := (m.job j).state, badZones := (m.job j).badZones, mismatched := (m.job j).mismatched
    failedStripes := (m.job j).failedStripes, permille := (m.job j).permille } := by
  rw [h.job, totalled_eq]

/-- A chain with its permille up to date is a state behind a retirement (R25). -/
theorem Chain.retiring (h : Chain b j w gone left s m) (hb : (s.job j).bay = b)
    (hp : (m.job j).permille = permilleOf m b w) : Retiring b j w (m.job j).state left s m where
  bay := hb
  job := h.jobEq
  list := h.list
  context := h.context
  tables := h.tables
  clock := h.clock
  due := ⟨h.shift, fun i => (congrArg ZoneEntry.due (h.zone i)).trans (zoneAfterAll_due s b w i gone)⟩
  length := h.length
  permille := hp
  bad := h.bad

/-- One more entry of the chain retires (R44). -/
theorem Chain.retire {e : Entry} {i : Nat} (h : Chain b j w gone (e :: left) s m) (hk : e.kind ≠ .nativeErase)
    (hz : e.zone = some i) (hi : i < (s.map b).entries.length) :
    Chain b j w (gone ++ [e]) left s (headRetired m b j w e left) ∧
    ((headRetired m b j w e left).job j).permille = permilleOf (headRetired m b j w e left) b w ∧
    ((headRetired m b j w e left).job j).state = (m.job j).state := by
  have hb := (activeJob_spec h.active).2
  have k := head_headRetired (rest := left) hb h.owner hk hz (w := w)
  generalize headRetired m b j w e left = u at *
  have hu := k.frame
  have hj := k.job
  rw [addTotals_eq] at hj
  have hstate : (u.job j).state = (m.job j).state := by rw [hj]
  have hsame : SameActivity m u := fun n => by
    by_cases hn : n = j
    · subst hn; rw [hj]; exact ⟨rfl, rfl, rfl⟩
    · rw [k.others n hn]; exact ⟨rfl, rfl, rfl⟩
  refine ⟨{
    active := (activeJob_congr_activity hsame b).trans h.active
    running := by rw [hstate]; exact h.running
    context := ?_
    list := ?_
    tables := by rw [hu]; exact h.tables
    clock := by rw [hu]; exact h.clock
    owner := by rw [k.map]; exact h.owner
    shift := by rw [k.map]; exact h.shift
    length := by rw [k.map]; exact List.length_set.trans h.length
    zone := fun n => by rw [k.zone hz (by rw [h.length]; exact hi), zoneAfterAll_append, h.zone]
    others := fun n hn => (k.others n hn).trans (h.others n hn)
    job := ?_
    bad := k.bad h.bad }, k.permille, hstate⟩
  · rw [show u.context b = m.context b by rw [hu]; rfl]
    exact h.context
  · rw [hu]
    exact put_same m.inFlight b left
  · have c : addTotals (decide (e.status = .doneGood)) e (m.job j) =
        { addTotals (decide (e.status = .doneGood)) e (totalled (s.job j) gone) with
          state := (m.job j).state, badZones := (m.job j).badZones, permille := (m.job j).permille } := by
      conv_lhs => rw [h.job]
      exact addTotals_with ..
    rw [totalled_append, hstate]
    exact k.job.trans (congrArg (fun y : Job => { y with
      badZones := (u.job j).badZones, permille := (u.job j).permille }) c)

end

/-! ### The tolerance behind each of them -/

/-- The state of a job once the tolerance has been compared behind each of a list of retirements (R17, R21). -/
def comparedState (s : State) (b : BayId) (w : WalkContext) (x : Job) (gone : List Entry) : JobState :=
  if gone ≠ [] ∧ x.tolerance < badAfter s b w gone ∧ (x.state = .running ∨ x.state = .draining .paused)
  then rejecting else x.state

theorem stateBeforeLast_eq (s : State) (b : BayId) (w : WalkContext) (x : Job) (gone : List Entry) :
    stateBeforeLast s b w x gone = comparedState s b w x gone.dropLast := rfl

theorem badZones_eq (m : CoverageMap) : badZones m =
    ((List.range m.entries.length).filter fun i => (m.entries.getD i ZoneEntry.cleared).state.bad).length := by
  have h := map_range_getD (fun _ z => z.state.bad) m.entries
  have hm : m.entries.mapIdx (fun _ z => z.state.bad) = m.entries.map fun z => z.state.bad :=
    List.ext_getElem (by simp) fun _ _ _ => by simp
  have f {α : Type} (p : α → Bool) (l : List α) : (l.filter p).length = ((l.map p).filter id).length := by
    rw [List.filter_map, List.length_map]; rfl
  unfold badZones
  rw [f fun z : ZoneEntry => z.state.bad, f (fun i => (m.entries.getD i ZoneEntry.cleared).state.bad), h, hm]

/-- A zone that is bad stays so behind every retirement (R86, R92, R93). -/
theorem zoneAfter_bad {w : WalkContext} {i : Nat} {z : ZoneEntry} (e : Entry) (h : z.state.bad = true) :
    (zoneAfter w i z e).state.bad = true := by
  have hs : z.state = .failed ∨ z.state = .mismatched := by
    cases hz : z.state <;> rw [hz] at h <;> simp [ZoneState.bad] at h ⊢
  unfold zoneAfter
  dsimp only
  rcases hs with hs | hs
  · rw [hs]
    split
    · rw [hs]; rfl
    · split
      · rfl
      · split <;> simp [ZoneState.bad]
  · rw [hs]
    split
    · rw [hs]; rfl
    · split
      · rfl
      · split
        · simp [ZoneState.bad]
        · simp [ZoneState.bad]
        · simp only [reduceCtorEq, or_true, false_and, if_false, ite_self]
          rfl

/-- The bad zones of a chain never become fewer (R98). -/
theorem badAfter_append (s : State) (b : BayId) (w : WalkContext) (gone : List Entry) (e : Entry) :
    badAfter s b w gone ≤ badAfter s b w (gone ++ [e]) := by
  unfold badAfter
  rw [← List.countP_eq_length_filter, ← List.countP_eq_length_filter]
  refine List.countP_mono_left fun i _ h => ?_
  rw [zoneAfterAll_append]
  exact zoneAfter_bad e h

/-- One more comparison (R17, R21). -/
theorem comparedState_append (s : State) (b : BayId) (w : WalkContext) (x : Job) (gone : List Entry) (e : Entry) :
    comparedState s b w x (gone ++ [e]) =
      if x.tolerance < badAfter s b w (gone ++ [e]) ∧
        (comparedState s b w x gone = .running ∨ comparedState s b w x gone = .draining .paused)
      then rejecting else comparedState s b w x gone := by
  have hmono := badAfter_append s b w gone e
  unfold comparedState
  by_cases hc : gone ≠ [] ∧ x.tolerance < badAfter s b w gone ∧ (x.state = .running ∨ x.state = .draining .paused)
  · rw [if_pos hc, if_pos ⟨by simp, by omega, hc.2.2⟩]
    simp
  · rw [if_neg hc]
    simp

section
variable {b : BayId} {j : JobId} {w : WalkContext} {gone left : List Entry} {s m : State}

theorem Chain.badAfter_eq (h : Chain b j w gone left s m) : (m.job j).badZones = badAfter s b w gone := by
  rw [h.bad, badZones_eq]
  unfold badAfter
  rw [h.length]
  congr 2
  funext i
  rw [← h.zone]
  rfl

/-- A list that still holds entries ends no unit (R45). -/
theorem afterRetirement_standing (hl : m.list (m.job j).bay ≠ []) : afterRetirement m j = settled m j := by
  rw [afterRetirement_eq]
  congr 1
  unfold judgeUnit
  dsimp only
  split
  · exact if_neg (by simp [hl])
  · rfl

/-- With entries left, what follows a retirement is the comparison (R16, R21). -/
theorem settled_chain (hs : (m.job j).state = .running ∨ ∃ q, (m.job j).state = .draining q)
    (hl : m.list (m.job j).bay ≠ []) : settled m j =
      if (m.job j).tolerance < (m.job j).badZones ∧
        ((m.job j).state = .running ∨ (m.job j).state = .draining .paused)
      then setState m j rejecting else m := by
  rcases hs with hs | ⟨q, hs⟩
  · by_cases hx : (m.job j).tolerance < (m.job j).badZones
    · rw [settled_running_exceeds hs hx hl, if_pos ⟨hx, .inl hs⟩]
    · rw [settled_running hs hx, if_neg fun k => hx k.1]
  · obtain ⟨h1, h2⟩ := settled_drain_standing hs hl
    by_cases hx : (m.job j).tolerance < (m.job j).badZones ∧ q = .paused
    · rw [h1 hx.1 hx.2, if_pos ⟨hx.1, .inr (by rw [hs, hx.2])⟩]
    · rw [h2 hx, if_neg]
      rintro ⟨hx', hq⟩
      rw [hs] at hq
      rcases hq with hq | hq
      · nomatch hq
      · exact hx ⟨hx', by injection hq⟩

/-- The chain goes on under its job's rejection (R17, R21). -/
theorem Chain.reject (h : Chain b j w gone left s m) : Chain b j w gone left s (setState m j rejecting) := by
  have hb := (activeJob_spec h.active).2
  have ha : (m.job j).state.active = true := JobState.active_of_running h.running
  have k := kept_setState hb ha (st := rejecting) rfl nofun
  have hj := job_setState_same m j rejecting
  have hc : (setState m j rejecting).context b = m.context b := changeJob_context ..
  have f := k.goes.frame
  generalize setState m j rejecting = t at *
  have hsame : SameActivity m t := fun n => by
    by_cases hn : n = j
    · subst hn; rw [hj]; exact ⟨ha.symm, rfl, rfl⟩
    · rw [f.others n hn]; exact ⟨rfl, rfl, rfl⟩
  exact {
    active := (activeJob_congr_activity hsame b).trans h.active
    running := .inr ⟨_, by rw [hj]⟩
    context := hc.trans h.context
    list := (f.list b).trans h.list
    tables := f.tables.trans h.tables
    clock := f.inner.clock.trans h.clock
    owner := by rw [k.map]; exact h.owner
    shift := by rw [k.map]; exact h.shift
    length := by rw [k.map]; exact h.length
    zone := fun i => by unfold State.zone; rw [k.map]; exact h.zone i
    others := fun n hn => (f.others n hn).trans (h.others n hn)
    job := by rw [hj]; exact congrArg (fun y : Job => { y with state := rejecting }) h.job
    bad := by rw [hj, k.map]; exact h.bad }

/-- The chain behind the comparison that follows a retirement with entries left (R17, R21). -/
theorem Chain.compared {e : Entry} (h : Chain b j w (gone ++ [e]) left s m) (hl : left ≠ [])
    (hs : (m.job j).state = comparedState s b w (s.job j) gone) :
    Chain b j w (gone ++ [e]) left s (afterRetirement m j) ∧
    ((afterRetirement m j).job j).state = comparedState s b w (s.job j) (gone ++ [e]) ∧
    ((afterRetirement m j).job j).permille = (m.job j).permille := by
  have hlist : m.list (m.job j).bay ≠ [] := by rw [(activeJob_spec h.active).2, h.list]; exact hl
  have ht : (m.job j).tolerance = (s.job j).tolerance := by rw [h.jobEq]
  have e1 := (afterRetirement_standing hlist).trans (settled_chain h.running hlist)
  rw [ht, h.badAfter_eq, hs] at e1
  rw [e1, comparedState_append]
  split
  · rw [job_setState_same]; exact ⟨h.reject, rfl, rfl⟩
  · exact ⟨h, hs, rfl⟩

/-! ### All of them -/

/-- An entry that retires where it stands at the head (R42, R44). -/
def retires (w : WalkContext) (e : Entry) : Bool :=
  decide (e.status = .doneGood) || decide (e.status = .doneError ∧ w.retryLimit < e.attempt)

theorem retires_eq (w : WalkContext) (e : Entry) :
    (decide (e.status = .doneGood) || entryFailed w e) = retires w e := by
  unfold retires entryFailed; rw [Bool.decide_and]

theorem retireAll_nil {n : Nat} {s : State} (h : s.list b = []) : retireAll n s b = s := by
  cases n with
  | zero => rfl
  | succ n => unfold retireAll; rw [h]

/-- A head that does not retire lets nothing retire (R44). -/
theorem retireAll_stands {n : Nat} {s : State}
    (h : ∀ e v, (s.list b).head? = some e → s.context b = some v → retires v e = false) : retireAll n s b = s := by
  cases n with
  | zero => rfl
  | succ n =>
    unfold retireAll
    split
    · next e rest j v hl _ hw =>
      rw [retires_eq, h e v (by rw [hl]; rfl) hw]
      rfl
    · rfl
    · rfl
    · rfl

/-- A head that retires does so, and those behind it are looked at in turn (R44). -/
theorem retireAll_head {n : Nat} {e : Entry} {rest : List Entry} (ha : activeJob m b = some j)
    (hw : m.context b = some w) (hl : m.list b = e :: rest) (hr : retires w e = true) :
    retireAll (n + 1) m b = retireAll n (afterRetirement (headRetired m b j w e rest) j) b := by
  conv_lhs => unfold retireAll
  rw [hl, ha, hw]
  dsimp only
  rw [retires_eq, hr, ← retireHead_eq]
  rfl

/-- An entry of the chain: its zone is in use, and it is no native erase (R40, R49). -/
abbrev Striped (s : State) (b : BayId) (e : Entry) : Prop :=
  e.kind ≠ .nativeErase ∧ ∃ i, e.zone = some i ∧ i < (s.map b).entries.length

/-- The last head to retire: nothing retires behind it, and what follows it is the end of the chain (R44, R45). -/
theorem retireAll_last {n : Nat} {e : Entry} (h : Chain b j w gone (e :: left) s m)
    (hs : (m.job j).state = comparedState s b w (s.job j) gone) (hr : retires w e = true) (he : Striped s b e)
    (hleft : ∀ q, left.head? = some q → retires w q = false) :
    retireAll (n + 1) m b = afterRetirement (headRetired m b j w e left) j := by
  obtain ⟨hk, i, hz, hi⟩ := he
  rw [retireAll_head h.active h.context h.list hr]
  obtain ⟨hc, _, hst⟩ := h.retire hk hz hi
  generalize headRetired m b j w e left = u at *
  by_cases hl : left = []
  · have f := (runGoes_afterRetirement (activeJob_spec hc.active).2 (JobState.active_of_running hc.running)).frame
    exact retireAll_nil ((f.list b).trans (hc.list.trans hl))
  · obtain ⟨ht, -⟩ := hc.compared hl (hst.trans hs)
    refine retireAll_stands fun q v hq hv => ?_
    rw [ht.list] at hq
    rw [ht.context] at hv
    cases hv
    exact hleft q hq

/-- Every entry of `front` retires, and nothing behind it: `u` is the state before what follows the last (R44). -/
theorem retireAll_chain {front : List Entry} : ∀ {n : Nat} {gone : List Entry} {m : State},
    Chain b j w gone (front ++ left) s m → (m.job j).state = comparedState s b w (s.job j) gone → front ≠ [] →
    (∀ e ∈ front, retires w e = true ∧ Striped s b e) → (∀ e, left.head? = some e → retires w e = false) →
    front.length ≤ n → ∃ u, retireAll n m b = afterRetirement u j ∧ Chain b j w (gone ++ front) left s u ∧
      (u.job j).permille = permilleOf u b w ∧
      (u.job j).state = comparedState s b w (s.job j) (gone ++ front).dropLast := by
  induction front with
  | nil => exact fun _ _ h => absurd rfl h
  | cons e front ih =>
    intro n gone m h hs _ hall hleft hn
    obtain ⟨n, rfl⟩ : ∃ k, n = k + 1 := ⟨n - 1, by simp at hn; omega⟩
    obtain ⟨hr, hk, i, hz, hi⟩ := hall e List.mem_cons_self
    obtain ⟨hc, hp, hst⟩ := h.retire hk hz hi
    by_cases hf : front = []
    · subst hf
      exact ⟨_, retireAll_last h hs hr ⟨hk, i, hz, hi⟩ hleft, hc, hp, hst.trans (by rw [hs, List.dropLast_concat])⟩
    · obtain ⟨ht, hts, -⟩ := hc.compared (by simp [hf]) (hst.trans hs)
      obtain ⟨v, hv, hvc, hvp, hvs⟩ := ih ht hts hf (fun q hq => hall q (List.mem_cons_of_mem _ hq)) hleft
        (Nat.le_of_succ_le_succ hn)
      rw [List.append_assoc] at hvc hvs
      exact ⟨v, (retireAll_head h.active h.context h.list hr).trans hv, hvc, hvp, hvs⟩
end

end Sys2Proof.Proofs
end

section
/-! What a chain of retirements adds up to in each zone and in its job, where it begins, and what it leaves behind its
end (R25, R44, R92, R93, R98, R108). -/

namespace Sys2Proof.Proofs

open Sys2Proof Sys2Proof.Machine Sys2Proof.Safety

/-! ### The counts of one retirement -/

section
variable {w : WalkContext} {i : Nat} {z : ZoneEntry} {e : Entry}

theorem zoneAfter_failed (hz : e.zone = some i) (hs : e.status ≠ .doneGood) : zoneAfter w i z e =
    { z with out := z.out - 1, done := z.done + 1, state := .failed, fails := min 255 (z.fails + 1) } := by
  unfold zoneAfter
  dsimp only
  rw [if_neg (by simp [hz]), if_pos hs]

/-- A retirement in the zone (R44, R92, R93). -/
theorem zoneAfter_counts (hz : e.zone = some i) :
    (zoneAfter w i z e).out = z.out - 1 ∧ (zoneAfter w i z e).done = z.done + 1 ∧
    (e.status = .doneGood → (zoneAfter w i z e).fails = z.fails) := by
  by_cases hs : e.status = .doneGood
  · unfold zoneAfter
    dsimp only
    rw [if_neg (by simp [hz]), if_neg (by simp [hs])]
    split
    · exact ⟨rfl, rfl, fun _ => rfl⟩
    · split <;> exact ⟨rfl, rfl, fun _ => rfl⟩
    · exact ⟨rfl, rfl, fun _ => rfl⟩
  · rw [zoneAfter_failed hz hs]
    exact ⟨rfl, rfl, fun h => absurd h hs⟩

/-- A zone that has FAILED stays so (R92, R93). -/
theorem zoneAfter_stays_failed (h : z.state = .failed) : (zoneAfter w i z e).state = .failed := by
  by_cases hz : e.zone = some i
  · by_cases hs : e.status = .doneGood
    · unfold zoneAfter
      dsimp only
      rw [if_neg (by simp [hz]), if_neg (by simp [hs]), h]
      split <;> simp
    · rw [zoneAfter_failed hz hs]
  · rw [zoneAfter_other hz]; exact h
end

/-! ### The sums of a chain -/

/-- The entries of a chain have completed, GOOD or failed (R42). -/
abbrev Completed (gone : List Entry) : Prop := ∀ e ∈ gone, e.status = .doneGood ∨ e.status = .doneError

theorem completed_append {gone : List Entry} {e : Entry} (h : Completed (gone ++ [e])) :
    Completed gone ∧ (e.status = .doneGood ∨ e.status = .doneError) :=
  ⟨fun q hq => h q (List.mem_append_left _ hq), h e (List.mem_append_right _ (List.mem_singleton_self e))⟩

/-- The counts of a zone behind a chain (R44, R92, R93). -/
theorem zoneAfterAll_counts {s : State} {b : BayId} {w : WalkContext} {i : Nat} {gone : List Entry}
    (hf : (s.zone b i).fails ≤ 255) (h : Completed gone) :
    let z := zoneAfterAll s b w i gone
    let here := gone.filter fun e => decide (e.zone = some i)
    let failed := here.filter fun e => decide (e.status = .doneError)
    z.out = (s.zone b i).out - here.length ∧ z.done = (s.zone b i).done + here.length ∧
      z.fails = min 255 ((s.zone b i).fails + failed.length) ∧ (failed ≠ [] → z.state = .failed) := by
  induction gone using List.reverseRecOn with
  | nil => exact ⟨rfl, rfl, (min_eq_right hf).symm, fun h => absurd rfl h⟩
  | append_singleton gone e ih =>
    obtain ⟨hg, he⟩ := completed_append h
    obtain ⟨h1, h2, h3, h4⟩ := ih hg
    dsimp only
    rw [zoneAfterAll_append, List.filter_append, List.filter_append, List.length_append, List.length_append]
    generalize zoneAfterAll s b w i gone = z at *
    by_cases hz : e.zone = some i
    · obtain ⟨k1, k2, k3⟩ := zoneAfter_counts (w := w) (z := z) hz
      rcases he with he | he
      · refine ⟨?_, ?_, ?_, fun hn => zoneAfter_stays_failed (h4 (by simpa [hz, he] using hn))⟩
        · rw [k1, h1]; simp [hz]; omega
        · rw [k2, h2]; simp [hz]; omega
        · rw [k3 he, h3]; simp [hz, he]
      · have hf := zoneAfter_failed (w := w) (z := z) hz (by rw [he]; nofun)
        refine ⟨?_, ?_, ?_, fun _ => by rw [hf]⟩
        · rw [k1, h1]; simp [hz]; omega
        · rw [k2, h2]; simp [hz]; omega
        · have hl : (([e].filter fun e => decide (e.zone = some i)).filter fun e =>
              decide (e.status = .doneError)) = [e] := by
            simp [hz, he]
          rw [hf, hl, List.length_singleton]
          dsimp only
          omega
    · rw [zoneAfter_other hz]
      simp only [hz, decide_false, List.filter_cons, List.filter_nil, Bool.false_eq_true, if_false, List.length_nil,
        Nat.add_zero, List.append_nil]
      exact ⟨h1, h2, h3, h4⟩

/-- The stripes a job has lost behind a chain (R44). -/
theorem totalled_failedStripes {x : Job} {gone : List Entry} (hx : x.failedStripes < 2 ^ 32) (h : Completed gone) :
    (totalled x gone).failedStripes =
      min (2 ^ 32 - 1) (x.failedStripes + (gone.filter fun e => decide (e.status = .doneError)).length) := by
  induction gone using List.reverseRecOn with
  | nil => simp [totalled]; omega
  | append_singleton gone e ih =>
    obtain ⟨hg, he⟩ := completed_append h
    rw [totalled_append, List.filter_append, List.length_append]
    have k := ih hg
    unfold addTotals
    rcases he with he | he
    · simp [he, k]
    · have hl : ([e].filter fun e => decide (e.status = .doneError)) = [e] := by simp [he]
      simp only [he, reduceCtorEq, decide_false, Bool.false_eq_true, if_false, k, saturating_eq, totalLimit]
      rw [hl, List.length_singleton]
      omega

/-- The mismatched sectors of a job behind a chain (R44). -/
theorem totalled_mismatched {x : Job} {gone : List Entry} (hx : x.mismatched < 2 ^ 32) (h : Completed gone) :
    (totalled x gone).mismatched = min (2 ^ 32 - 1) (x.mismatched +
      ((gone.filter fun e => decide (e.status = .doneGood)).map Entry.mismatched).sum) := by
  induction gone using List.reverseRecOn with
  | nil => simp [totalled]; omega
  | append_singleton gone e ih =>
    obtain ⟨hg, he⟩ := completed_append h
    rw [totalled_append, List.filter_append, List.map_append, List.sum_append]
    have k := ih hg
    unfold addTotals
    rcases he with he | he
    · simp only [he, decide_true, if_true, k, saturating_eq, totalLimit]
      simp [he]
      omega
    · simp [he, k]

/-! ### The start of a chain and its end -/

section
variable {s : State} {b : BayId} {j : JobId} {w : WalkContext}

/-- A chain begins where a completion has left its mark (R43, R44, R108). -/
theorem chain_marking (ha : activeJob s b = some j) (hw : s.context b = some w) (ho : (s.map b).owner = some j)
    (hs : (s.job j).state = .running ∨ ∃ q, (s.job j).state = .draining q)
    (hbad : (s.job j).badZones = badZones (s.map b)) (r : Record) (good : Bool) :
    Chain b j w [] (markedList s b r good) s (marking s b r good) where
  active := ha
  running := hs
  context := hw
  list := marking_list ..
  tables := rfl
  clock := rfl
  owner := ho
  shift := rfl
  length := rfl
  zone _ := rfl
  others _ _ := rfl
  job := rfl
  bad := hbad

theorem comparedState_nil (x : Job) : comparedState s b w x [] = x.state := if_neg (by simp)

variable {gone left : List Entry} {u : State}

/-- What a chain leaves behind its last retirement and what follows that (R44, R98). -/
structure ChainEnded (b : BayId) (j : JobId) (w : WalkContext) (gone left : List Entry) (s t : State) : Prop where
  list : t.list b = left
  others : ∀ k, k ≠ j → t.job k = s.job k
  standing : (t.job j).passIndex = (s.job j).passIndex → ∀ i, t.zone b i = zoneAfterAll s b w i gone
  zone : ∀ i, t.zone b i = { zoneAfterAll s b w i gone with done := (t.zone b i).done }
  failedStripes : (t.job j).failedStripes = (totalled (s.job j) gone).failedStripes
  mismatched : (t.job j).mismatched = (totalled (s.job j) gone).mismatched
  bad : (t.job j).badZones = badZones (t.map b)

theorem Chain.ended (h : Chain b j w gone left s u) : ChainEnded b j w gone left s (afterRetirement u j) := by
  have hb := (activeJob_spec h.active).2
  have ha : (u.job j).state.active = true := JobState.active_of_running h.running
  have f := (runGoes_afterRetirement hb ha).frame
  have p := passed_afterRetirement hb ha
  have hx : (u.job j).passIndex = (s.job j).passIndex := by rw [h.jobEq]
  have ht : (u.job j).mismatched = (totalled (s.job j) gone).mismatched ∧
      (u.job j).failedStripes = (totalled (s.job j) gone).failedStripes := by rw [h.job]; exact ⟨rfl, rfl⟩
  refine ⟨(f.list b).trans h.list, fun k hk => (f.others k hk).trans (h.others k hk),
    fun e i => ?_, fun i => ?_, ?_, ?_, ?_⟩
  · unfold State.zone
    rw [p.zones (e.trans hx.symm) b]
    exact h.zone i
  · rw [f.zone, h.zone]
  · rw [f.job]; exact ht.2
  · rw [f.job]; exact ht.1
  · rw [f.job, badZones_withoutDone (f.withoutDone b)]; exact h.bad
end

end Sys2Proof.Proofs
end

section
/-! An engine completion is taken, settled: its mark, and the chain of retirements it sets going (R21, R25, R42 to R45,
R76, R77, R108, R113). -/

namespace Sys2Proof.Proofs

open Sys2Proof Sys2Proof.Machine Sys2Proof.Safety

section
variable {s : State} {b : BayId} {r : Record} {good : Bool}

/-- A marked head that neither is GOOD nor has spent its attempts lets nothing retire (R42, R43). -/
theorem completeEntry_stands (h : ∀ e, (markedList s b r good).head? = some e → e.status ≠ .doneGood ∧
    ∀ w, s.context b = some w → e.status = .doneError → e.attempt ≤ w.retryLimit) :
    completeEntry s b r good = marking s b r good := by
  have hn : nativeHeadFailed (marking s b r good) b = false := by
    unfold nativeHeadFailed
    rw [marking_list]
    split
    · next e rest w hl hw =>
      have k := (h e (by rw [hl]; rfl)).2 w hw
      simp only [entryFailed, Bool.and_eq_false_imp, decide_eq_true_eq]
      intro _ hs
      exact decide_eq_false (Nat.not_lt.mpr (k hs))
    · rfl
  rw [completeEntry_eq, hn]
  refine retireAll_stands fun e v he hv => ?_
  rw [marking_list] at he
  obtain ⟨h1, h2⟩ := h e he
  unfold retires
  rw [decide_eq_false h1, Bool.false_or]
  exact decide_eq_false fun k => absurd k.2 (Nat.not_lt.mpr (h2 v hv k.1))

/-- A marked head that is no native erase has its list walked for what retires (R44). -/
theorem completeEntry_walks (h : ∀ e, (markedList s b r good).head? = some e → e.kind ≠ .nativeErase) :
    completeEntry s b r good = retireAll (markedList s b r good).length (marking s b r good) b := by
  have hn : nativeHeadFailed (marking s b r good) b = false := by
    unfold nativeHeadFailed
    rw [marking_list]
    split
    · next e rest w hl _ => simp [h e (by rw [hl]; rfl)]
    · rfl
  rw [completeEntry_eq, hn]
  rfl

variable {j : JobId} {w : WalkContext} {left : List Entry}
  (ha : activeJob s b = some j) (hw : s.context b = some w) (ho : (s.map b).owner = some j)
  (hs : (s.job j).state = .running ∨ ∃ q, (s.job j).state = .draining q)
  (hbad : (s.job j).badZones = badZones (s.map b))
include ha hw ho hs hbad

/-- The entries at the head of a marked list that retire do so one after another, and what follows the last of them
begins in the state that the comparisons behind the earlier ones have left (R21, R44, R45). -/
theorem completeEntry_chain (hne : (markedList s b r good).takeWhile (retires w) ≠ [])
    (hall : ∀ e ∈ (markedList s b r good).takeWhile (retires w), Striped s b e) :
    ∃ u, completeEntry s b r good = afterRetirement u j ∧
      Chain b j w ((markedList s b r good).takeWhile (retires w)) ((markedList s b r good).dropWhile (retires w)) s u ∧
      (u.job j).permille = permilleOf u b w ∧
      (u.job j).state = stateBeforeLast s b w (s.job j) ((markedList s b r good).takeWhile (retires w)) := by
  have hc := chain_marking ha hw ho hs hbad r good
  have hwalk : ∀ e, (markedList s b r good).head? = some e → e.kind ≠ .nativeErase := fun e he => by
    cases hl : markedList s b r good with
    | nil => rw [hl] at he; nomatch he
    | cons q qs =>
      rw [hl] at he hne hall
      cases he
      rw [List.takeWhile_cons] at hne hall
      split at hne
      · next h => rw [if_pos h] at hall; exact (hall e List.mem_cons_self).1
      · exact absurd rfl hne
  rw [completeEntry_walks hwalk]
  generalize hmark : markedList s b r good = es at *
  have hleft : ∀ e, (es.dropWhile (retires w)).head? = some e → retires w e = false := fun e he => by
    have k := List.head?_dropWhile_not (retires w) es
    rw [he] at k
    exact k
  rw [← List.takeWhile_append_dropWhile (p := retires w) (l := es)] at hc
  obtain ⟨u, h1, h2, h3, h4⟩ := retireAll_chain (n := es.length) hc (comparedState_nil ..).symm hne
    (fun e he => ⟨List.mem_takeWhile_imp he, hall e he⟩) hleft (List.takeWhile_prefix _).length_le
  exact ⟨u, h1, h2, h3, h4⟩

end

/-- With entries left in flight, what the chain leaves of its walk and its job (R21, R25). -/
theorem Chain.entriesLeft {b : BayId} {j : JobId} {w : WalkContext} {gone left : List Entry} {s u : State}
    (h : Chain b j w gone left s u) (hg : gone ≠ []) (hl : left ≠ [])
    (hs : (u.job j).state = stateBeforeLast s b w (s.job j) gone) (hp : (u.job j).permille = permilleOf u b w) :
    let t := afterRetirement u j
    let x := s.job j
    t.context b = some w ∧ (t.job j).permille = permilleOf t b w ∧ (t.job j).passIndex = x.passIndex ∧
      (t.job j).state =
        if x.tolerance < (t.job j).badZones ∧ (x.state = .running ∨ x.state = .draining .paused)
        then rejecting else x.state := by
  obtain ⟨ht, hst, hpt⟩ := Chain.compared (gone := gone.dropLast) (e := gone.getLast hg)
    (by rw [List.dropLast_append_getLast hg]; exact h) hl hs
  rw [List.dropLast_append_getLast hg] at ht hst
  have hu : (u.job j).passIndex = (s.job j).passIndex := by rw [h.jobEq]
  have hi : ((afterRetirement u j).job j).passIndex = (s.job j).passIndex := by rw [ht.jobEq]
  have hm := (passed_afterRetirement (activeJob_spec h.active).2 (JobState.active_of_running h.running)).zones
    (hi.trans hu.symm) b
  refine ⟨ht.context, ?_, hi, ?_⟩
  · rw [hpt, hp, permilleOf_congr hm]
  · rw [hst, ht.badAfter_eq]
    unfold comparedState
    exact if_congr (by simp [hg]) rfl rfl

/-- A retiring entry has completed (R42). -/
theorem completed_takeWhile (w : WalkContext) (es : List Entry) : Completed (es.takeWhile (retires w)) := fun e he => by
  have k := List.mem_takeWhile_imp he
  unfold retires at k
  rw [Bool.or_eq_true, decide_eq_true_eq, decide_eq_true_eq] at k
  exact k.imp id And.left

/-- Settles O47: the mark is one equation, and the chain goes by induction on the entries that retire. -/
theorem engineCompletionMarksItsEntry : Obligations.EngineCompletionMarksItsEntry := by
  intro s b id r hf hl marked stands completes chain
  have hid := findRecord_id hf
  have hm : ∀ good, marked good = markedList s b r good := fun good => by
    change (s.list b).map _ = (s.list b).map _
    rw [← hid]
    cases r.slot <;> rfl
  have hcompletes : ∀ i good, exec i s = .next (completeEntry s b r good) → completes i good := by
    intro i good hi hstand
    rw [hi, completeEntry_stands (by rw [← hm]; exact hstand), ← hid]
    unfold marking
    rw [← hm]
    cases r.slot <;> rfl
  have hchain : ∀ i good, exec i s = .next (completeEntry s b r good) → chain i good := by
    intro i good hi j w ha hw ho hs x bad hbad ret gone left hne hall
    have hg : gone = (markedList s b r good).takeWhile (retires w) := congrArg _ (hm good)
    have hd : left = (markedList s b r good).dropWhile (retires w) := congrArg _ (hm good)
    rw [hg] at hne
    simp only [hg] at hall
    obtain ⟨u, he, hc, hp, hst⟩ := completeEntry_chain ha hw ho hs hbad hne hall
    rw [← hg, ← hd] at hc
    rw [← hg] at hst
    have hcomp : Completed gone := by rw [hg]; exact completed_takeWhile w _
    have E := hc.ended
    refine ⟨afterRetirement u j, by rw [hi, he], E.list, E.others, fun i _ => ⟨fun h => E.standing h i, E.zone i⟩,
      fun i _ hfail => ?_, fun h => ?_, fun h => ?_, E.bad, fun hl => ?_, fun hl hk h8 hi => ?_⟩
    · obtain ⟨k1, k2, k3, k4⟩ := zoneAfterAll_counts hfail hcomp
      have z := E.zone i
      refine ⟨?_, fun h => ?_, ?_, fun h => ?_⟩
      · rw [z]; exact k1
      · rw [E.standing h]; exact k2
      · rw [z]; exact k3
      · rw [z]; exact k4 h
    · rw [E.failedStripes]; exact totalled_failedStripes h hcomp
    · rw [E.mismatched]; exact totalled_mismatched h hcomp
    · have hgn : gone ≠ [] := by rw [hg]; exact hne
      exact hc.entriesLeft hgn hl hst hp
    · have R := hc.retiring (activeJob_spec ha).2 hp
      rw [hst, hl] at R
      have hy := hc.running
      rw [hst] at hy
      exact R.followed hk h8 hi hy
  exact ⟨fun status d => ⟨hcompletes _ _ (exec_entry_completion hf hl status d),
      hchain _ _ (exec_entry_completion hf hl status d)⟩,
    fun hab => ⟨hcompletes _ _ (exec_entry_confirmation hf hl hab), hchain _ _ (exec_entry_confirmation hf hl hab)⟩⟩

end Sys2Proof.Proofs
end

section
/-! One head retires with its own completion, settled: its zone, its job, and what follows (R25, R44, R92, R93, R98,
R99, R113). -/

namespace Sys2Proof.Proofs

open Sys2Proof Sys2Proof.Machine Sys2Proof.Safety

/-! ### The marked head -/

/-- The head of a list with its completion marked (R43). -/
def markedHead (s : State) (r : Record) (good : Bool) (e : Entry) : Entry :=
  { e with slot := none, status := if good then .doneGood else .doneError
           mismatched := recordedMismatches s r.slot good }

theorem markedList_head {s : State} {b : BayId} {r : Record} {e : Entry} {rest : List Entry} (hl : s.list b = e :: rest)
    (he : e.request = r.id) (hn : ∀ q ∈ rest, q.request ≠ r.id) (good : Bool) :
    markedList s b r good = markedHead s r good e :: rest := by
  unfold markedList
  rw [hl, List.map_cons, if_pos he]
  congr 1
  exact (List.map_congr_left fun q hq => if_neg (hn q hq)).trans (List.map_id _)

/-- A held read's judgement stands where the run goes on and the bays stand (R4, R99). -/
theorem judgeHeld_runGoes {b : BayId} {j : JobId} {s t : State} (h : RunGoes b j s t)
    (ha : (s.job j).state.active = true) (hp : t.ports = s.ports) (c : PassCommand) : judgeHeld t c = judgeHeld s c := by
  have f := h.frame
  refine judgeHeld_congr f.tables (fun k => ?_) (fun d => ⟨?_, ?_, ?_, fun i => ?_⟩) (fun d => ?_) c
  · by_cases hk : k = j
    · subst hk
      refine ⟨h.active.trans ha.symm, ?_, ?_⟩ <;> rw [f.job]
    · rw [f.others k hk]; exact ⟨rfl, rfl, rfl⟩
  · rw [f.map d]
  · rw [f.map d]
  · rw [f.map d]
  · rw [f.zone d i]; exact ⟨rfl, rfl⟩
  · unfold State.port; rw [hp]; exact ⟨rfl, rfl⟩

/-! ### The zone of the head -/

section
variable {w : WalkContext} {i : Nat} {z : ZoneEntry} {e : Entry} (hz : e.zone = some i) (hs : e.status = .doneGood)
include hz hs

/-- A GOOD overwrite turns a zone WRITTEN with its last stripe (R92). -/
theorem zoneAfter_good_overwrite (hk : e.kind = .overwrite) :
    (zoneAfter w i z e).state = (if decide (z.state = .writing ∧ z.done + 1 = z.due) = true then .written else z.state) ∧
    (zoneAfter w i z e).pass = if decide (z.state = .writing ∧ z.done + 1 = z.due) = true then some w.pass else z.pass := by
  unfold zoneAfter
  dsimp only
  rw [if_neg (by simp [hz]), if_neg (by simp [hs]), hk]
  dsimp only
  by_cases hc : z.state = .writing ∧ z.done + 1 = z.due
  · rw [if_pos hc, if_pos (decide_eq_true hc), if_pos (decide_eq_true hc)]; exact ⟨rfl, rfl⟩
  · rw [if_neg hc, if_neg (by simpa using hc), if_neg (by simpa using hc)]; exact ⟨rfl, rfl⟩

/-- A GOOD verify counts its mismatches and turns a zone MISMATCHED or, with its last sample, VERIFIED (R93). -/
theorem zoneAfter_good_verify (hk : e.kind = .verify) :
    (zoneAfter w i z e).mismatch = min 255 (z.mismatch + e.mismatched) ∧
    (zoneAfter w i z e).state =
      if z.state = .written ∨ z.state = .verified ∨ z.state = .mismatched then
        if 0 < e.mismatched then .mismatched
        else if z.state = .written ∧ z.done + 1 = dueWork w i z then .verified
        else z.state
      else z.state := by
  unfold zoneAfter
  dsimp only
  rw [if_neg (by simp [hz]), if_neg (by simp [hs]), hk]
  exact ⟨rfl, rfl⟩
end

/-! ### One retirement -/

section
variable {s : State} {b : BayId} {r : Record} {j : JobId} {w : WalkContext} {e : Entry} {rest : List Entry} {i : Nat}
  {good : Bool}

/-- A chain of one entry in the words of Safety.lean (R44, R92, R93, R98). -/
theorem headRetired_of_ended {t : State}
    (h : ChainEnded b j w [markedHead s r good e] rest s t) (hz : e.zone = some i) :
    HeadRetired b j w e i good (recordedMismatches s r.slot good) s t := by
  have hzone : t.zone b i = { zoneAfter w i (s.zone b i) (markedHead s r good e) with done := (t.zone b i).done } :=
    h.zone i
  have hz' : (markedHead s r good e).zone = some i := hz
  obtain ⟨hout, -, -⟩ := zoneAfter_counts (w := w) (z := s.zone b i) hz'
  have hfailed : (t.job j).failedStripes = (addTotals (decide ((markedHead s r good e).status = .doneGood))
    (markedHead s r good e) (s.job j)).failedStripes := h.failedStripes
  have hmis : (t.job j).mismatched = (addTotals (decide ((markedHead s r good e).status = .doneGood))
    (markedHead s r good e) (s.job j)).mismatched := h.mismatched
  refine ⟨h.others, by rw [hzone]; exact hout, fun hg => ?_, fun hg hk => ?_, fun hg hk => ?_, fun k hk => ?_, h.bad⟩
  · subst hg
    have k := zoneAfter_failed (w := w) (z := s.zone b i) hz' nofun
    rw [hfailed, hzone, k]
    exact ⟨rfl, rfl, rfl⟩
  · subst hg
    rw [hzone]
    exact zoneAfter_good_overwrite hz' rfl hk
  · subst hg
    obtain ⟨k1, k2⟩ := zoneAfter_good_verify (w := w) (z := s.zone b i) hz' rfl hk
    rw [hmis, hzone]
    exact ⟨k1, rfl, k2⟩
  · have hzk : t.zone b k = { zoneAfter w k (s.zone b k) (markedHead s r good e) with done := (t.zone b k).done } := h.zone k
    rw [zoneAfter_other (by rw [hz']; exact fun x => hk (Option.some.inj x).symm)] at hzk
    rw [hzk]
    exact ⟨rfl, rfl, rfl⟩

variable (ha : activeJob s b = some j) (hw : s.context b = some w) (ho : (s.map b).owner = some j)
  (hs : (s.job j).state = .running ∨ ∃ q, (s.job j).state = .draining q)
  (hbad : (s.job j).badZones = badZones (s.map b)) (hm : markedList s b r good = markedHead s r good e :: rest)
  (hr : retires w (markedHead s r good e) = true) (hk : e.kind ≠ .nativeErase) (hz : e.zone = some i)
  (hi : i < (s.map b).entries.length) (hrest : ∀ q, rest.head? = some q → retires w q = false)
include ha hw ho hs hbad hm hr hk hz hi hrest

/-- The marked head alone retires: the state behind it, and what follows (R44). -/
theorem completeEntry_head : ∃ u, completeEntry s b r good = afterRetirement u j ∧
    Chain b j w [markedHead s r good e] rest s u ∧ (u.job j).permille = permilleOf u b w ∧
    (u.job j).state = (s.job j).state ∧
    ((s.zone b i).state ≠ (zoneAfter w i (s.zone b i) (markedHead s r good e)).state ∨
      ((s.zone b i).out ≠ 0 ∧ (zoneAfter w i (s.zone b i) (markedHead s r good e)).out = 0) → JudgedAgain b s u) := by
  have hc := chain_marking ha hw ho hs hbad r good
  have hwalk := completeEntry_walks (s := s) (b := b) (r := r) (good := good)
    (by rw [hm]; intro q hq; cases hq; exact hk)
  rw [hm] at hc hwalk
  have hlast := retireAll_last (n := rest.length) hc (comparedState_nil ..).symm hr ⟨hk, i, hz, hi⟩ hrest
  obtain ⟨h1, h2, h3⟩ := hc.retire hk hz hi
  have h4 := head_headRetired (m := marking s b r good) (rest := rest) (w := w) (e := markedHead s r good e)
    (activeJob_spec hc.active).2 hc.owner hk hz
  exact ⟨_, hwalk.trans hlast, h1, h2, h3, h4.judged⟩

/-- Everything one retirement leaves (R25, R44, R92, R93, R98, R99). -/
theorem retirement_of_head (hwk : w.kind ≠ .nativeErase) (h8 : (s.program (s.job j).program).length ≤ 8)
    (hp : (s.job j).passIndex < (s.job j).passEnds.length) :
    let t := completeEntry s b r good
    t.list b = rest ∧ HeadRetired b j w e i good (recordedMismatches s r.slot good) s t ∧
      ((t.job j).passIndex = (s.job j).passIndex →
        (t.zone b i).done = (s.zone b i).done + 1 ∧ ∀ k, k ≠ i → (t.zone b k).done = (s.zone b k).done) ∧
      (((t.zone b i).state ≠ (s.zone b i).state ∨ (s.zone b i).out = 1) → (t.job j).state = (s.job j).state →
        JudgedAgain b s t) ∧
      RetirementFollowed b j w (s.job j).state rest s t := by
  obtain ⟨u, hu, hc, hperm, hst, hjudged⟩ := completeEntry_head ha hw ho hs hbad hm hr hk hz hi hrest
  have R := hc.retiring (activeJob_spec ha).2 hperm
  rw [hst] at R
  have E := hc.ended
  have hz' : (markedHead s r good e).zone = some i := hz
  obtain ⟨hout, hdone, -⟩ := zoneAfter_counts (w := w) (z := s.zone b i) hz'
  have hact : (u.job j).state.active = true := JobState.active_of_running hc.running
  dsimp only
  rw [hu]
  refine ⟨E.list, headRetired_of_ended E hz, fun h => ⟨?_, fun k hk => ?_⟩, fun h hstate => ?_,
    R.followed hwk h8 hp hs⟩
  · rw [E.standing h]; exact hdone
  · rw [E.standing h]
    exact congrArg ZoneEntry.done (zoneAfter_other (w := w) (by rw [hz']; exact fun x => hk (Option.some.inj x).symm) _)
  · have path := R.samePath hwk h8 hp hs hstate
    have hsame : ((afterRetirement u j).zone b i).state =
        (zoneAfter w i (s.zone b i) (markedHead s r good e)).state := by rw [E.zone]; rfl
    rw [hsame] at h
    exact judgedAgain_behind (hjudged (h.imp Ne.symm fun h => ⟨by omega, by rw [hout]; omega⟩)) path
      (judgeHeld_runGoes (runGoes_afterRetirement R.jobBay hact) hact path.ports)
end

/-- Settles O48: a chain of one entry, and what follows a retirement in every state of its job. -/
theorem retirementUpdatesZoneAndJob : Obligations.RetirementUpdatesZoneAndJob := by
  intro s b id r j w e rest i hf hl ha hw hlist he hn hk hz hwk hi ho hbad hrest h8 hp x hs retired
  have hid := findRecord_id hf
  have hm := markedList_head (r := r) hlist (he.trans hid.symm) (fun q hq => hid ▸ hn q hq)
  have hstands : ∀ q, rest.head? = some q → retires w q = false := fun q hq => by
    unfold retires
    rcases hrest q hq with h | h <;> rw [h] <;> rfl
  have hretired : ∀ command good, exec command s = .next (completeEntry s b r good) →
      retires w (markedHead s r good e) = true → retired command good := by
    intro command good hc hr
    have k := retirement_of_head ha hw ho hs hbad (hm good) hr hk hz hi hstands hwk h8 hp
    have hmis : recordedMismatches s r.slot good = match r.slot with
        | some k => if good = true ∧ (s.slot k).mode = .compare then finalMismatches (s.slot k) else 0
        | none => 0 := by
      cases r.slot <;> rfl
    rw [hmis] at k
    exact ⟨_, hc, k⟩
  have spent (h : w.retryLimit < e.attempt) : retires w (markedHead s r false e) = true := by
    unfold retires markedHead
    simp [h]
  refine ⟨fun d => hretired _ _ (exec_entry_completion hf hl .good d) (by simp [retires, markedHead]), fun hspent =>
    ⟨fun status d hg => hretired _ _ ?_ (spent hspent), fun hab => hretired _ _ (exec_entry_confirmation hf hl hab)
      (spent hspent)⟩⟩
  rw [exec_entry_completion hf hl, decide_eq_false hg]

end Sys2Proof.Proofs
end

section
/-! The settings: what the server sets up and what runs beside it, as one value. Below the commands that write them
nothing but the start of a run touches them; each operation is said to leave them once, in the order of the model. -/

namespace Sys2Proof.Proofs

open Sys2Proof Sys2Proof.Machine Sys2Proof.Safety

/-- The commands still to be taken, the link, the tables, the clock and the run counter. -/
structure Settings where
  pending : List Instr
  link : Link
  tables : Tables
  clock : Word
  runCounter : Word

/-- The settings of a state. -/
def settings (s : State) : Settings :=
  { pending := s.pending, link := s.link, tables := s.tables, clock := s.clock, runCounter := s.runCounter }

/-! ### Named updates, and folds of operations -/

section
variable (s : State)
@[simp] theorem settings_putJob (j : JobId) (x : Job) : settings (s.putJob j x) = settings s := rfl
@[simp] theorem settings_modJob (j : JobId) (f : Job → Job) : settings (s.modJob j f) = settings s := rfl
@[simp] theorem settings_modPort (b : BayId) (f : BayPort → BayPort) : settings (s.modPort b f) = settings s := rfl
@[simp] theorem settings_putMap (b : BayId) (x : CoverageMap) : settings (s.putMap b x) = settings s := rfl
@[simp] theorem settings_putContext (b : BayId) (x : Option WalkContext) : settings (s.putContext b x) = settings s := rfl
@[simp] theorem settings_modContext (b : BayId) (f : WalkContext → WalkContext) :
    settings (s.modContext b f) = settings s := rfl
@[simp] theorem settings_putList (b : BayId) (x : List Entry) : settings (s.putList b x) = settings s := rfl
@[simp] theorem settings_putSlot (k : SlotId) (x : Slot) : settings (s.putSlot k x) = settings s := rfl
@[simp] theorem settings_modSlot (k : SlotId) (f : Slot → Slot) : settings (s.modSlot k f) = settings s := rfl
@[simp] theorem settings_putAttention (b : BayId) (x : AttentionSet) : settings (s.putAttention b x) = settings s := rfl
@[simp] theorem settings_putTag (t : Tag) (x : Bool) : settings (s.putTag t x) = settings s := rfl
@[simp] theorem settings_signal (d : DriveSignal) : settings (s.signal d) = settings s := rfl
@[simp] theorem settings_putWait (x : List PassCommand) : settings (s.putWait x) = settings s := rfl
@[simp] theorem settings_putHold (x : List PassCommand) : settings (s.putHold x) = settings s := rfl
@[simp] theorem settings_putManagement (x : List ManagementCommand) : settings (s.putManagement x) = settings s := rfl
@[simp] theorem settings_putTaking (x : Option ManagementCommand) : settings (s.putTaking x) = settings s := rfl
@[simp] theorem settings_putGrantPointer (x : BayId) : settings (s.putGrantPointer x) = settings s := rfl
@[simp] theorem settings_putStore (x : List CertificateRecord) : settings (s.putStore x) = settings s := rfl
@[simp] theorem settings_putBuilding (x : List PendingRecord) : settings (s.putBuilding x) = settings s := rfl
@[simp] theorem settings_bumpStamp : settings s.bumpStamp = settings s := rfl
end

/-- Operations that leave the settings leave them when they are carried out one after the other. -/
theorem settings_foldl {α : Type} {f : State → α → State} (h : ∀ s x, settings (f s x) = settings s) (xs : List α) :
    ∀ s, settings (xs.foldl f s) = settings s := by
  induction xs with
  | nil => exact fun _ => rfl
  | cons x xs ih => exact fun s => (ih _).trans (h s x)

/-! ### Frames, flags, slots and requests -/

section
variable (s : State) (b : BayId)

@[simp] theorem settings_send (f : OutFrame) : settings (send s f) = settings s := by rw [send_eq]; rfl

@[simp] theorem settings_respond (n : Nat) (t : Tag) (o : Byte) (st : ResponseStatus) (x : Bool) :
    settings (respond s n t o st x) = settings s := by rw [respond_eq]; rfl

@[simp] theorem settings_answer (c : PassCommand) (st : ResponseStatus) : settings (answer s c st) = settings s :=
  settings_respond ..

@[simp] theorem settings_reply (c : ManagementCommand) (d : Disposition) (data : ReplyData) :
    settings (reply s c d data) = settings s := by rw [reply_eq]; rfl

@[simp] theorem settings_accept (c : ManagementCommand) : settings (accept s c) = settings s := settings_reply ..

@[simp] theorem settings_refuse (c : ManagementCommand) (r : Reason) : settings (refuse s c r) = settings s :=
  settings_reply ..

@[simp] theorem settings_raise (k : AttentionKind) : settings (raise s b k) = settings s := by rw [raise_frame]; rfl

@[simp] theorem settings_refreshIndicator : settings (refreshIndicator s b) = settings s := by
  rw [refreshIndicator_frame]; rfl

@[simp] theorem settings_freeSlot (k : Option SlotId) : settings (freeSlot s k) = settings s := by cases k <;> rfl

@[simp] theorem settings_freeSlots (rs : List Record) : settings (freeSlots s rs) = settings s :=
  settings_foldl (f := fun s (r : Record) => freeSlot s r.slot) (fun _ _ => settings_freeSlot ..) rs s

@[simp] theorem settings_dropRecord (n : Nat) : settings (dropRecord s b n) = settings s := rfl

@[simp] theorem settings_updateRecord (n : Nat) (f : Record → Record) : settings (updateRecord s b n f) = settings s :=
  rfl

@[simp] theorem settings_issueRequest (o : Origin) (r : Request) (c : Option OpClass) (l : RequestLink)
    (k : Option SlotId) (n : Nat) : settings (issueRequest s b o r c l k n) = settings s := rfl

/-! ### The command filter -/

@[simp] theorem settings_joinWait (c : PassCommand) : settings (joinWait s c) = settings s := rfl

@[simp] theorem settings_joinHold (c : PassCommand) : settings (joinHold s c) = settings s := by
  unfold joinHold
  split
  · simp
  · split <;> simp

@[simp] theorem settings_carryOut (c : PassCommand) (v : Verdict) : settings (carryOut s c v) = settings s := by
  cases v <;> simp [carryOut]

@[simp] theorem settings_reevaluate : settings (reevaluate s b) = settings s := by rw [reevaluate_frame]; rfl

@[simp] theorem settings_answerLeaving : settings (answerLeaving s b) = settings s :=
  settings_foldl (fun _ _ => settings_answer ..) _ _

@[simp] theorem settings_issueCommand (c : PassCommand) (k : SlotId) : settings (issueCommand s c k) = settings s := by
  unfold issueCommand
  dsimp only
  split <;> simp

theorem settings_grantPassthrough (k : SlotId) (cs : List PassCommand) :
    ∀ s, settings (grantPassthrough k cs s) = settings s := by
  induction cs with
  | nil => exact fun _ => rfl
  | cons c cs ih =>
    intro s
    unfold grantPassthrough
    split
    · dsimp only
      split <;> simp [ih]
    · exact ih s

/-! ### The coverage store -/

@[simp] theorem settings_putEntries (es : List ZoneEntry) : settings (putEntries s b es) = settings s := rfl

@[simp] theorem settings_reportBadZones : settings (reportBadZones s b) = settings s := by
  unfold reportBadZones; split <;> rfl

@[simp] theorem settings_changeZone (i : Nat) (f : ZoneEntry → ZoneEntry) :
    settings (changeZone s b i f) = settings s := by
  unfold changeZone
  dsimp only
  split <;> split <;> simp

@[simp] theorem settings_changeAllZones (f : ZoneEntry → ZoneEntry) : settings (changeAllZones s b f) = settings s := by
  simp [changeAllZones]

@[simp] theorem settings_clearMap : settings (clearMap s b) = settings s := by simp [clearMap]

/-! ### Units and passes -/

variable (j : JobId)

@[simp] theorem settings_startPass (i : Nat) : settings (startPass s j i) = settings s := by
  unfold startPass
  dsimp only
  split <;> simp

@[simp] theorem settings_beginUnit : settings (beginUnit s j) = settings s := by
  unfold beginUnit
  dsimp only
  split
  · simp
  · split <;> simp

@[simp] theorem settings_recordResume : settings (recordResume s j) = settings s := rfl

@[simp] theorem settings_takeResume : settings (takeResume s b) = settings s := rfl

@[simp] theorem settings_recordPassEnd : settings (recordPassEnd s j) = settings s := by simp [recordPassEnd]

@[simp] theorem settings_clearLatch : settings (clearLatch s j) = settings s := rfl

/-! ### Changes of job state -/

@[simp] theorem settings_disown : settings (disown s b j) = settings s := by unfold disown; split <;> rfl

@[simp] theorem settings_changeJob (x : Job) : settings (changeJob s j x) = settings s := by
  unfold changeJob
  dsimp only
  split <;> split <;> simp

@[simp] theorem settings_enterFinishing (o : RunOutcome) : settings (enterFinishing s j o) = settings s := by
  simp [enterFinishing]

@[simp] theorem settings_enterHalted (r : HaltReason) : settings (enterHalted s j r) = settings s := by
  simp [enterHalted]

@[simp] theorem settings_enterTarget (t : DrainTarget) : settings (enterTarget s j t) = settings s := by
  cases t <;> simp [enterTarget]

@[simp] theorem settings_settleDrain : settings (settleDrain s j) = settings s := by
  unfold settleDrain
  split
  · split <;> simp
  · rfl

@[simp] theorem settings_enterDraining (t : DrainTarget) : settings (enterDraining s j t) = settings s := by
  simp [enterDraining]

@[simp] theorem settings_haltOrRetarget (r : HaltReason) : settings (haltOrRetarget s j r) = settings s := by
  unfold haltOrRetarget
  split <;> simp

@[simp] theorem settings_dropEntry (e : Entry) : settings (dropEntry b s e) = settings s := by
  unfold dropEntry
  dsimp only
  split <;> simp

@[simp] theorem settings_abandonList : settings (abandonList s b) = settings s := by
  unfold abandonList
  dsimp only
  rw [settings_foldl fun _ _ => settings_dropEntry ..]
  split
  · split <;> simp
  · simp

theorem settings_beginPass (n : Nat) : ∀ (s : State) (i : Nat), settings (beginPass n s j i) = settings s := by
  induction n with
  | zero => exact fun _ _ => rfl
  | succ n ih =>
    intro s i
    unfold beginPass
    dsimp only
    split
    · simp
    · split <;> simp [ih]

@[simp] theorem settings_followPass : settings (followPass s j) = settings s := by
  unfold followPass
  split <;> simp [settings_beginPass]

@[simp] theorem settings_useTrigger : settings (useTrigger s j) = settings s := by
  unfold useTrigger
  split <;> simp [settings_beginPass]

/-! ### Units, tolerance and retirement -/

@[simp] theorem settings_passEndWhileDraining (t : DrainTarget) :
    settings (passEndWhileDraining s j t) = settings s := by
  unfold passEndWhileDraining
  dsimp only
  split
  · split <;> simp
  · simp

@[simp] theorem settings_completeUnit : settings (completeUnit s j) = settings s := by
  unfold completeUnit
  dsimp only
  split
  · split
    · split <;> simp
    · simp
  · split <;> simp
  · simp

@[simp] theorem settings_judgeUnit : settings (judgeUnit s j) = settings s := by
  unfold judgeUnit
  dsimp only
  split
  · split <;> simp
  · rfl

@[simp] theorem settings_compareTolerance : settings (compareTolerance s j) = settings s := by
  unfold compareTolerance
  dsimp only
  split
  · split <;> simp
  · rfl

@[simp] theorem settings_afterRetirement : settings (afterRetirement s j) = settings s := by simp [afterRetirement]

@[simp] theorem settings_retireZone (w : WalkContext) (e : Entry) (g : Bool) :
    settings (retireZone s b w e g) = settings s := by
  unfold retireZone
  split <;> simp

@[simp] theorem settings_retireHead (w : WalkContext) (e : Entry) (rest : List Entry) :
    settings (retireHead s b j w e rest) = settings s := by
  simp [retireHead, refreshProgress]

theorem settings_retireAll (n : Nat) : ∀ s, settings (retireAll n s b) = settings s := by
  induction n with
  | zero => exact fun _ => rfl
  | succ n ih =>
    intro s
    unfold retireAll
    split
    · split
      · exact (ih _).trans (settings_retireHead ..)
      · rfl
    all_goals rfl

/-! ### Preparation -/

@[simp] theorem settings_failPreparation (e : StartError) : settings (failPreparation s j e) = settings s := by
  simp [failPreparation]

@[simp] theorem settings_beginScan (d : DriveIdentity) : settings (beginScan s j d) = settings s := by simp [beginScan]

@[simp] theorem settings_advancePreparation : settings (advancePreparation s j) = settings s := by
  unfold advancePreparation
  dsimp only
  split
  · split
    · rfl
    · split <;> simp
  · rfl

@[simp] theorem settings_enterPreparing : settings (enterPreparing s j) = settings s := by simp [enterPreparing]

@[simp] theorem settings_recheckPreparation : settings (recheckPreparation s b) = settings s := by
  unfold recheckPreparation
  split <;> simp

@[simp] theorem settings_returnToWaiting (p : Preparation) : settings (returnToWaiting s j p) = settings s := by
  unfold returnToWaiting
  dsimp only
  split <;> simp

@[simp] theorem settings_jobLosesBay (r : HaltReason) : settings (jobLosesBay s b r) = settings s := by
  unfold jobLosesBay
  split
  · split <;> simp
  · rfl

/-- The start of a run alone moves the run counter: it numbers the run (R7, R173). -/
theorem settings_beginRun : settings (beginRun s j) = { settings s with runCounter := s.runCounter + 1 } := by
  unfold beginRun
  dsimp only
  rw [settings_beginPass, settings_changeJob, settings_putMap]
  rfl

theorem settings_completeScan :
    settings (completeScan s j) = { settings s with runCounter := s.runCounter + 1 } := by
  unfold completeScan
  dsimp only
  rw [settings_beginRun, settings_reevaluate, settings_putEntries, reevaluate_runCounter]
  rfl

/-- A step of the scan leaves the settings, but for the run counter where the run begins behind it. -/
theorem settings_scanStep (n e : Nat) (g : Geometry) :
    ∃ r, settings (scanStep s j n e g) = { settings s with runCounter := r } := by
  unfold scanStep
  dsimp only
  split
  · exact ⟨_, settings_completeScan ..⟩
  · split
    · exact ⟨s.runCounter, (settings_failPreparation ..).trans (settings_clearMap ..)⟩
    · split
      · exact ⟨s.runCounter, rfl⟩
      · exact ⟨_, settings_completeScan ..⟩

/-! ### Drive requests and bays -/

@[simp] theorem settings_updateEntry (n : Nat) (f : Entry → Entry) : settings (updateEntry s b n f) = settings s := rfl

@[simp] theorem settings_nativeEraseFailed : settings (nativeEraseFailed s b) = settings s := by
  unfold nativeEraseFailed
  dsimp only
  split <;> simp

@[simp] theorem settings_completeEntry (r : Record) (g : Bool) : settings (completeEntry s b r g) = settings s := by
  have settled (u : State) :
      settings (if nativeHeadFailed u b then nativeEraseFailed u b else retireAll (u.list b).length u b) =
        settings u := by
    split
    · exact settings_nativeEraseFailed ..
    · exact settings_retireAll ..
  unfold completeEntry
  dsimp only
  rw [settled, settings_updateEntry, settings_freeSlot, settings_dropRecord]

@[simp] theorem settings_issueIdentify : settings (issueIdentify s b) = settings s := rfl

@[simp] theorem settings_setBayState (st : BayState) : settings (setBayState s b st) = settings s := by
  simp [setBayState]

@[simp] theorem settings_enterFaulted (r : FaultReason) (d : Option DriveIdentity) :
    settings (enterFaulted s b r d) = settings s := by simp [enterFaulted]

@[simp] theorem settings_enterReady (d : DriveIdentity) : settings (enterReady s b d) = settings s := by
  unfold enterReady
  dsimp only
  split
  · simp
  · split
    · simp
    · split <;> simp
    · simp

@[simp] theorem settings_failIdentify : settings (failIdentify s b) = settings s := by
  unfold failIdentify
  split <;> simp

@[simp] theorem settings_judgeIdentify (d : DriveIdentity) : settings (judgeIdentify s b d) = settings s := by
  unfold judgeIdentify
  split <;> simp

@[simp] theorem settings_completeCommand (r : Record) (c : PassCommand) (x : Bool) (st : ResponseStatus) :
    settings (completeCommand s b r c x st) = settings s := by
  unfold completeCommand
  dsimp only
  split <;> simp

@[simp] theorem settings_takeCompletion (r : Record) (st : CompletionStatus) (d : DriveIdentity) :
    settings (takeCompletion s b r st d) = settings s := by
  unfold takeCompletion
  split
  · simp
  · dsimp only
    split <;> simp
  · simp

@[simp] theorem settings_takeConfirmation (r : Record) : settings (takeConfirmation s b r) = settings s := by
  unfold takeConfirmation
  split <;> simp

@[simp] theorem settings_expireT1 (r : Record) : settings (expireT1 s b r) = settings s := by
  unfold expireT1
  dsimp only
  split <;> simp

@[simp] theorem settings_abandonQueue (st : ResponseStatus) : settings (abandonQueue s b st) = settings s := by
  have answered (u : State) (r : Record) : settings (answerAbandoned b st u r) = settings u := by
    unfold answerAbandoned
    split
    · split <;> simp
    · rfl
    · rfl
  unfold abandonQueue
  dsimp only
  rw [settings_foldl answered]
  simp

@[simp] theorem settings_selectiveReset (c : ResetCause) : settings (selectiveReset s b c) = settings s := by
  simp [selectiveReset]

@[simp] theorem settings_removeDrive : settings (removeDrive s b) = settings s := by simp [removeDrive]

@[simp] theorem settings_completeInsertion : settings (completeInsertion s b) = settings s := by
  simp [completeInsertion]

@[simp] theorem settings_seat : settings (seat s b) = settings s := by
  unfold seat
  dsimp only
  split <;> simp

/-! ### Grants -/

@[simp] theorem settings_issueStripe (w : WalkContext) (k : SlotId) (x : Stripe) :
    settings (issueStripe s b j w k x) = settings s := rfl

@[simp] theorem settings_moveCursor (w : WalkContext) (p : Position) : settings (moveCursor s j w p) = settings s := by
  unfold moveCursor
  dsimp only
  split <;> rfl

@[simp] theorem settings_issueNewStripe (w : WalkContext) (k : SlotId) (x : Stripe) (p : Position) :
    settings (issueNewStripe s b j w k x p) = settings s := by simp [issueNewStripe]

@[simp] theorem settings_reissueStripe (w : WalkContext) (k : SlotId) (e : Entry) :
    settings (reissueStripe s b j w k e) = settings s := by simp [reissueStripe]

@[simp] theorem settings_grantEngine : settings (grantEngine s) = settings s := by
  unfold grantEngine
  split
  · dsimp only
    split <;> simp
  · rfl

@[simp] theorem settings_sendNativeErase (w : WalkContext) : settings (sendNativeErase s b w) = settings s := rfl

@[simp] theorem settings_nativeEraseStep : settings (nativeEraseStep s b) = settings s := by
  unfold nativeEraseStep
  dsimp only
  split
  · rfl
  · split
    · split
      · split
        · split <;> simp [issueNativeErase]
        · split <;> simp [reissueNativeErase]
      · rfl
    · rfl

/-! ### Certificates, resets and the link -/

@[simp] theorem settings_placeRecord (r : CertificateRecord) : settings (placeRecord s r) = settings s := by
  simp [placeRecord]

@[simp] theorem settings_fillPlace : settings (fillPlace s) = settings s := by
  unfold fillPlace
  split <;> simp

@[simp] theorem settings_completeBuild : settings (completeBuild s j) = settings s := by
  unfold completeBuild
  dsimp only
  split <;> simp

@[simp] theorem settings_warmReset : settings (warmReset s) = settings s := by
  unfold warmReset samplePresence resetPorts
  rw [settings_foldl, settings_foldl]
  · rfl
  · exact fun _ _ => rfl
  · intro s b
    split <;> simp

end

end Sys2Proof.Proofs
end

section
/-! Only their own commands and a cold reset write the settings: what every command leaves of them, and that an
in-flight list never outgrows a legal depth (R41, R42, R141). -/

namespace Sys2Proof.Proofs

open Sys2Proof Sys2Proof.Machine Sys2Proof.Safety

/-! ### Work that leaves the in-flight lists alone -/

section
variable (s : State) (b : BayId) (j : JobId)

@[simp] theorem reply_inFlight (c : ManagementCommand) (d : Disposition) (data : ReplyData) :
    (reply s c d data).inFlight = s.inFlight := by rw [reply_eq]

@[simp] theorem accept_inFlight (c : ManagementCommand) : (accept s c).inFlight = s.inFlight := reply_inFlight ..

@[simp] theorem refuse_inFlight (c : ManagementCommand) (r : Reason) : (refuse s c r).inFlight = s.inFlight :=
  reply_inFlight ..

@[simp] theorem clearMap_inFlight : (clearMap s b).inFlight = s.inFlight := by simp [clearMap]

@[simp] theorem startPass_inFlight (i : Nat) : (startPass s j i).inFlight = s.inFlight := by
  unfold startPass
  dsimp only
  split <;> rfl

@[simp] theorem beginUnit_inFlight : (beginUnit s j).inFlight = s.inFlight := by
  unfold beginUnit
  dsimp only
  split
  · rfl
  · split <;> rfl

@[simp] theorem recordResume_inFlight : (recordResume s j).inFlight = s.inFlight := rfl

@[simp] theorem takeResume_inFlight : (takeResume s b).inFlight = s.inFlight := rfl

@[simp] theorem clearLatch_inFlight : (clearLatch s j).inFlight = s.inFlight := rfl

@[simp] theorem recordPassEnd_inFlight : (recordPassEnd s j).inFlight = s.inFlight := by simp [recordPassEnd]

@[simp] theorem enterFinishing_inFlight (o : RunOutcome) : (enterFinishing s j o).inFlight = s.inFlight := by
  simp [enterFinishing]

@[simp] theorem enterHalted_inFlight (r : HaltReason) : (enterHalted s j r).inFlight = s.inFlight := by
  simp [enterHalted]

@[simp] theorem enterDraining_inFlight (t : DrainTarget) : (enterDraining s j t).inFlight = s.inFlight := by
  have entered (u : State) (t : DrainTarget) : (enterTarget u j t).inFlight = u.inFlight := by
    cases t <;> simp [enterTarget]
  unfold enterDraining settleDrain
  split
  · split <;> simp [entered]
  · simp

theorem beginPass_inFlight (n : Nat) : ∀ (s : State) (i : Nat), (beginPass n s j i).inFlight = s.inFlight := by
  induction n with
  | zero => exact fun _ _ => rfl
  | succ n ih =>
    intro s i
    unfold beginPass
    dsimp only
    split
    · simp
    · split <;> simp [ih]

@[simp] theorem useTrigger_inFlight : (useTrigger s j).inFlight = s.inFlight := by
  unfold useTrigger
  split <;> simp [beginPass_inFlight]

@[simp] theorem enterPreparing_inFlight : (enterPreparing s j).inFlight = s.inFlight := by
  unfold enterPreparing advancePreparation
  dsimp only
  split
  · split
    · simp
    · split <;> simp [failPreparation, beginScan]
  · simp

@[simp] theorem fillPlace_inFlight : (fillPlace s).inFlight = s.inFlight := by
  unfold fillPlace
  split <;> simp [placeRecord]

end

/-! ### Changes that leave settings and lists, or write the tables alone -/

/-- Neither the settings nor the in-flight lists change. -/
def Untouched (s t : State) : Prop := settings t = settings s ∧ t.inFlight = s.inFlight

/-- Of the settings the tables alone change, and the in-flight lists stand. -/
def TablesAlone (s t : State) : Prop :=
  settings t = { settings s with tables := t.tables } ∧ t.inFlight = s.inFlight

theorem Untouched.refl (s : State) : Untouched s s := ⟨rfl, rfl⟩

theorem Untouched.trans {s t u : State} (h : Untouched s t) (k : Untouched t u) : Untouched s u :=
  ⟨k.1.trans h.1, k.2.trans h.2⟩

theorem Untouched.tables {s t : State} (h : Untouched s t) : t.tables = s.tables := congrArg Settings.tables h.1

theorem Untouched.tablesAlone {s t u : State} (h : Untouched s t) (k : TablesAlone t u) : TablesAlone s u :=
  ⟨by rw [k.1, h.1], k.2.trans h.2⟩

/-- A refused or empty effect writes no table. -/
theorem TablesAlone.of_untouched {s t : State} (h : Untouched s t) : TablesAlone s t :=
  ⟨by rw [h.1, h.tables]; rfl, h.2⟩

/-- A management command does nothing, or its effect on a state without the command taken. -/
theorem takeManagement_rule {i : Instr} {s : State} {effect : ManagementCommand → State → State} {Q : State → Prop}
    (stands : Q s) (acts : ∀ c u, Untouched s u → managementInstr c.code c.payload = i → Q (effect c u)) :
    Q (takeManagement i s effect) := by
  rcases takeManagement_cases i s effect with ⟨c, rest, _, hi, e⟩ | ⟨c, _, _, _, hi, e⟩ | e <;> rw [e]
  · exact acts c _ ⟨rfl, rfl⟩ hi
  · exact acts c _ ⟨rfl, rfl⟩ hi
  · exact stands

theorem Untouched.of_takeManagement {i : Instr} {s : State} {effect : ManagementCommand → State → State}
    (h : ∀ c u, Untouched u (effect c u)) : Untouched s (takeManagement i s effect) :=
  takeManagement_rule (.refl s) fun c u hu _ => hu.trans (h c u)

theorem TablesAlone.of_takeManagement {i : Instr} {s : State} {effect : ManagementCommand → State → State}
    (h : ∀ c u, TablesAlone u (effect c u)) : TablesAlone s (takeManagement i s effect) :=
  takeManagement_rule (.of_untouched (.refl s)) fun c u hu _ => hu.tablesAlone (h c u)

theorem untouched_reply (s : State) (c : ManagementCommand) (d : Disposition) (data : ReplyData) :
    Untouched s (reply s c d data) := ⟨settings_reply .., reply_inFlight ..⟩

theorem untouched_refuse (s : State) (c : ManagementCommand) (r : Reason) : Untouched s (refuse s c r) :=
  untouched_reply ..

theorem tablesAlone_putTables (s : State) (x : Tables) (c : ManagementCommand) (d : Disposition) (data : ReplyData) :
    TablesAlone s (reply (s.putTables x) c d data) :=
  ⟨by rw [settings_reply, (inner_reply ..).tables]; rfl, reply_inFlight ..⟩

theorem Untouched.of_onSlot {slot : Nat} {c : ManagementCommand} {s : State} {effect : JobId → State}
    (h : ∀ j, Untouched s (effect j)) : Untouched s (onSlot slot c s effect) := by
  unfold onSlot
  split
  · exact h _
  · exact untouched_refuse ..

/-! ### Tables -/

theorem tablesAlone_execLoadClassMap {first count : Nat} {classes : List Nat} {s t : State}
    (h : execLoadClassMap first count classes s = .next t) : TablesAlone s t := by
  cases h
  refine .of_takeManagement fun c u => ?_
  split
  · exact .of_untouched (untouched_refuse ..)
  · split
    · exact .of_untouched (untouched_refuse ..)
    · exact tablesAlone_putTables ..

theorem tablesAlone_execLoadPolicy {image : PolicyImage} {s t : State} (h : execLoadPolicy image s = .next t) :
    TablesAlone s t := by
  cases h
  refine .of_takeManagement fun c u => ?_
  split
  · exact tablesAlone_putTables ..
  · exact .of_untouched (untouched_refuse ..)

theorem tablesAlone_execAssignProfile {bay profile : Nat} {s t : State}
    (h : execAssignProfile bay profile s = .next t) : TablesAlone s t := by
  cases h
  refine .of_takeManagement fun c u => ?_
  split
  · exact tablesAlone_putTables ..
  · exact .of_untouched (untouched_refuse ..)

theorem tablesAlone_execLoadProgram {program count : Nat} {passes : List PassImage} {s t : State}
    (h : execLoadProgram program count passes s = .next t) : TablesAlone s t := by
  cases h
  refine .of_takeManagement fun c u => ?_
  split
  · exact .of_untouched (untouched_refuse ..)
  · split
    · exact .of_untouched (untouched_refuse ..)
    · split
      · exact .of_untouched (untouched_refuse ..)
      · exact tablesAlone_putTables ..

theorem tablesAlone_execLoadExtents {first count : Nat} {words : List ExtentWord} {s t : State}
    (h : execLoadExtents first count words s = .next t) : TablesAlone s t := by
  cases h
  refine .of_takeManagement fun c u => ?_
  split
  · exact .of_untouched (untouched_refuse ..)
  · split
    · exact .of_untouched (untouched_refuse ..)
    · exact tablesAlone_putTables ..

theorem tablesAlone_execSetNoticeRouting {channels : List Nat} {s t : State}
    (h : execSetNoticeRouting channels s = .next t) : TablesAlone s t := by
  cases h
  refine .of_takeManagement fun c u => ?_
  split
  · exact tablesAlone_putTables ..
  · exact .of_untouched (untouched_refuse ..)

theorem tablesAlone_execSetBayParameters {image : ParameterImage} {s t : State}
    (h : execSetBayParameters image s = .next t) : TablesAlone s t := by
  cases h
  refine .of_takeManagement fun c u => ?_
  split
  · exact .of_untouched (untouched_refuse ..)
  · split
    · exact tablesAlone_putTables ..
    · exact .of_untouched (untouched_refuse ..)

/-! ### Commands on jobs -/

theorem untouched_execLoadJob {image : JobImage} {s t : State} (h : execLoadJob image s = .next t) :
    Untouched s t := by
  cases h
  refine .of_takeManagement fun c u => .of_onSlot fun j => ?_
  split
  · split
    · exact ⟨by simp, by simp⟩
    · exact untouched_refuse ..
  · exact untouched_refuse ..

theorem untouched_execStart {slot : Nat} {s t : State} (h : execStart slot s = .next t) : Untouched s t := by
  cases h
  refine .of_takeManagement fun c u => .of_onSlot fun j => ?_
  split
  · exact untouched_refuse ..
  · split
    · exact untouched_reply ..
    · unfold startJob
      dsimp only
      split
      · exact ⟨by simp, by simp⟩
      · exact ⟨by simp, by simp⟩

theorem untouched_execTrigger {slot : Nat} {s t : State} (h : execTrigger slot s = .next t) : Untouched s t := by
  cases h
  refine .of_takeManagement fun c u => .of_onSlot fun j => ?_
  split
  · exact ⟨by simp, by simp⟩
  · split
    · split
      · exact untouched_reply ..
      · exact ⟨by simp, by simp⟩
    · exact untouched_refuse ..

theorem untouched_execCancelTrigger {slot : Nat} {s t : State} (h : execCancelTrigger slot s = .next t) :
    Untouched s t := by
  cases h
  refine .of_takeManagement fun c u => .of_onSlot fun j => ?_
  split
  · split
    · exact ⟨by simp, by simp⟩
    · exact untouched_refuse ..
  · exact untouched_refuse ..

theorem untouched_execPause {slot : Nat} {s t : State} (h : execPause slot s = .next t) : Untouched s t := by
  cases h
  refine .of_takeManagement fun c u => .of_onSlot fun j => ?_
  split
  · exact ⟨by simp, by simp⟩
  · exact ⟨by simp, by simp⟩
  · exact untouched_refuse ..

theorem untouched_resumeJob (s : State) (j : JobId) : Untouched s (resumeJob s j) := by
  unfold resumeJob
  dsimp only
  split
  · exact ⟨by simp, by simp⟩
  · split
    · exact ⟨by simp, by simp⟩
    · exact ⟨by simp, by simp⟩

theorem untouched_execResume {slot : Nat} {s t : State} (h : execResume slot s = .next t) : Untouched s t := by
  cases h
  refine .of_takeManagement fun c u => .of_onSlot fun j => ?_
  split
  · split
    · exact untouched_refuse ..
    · exact (untouched_reply ..).trans (untouched_resumeJob ..)
  · exact untouched_refuse ..

theorem untouched_execCancel {slot : Nat} {s t : State} (h : execCancel slot s = .next t) : Untouched s t := by
  cases h
  refine .of_takeManagement fun c u => .of_onSlot fun j => ?_
  have refused : Untouched u (refuse u c .state) := untouched_refuse ..
  have freed : Untouched u (freeJob (accept u c) j) := ⟨by simp [freeJob], by simp [freeJob]⟩
  have cleared : Untouched u (freeJob (clearMap (accept u c) (u.job j).bay) j) :=
    ⟨by simp [freeJob], by simp [freeJob]⟩
  have drained (g : DrainTarget) : Untouched u (enterDraining (accept u c) j g) := ⟨by simp, by simp⟩
  have finished (o : RunOutcome) : Untouched u (enterFinishing (accept u c) j o) := ⟨by simp, by simp⟩
  split
  case h_4 => exact cleared
  case h_1 | h_2 | h_3 => exact freed
  case h_5 | h_6 | h_7 => exact drained _
  case h_9 | h_10 | h_11 => exact finished _
  all_goals exact refused

theorem untouched_execRelease {slot : Nat} {s t : State} (h : execRelease slot s = .next t) : Untouched s t := by
  cases h
  refine .of_takeManagement fun c u => .of_onSlot fun j => ?_
  split
  · exact ⟨by simp [freeJob], by simp [freeJob]⟩
  · exact untouched_refuse ..

/-! ### Commands that read, and commands on bays -/

theorem untouched_execReadJobStatus {slot : Nat} {s t : State} (h : execReadJobStatus slot s = .next t) :
    Untouched s t := by
  cases h
  refine .of_takeManagement fun c u => ?_
  split
  · exact untouched_reply ..
  · exact untouched_refuse ..

theorem untouched_execReadBayStatus {bay : Nat} {s t : State} (h : execReadBayStatus bay s = .next t) :
    Untouched s t := by
  cases h
  refine .of_takeManagement fun c u => ?_
  split
  · exact untouched_reply ..
  · exact untouched_refuse ..

theorem untouched_execReadCoverage {bay first count : Nat} {s t : State}
    (h : execReadCoverage bay first count s = .next t) : Untouched s t := by
  cases h
  refine .of_takeManagement fun c u => ?_
  split
  · exact untouched_refuse ..
  · split
    · exact untouched_refuse ..
    · exact untouched_reply ..

theorem untouched_execReadCertificate {selector : Nat} {run : Word} {s t : State}
    (h : execReadCertificate selector run s = .next t) : Untouched s t := by
  cases h
  refine .of_takeManagement fun c u => ?_
  split
  · exact untouched_reply ..
  · exact untouched_refuse ..

theorem untouched_execDiscardCertificate {run : Word} {s t : State} (h : execDiscardCertificate run s = .next t) :
    Untouched s t := by
  cases h
  refine .of_takeManagement fun c u => ?_
  split
  · exact ⟨by simp, by simp⟩
  · exact untouched_refuse ..

theorem untouched_execClearAttention {bay : Nat} {mask : BitVec 16} {s t : State}
    (h : execClearAttention bay mask s = .next t) : Untouched s t := by
  cases h
  refine .of_takeManagement fun c u => ?_
  split
  · exact untouched_refuse ..
  · split
    · exact ⟨by simp, by simp⟩
    · exact untouched_refuse ..

theorem untouched_execSetIndicator {bay pattern : Nat} {s t : State} (h : execSetIndicator bay pattern s = .next t) :
    Untouched s t := by
  cases h
  refine .of_takeManagement fun c u => ?_
  split
  · exact ⟨by simp, by simp⟩
  · exact untouched_refuse ..

/-! ### Every command -/

/-- What a command leaves of the settings, `a` before it and `b` after it. -/
def SettingsAfter (i : Instr) (a b : Settings) : Prop :=
  match i with
  | .coldReset => b.pending = a.pending
  | .upstreamLinkReset | .linkUp => b = { a with link := b.link }
  | .setClock _ | .clockSecond => b = { a with clock := b.clock }
  | .extentScanWord _ => b = { a with runCounter := b.runCounter }
  | .loadClassMap .. | .loadPolicy _ | .assignProfile .. | .loadProgram .. | .loadExtents .. | .setNoticeRouting _
  | .setBayParameters _ => b = { a with tables := b.tables }
  | _ => b = a

theorem settings_linkReset (s : State) : settings (linkReset s) = { settings s with link := .down } := by
  unfold linkReset
  dsimp only
  rw [settings_foldl (f := unwantResults) fun _ _ => settings_modPort ..]
  rfl

theorem settings_bringUp (s : State) : settings (bringUp s) = { settings s with link := .up } := by
  have noticed (u : State) (b : BayId) : settings (linkUpNotice u b) = settings u := by
    unfold linkUpNotice
    split <;> simp
  unfold bringUp
  rw [settings_foldl noticed]
  rfl

theorem settings_execCommandFrame {bytes : List Byte} {s t : State} (h : execCommandFrame bytes s = .next t) :
    settings t = settings s := by
  have routed (f : CommandFrame) : settings (routeFrame s f) = settings s := by
    unfold routeFrame takePassthrough queueManagement
    dsimp only
    split
    · simp
    · split
      · split <;> simp
      · simp
  cases h
  split
  · split
    · unfold takeFrame
      split <;> simp [routed]
    · rfl
  · rfl

theorem settings_execDataFrame {bytes : List Byte} {s t : State} (h : execDataFrame bytes s = .next t) :
    settings t = settings s := by
  cases h
  split
  · rfl
  · split
    · split
      · split <;> rfl
      · rfl
    · rfl

theorem settings_execResetBay {bay : Nat} {s t : State} (h : execResetBay bay s = .next t) :
    settings t = settings s := by
  cases h
  refine takeManagement_rule (Q := fun t => settings t = settings s) rfl fun c u hu _ => Eq.trans ?_ hu.1
  split
  · simp
  · split <;> simp

theorem settings_execResetBridge {s t : State} (h : execResetBridge s = .next t) : settings t = settings s := by
  cases h
  exact takeManagement_rule (Q := fun t => settings t = settings s) rfl fun c u hu _ => by simp [hu.1]

theorem settings_execSetClock {value : Word} {s t : State} (h : execSetClock value s = .next t) :
    settings t = { settings s with clock := t.clock } := by
  cases h
  refine takeManagement_rule (Q := fun t => settings t = { settings s with clock := t.clock }) rfl fun c u hu _ => ?_
  rw [(inner_accept ..).clock, settings_accept, ← hu.1]
  rfl

theorem settings_execPresenceAsserted {b : BayId} {s t : State} (h : execPresenceAsserted b s = .next t) :
    settings t = settings s := by
  cases h
  split
  · rfl
  · split <;> simp [setPresence, stopDebounce]

theorem settings_execPresenceDropped {b : BayId} {s t : State} (h : execPresenceDropped b s = .next t) :
    settings t = settings s := by
  have removing (u : State) : settings (beginRemoval u b) = settings u := by
    unfold beginRemoval
    dsimp only
    split <;> simp
  cases h
  split
  · split <;> simp [setPresence, stopDebounce, removing]
  · rfl

theorem settings_execDebounceExpiry {b : BayId} {s t : State} (h : execDebounceExpiry b s = .next t) :
    settings t = settings s := by
  have removed : settings (endRemoval s b) = settings s := by
    unfold endRemoval
    split <;> simp
  cases h
  split
  · split
    · rfl
    · split <;> simp
    all_goals exact removed
  · rfl

theorem settings_execDeviceFaultIndication {b : BayId} {s t : State}
    (h : execDeviceFaultIndication b s = .next t) : settings t = settings s := by
  cases h
  split <;> simp

theorem settings_execResetTimerExpiry {b : BayId} {s t : State} (h : execResetTimerExpiry b s = .next t) :
    settings t = settings s := by
  cases h
  split
  · unfold endReset
    dsimp only
    split <;> simp
  · rfl

theorem settings_execRequestCompletion {b : BayId} {id : Nat} {status : CompletionStatus} {d : DriveIdentity}
    {s t : State} (h : execRequestCompletion b id status d s = .next t) : settings t = settings s := by
  cases h
  split <;> simp

theorem settings_execAbortConfirmation {b : BayId} {id : Nat} {s t : State}
    (h : execAbortConfirmation b id s = .next t) : settings t = settings s := by
  cases h
  split
  · split <;> simp
  · rfl

theorem settings_execT1Expiry {b : BayId} {id : Nat} {s t : State} (h : execT1Expiry b id s = .next t) :
    settings t = settings s := by
  cases h
  split
  · split <;> simp
  · rfl

theorem settings_execT2Expiry {b : BayId} {id : Nat} {s t : State} (h : execT2Expiry b id s = .next t) :
    settings t = settings s := by
  cases h
  split
  · split <;> simp
  · rfl

theorem settings_execDriveDataIn {b : BayId} {id : Nat} {bs : List Byte} {s t : State}
    (h : execDriveDataIn b id bs s = .next t) : settings t = settings s := by
  have passed (u : State) (c : PassCommand) : settings (sendData b c.tag bs u) = settings u :=
    settings_foldl (fun _ _ => settings_send ..) _ _
  cases h
  split
  · split
    · unfold takeDataIn
      split
      · split <;> rfl
      · rfl
      · dsimp only
        split <;> simp [passed]
    · rfl
  · rfl

theorem settings_execDriveDataOut {b : BayId} {id n : Nat} {s t : State} (h : execDriveDataOut b id n s = .next t) :
    settings t = settings s := by
  cases h
  split
  · split <;> rfl
  · rfl

theorem settings_execExtentScanWord {b : BayId} {s t : State} (h : execExtentScanWord b s = .next t) :
    settings t = { settings s with runCounter := t.runCounter } := by
  cases h
  split
  · split
    · next j _ _ _ n e g _ _ =>
      obtain ⟨r, hr⟩ := settings_scanStep s j n e g
      have : (scanStep s j n e g).runCounter = r := congrArg Settings.runCounter hr
      rw [this]
      exact hr
    · rfl
  · rfl

theorem settings_execPassthroughGrant {s t : State} (h : execPassthroughGrant s = .next t) :
    settings t = settings s := by
  cases h
  split
  · exact settings_grantPassthrough ..
  · rfl

theorem settings_execHoldExpiry {tag : Tag} {s t : State} (h : execHoldExpiry tag s = .next t) :
    settings t = settings s := by
  cases h
  split <;> simp

theorem settings_execBuildComplete {j : JobId} {s t : State} (h : execBuildComplete j s = .next t) :
    settings t = settings s := by
  cases h
  split <;> simp

theorem settings_link_alone {s t : State} {l : Link} (h : settings t = { settings s with link := l }) :
    settings t = { settings s with link := t.link } := by
  have : t.link = l := congrArg Settings.link h
  rw [this]
  exact h

theorem pending_coldReset (s : State) : (coldReset s).pending = s.pending := by
  have stands {t u : State} (h : settings t = settings u) : t.pending = u.pending := congrArg Settings.pending h
  unfold coldReset
  rw [stands (settings_warmReset (clearPower s))]
  rfl

/-- What every command leaves of the settings. -/
theorem settings_exec {i : Instr} {s t : State} (h : exec i s = .next t) :
    SettingsAfter i (settings s) (settings t) := by
  cases i with
  | coldReset =>
    have e : coldReset s = t := Host.Outcome.next.inj h
    have k := pending_coldReset s
    rw [e] at k
    exact k
  | upstreamLinkReset =>
    have e : linkReset s = t := Host.Outcome.next.inj h
    exact settings_link_alone (e ▸ settings_linkReset s)
  | linkUp =>
    have e : (if s.link = .down then bringUp s else s) = t := Host.Outcome.next.inj h
    split at e
    · exact settings_link_alone (e ▸ settings_bringUp s)
    · cases e; rfl
  | commandFrame bytes => exact settings_execCommandFrame h
  | invalidFrame bytes => cases h; rfl
  | dataFrame bytes => exact settings_execDataFrame h
  | identifyBridge => cases h; exact (Untouched.of_takeManagement fun _ _ => untouched_reply ..).1
  | setClock value => exact settings_execSetClock h
  | loadClassMap first count classes => exact (tablesAlone_execLoadClassMap h).1
  | loadPolicy image => exact (tablesAlone_execLoadPolicy h).1
  | assignProfile bay profile => exact (tablesAlone_execAssignProfile h).1
  | loadProgram program count passes => exact (tablesAlone_execLoadProgram h).1
  | loadExtents first count words => exact (tablesAlone_execLoadExtents h).1
  | loadJob image => exact (untouched_execLoadJob h).1
  | start slot => exact (untouched_execStart h).1
  | trigger slot => exact (untouched_execTrigger h).1
  | cancelTrigger slot => exact (untouched_execCancelTrigger h).1
  | pause slot => exact (untouched_execPause h).1
  | resume slot => exact (untouched_execResume h).1
  | cancel slot => exact (untouched_execCancel h).1
  | release slot => exact (untouched_execRelease h).1
  | readJobStatus slot => exact (untouched_execReadJobStatus h).1
  | readBayStatus bay => exact (untouched_execReadBayStatus h).1
  | readCoverage bay first count => exact (untouched_execReadCoverage h).1
  | readCertificate selector run => exact (untouched_execReadCertificate h).1
  | discardCertificate run => exact (untouched_execDiscardCertificate h).1
  | clearAttention bay mask => exact (untouched_execClearAttention h).1
  | setNoticeRouting channels => exact (tablesAlone_execSetNoticeRouting h).1
  | setIndicator bay pattern => exact (untouched_execSetIndicator h).1
  | setBayParameters image => exact (tablesAlone_execSetBayParameters h).1
  | resetBay bay => exact settings_execResetBay h
  | resetBridge => exact settings_execResetBridge h
  | unknownCommand code payload => cases h; exact (Untouched.of_takeManagement fun _ _ => untouched_refuse ..).1
  | presenceAsserted bay => exact settings_execPresenceAsserted h
  | presenceDropped bay => exact settings_execPresenceDropped h
  | debounceExpiry bay => exact settings_execDebounceExpiry h
  | deviceFaultIndication bay => exact settings_execDeviceFaultIndication h
  | resetTimerExpiry bay => exact settings_execResetTimerExpiry h
  | requestCompletion bay request status identity => exact settings_execRequestCompletion h
  | abortConfirmation bay request => exact settings_execAbortConfirmation h
  | abortRefusal bay request => cases h; rfl
  | t1Expiry bay request => exact settings_execT1Expiry h
  | t2Expiry bay request => exact settings_execT2Expiry h
  | driveDataIn bay request bytes => exact settings_execDriveDataIn h
  | driveDataOut bay request count => exact settings_execDriveDataOut h
  | extentScanWord bay => exact settings_execExtentScanWord h
  | engineGrant => cases h; exact settings_grantEngine s
  | nativeEraseIssue bay => cases h; exact settings_nativeEraseStep ..
  | passthroughGrant => exact settings_execPassthroughGrant h
  | holdExpiry tag => exact settings_execHoldExpiry h
  | buildComplete slot => exact settings_execBuildComplete h
  | indicatorPhase bay => cases h; rfl
  | clockSecond => cases h; rfl

end Sys2Proof.Proofs
end

section
/-! What writes the settings, and the in-flight lists. -/

namespace Sys2Proof.Proofs

open Sys2Proof Sys2Proof.Machine Sys2Proof.Safety

section
variable {i : Instr} {s t : State} (h : exec i s = .next t)
include h

theorem exec_pending : t.pending = s.pending := by
  have k := settings_exec h
  cases i with
  | coldReset => exact k
  | _ => exact congrArg Settings.pending k

theorem exec_tables_writers (n : t.tables ≠ s.tables) : i = .coldReset ∨ (∃ f n cs, i = .loadClassMap f n cs) ∨
    (∃ p, i = .loadPolicy p) ∨ (∃ b p, i = .assignProfile b p) ∨ (∃ p n ps, i = .loadProgram p n ps) ∨
    (∃ f n ws, i = .loadExtents f n ws) ∨ (∃ cs, i = .setNoticeRouting cs) ∨ (∃ p, i = .setBayParameters p) := by
  have k := settings_exec h
  cases i with
  | coldReset | loadClassMap | loadPolicy | assignProfile | loadProgram | loadExtents | setNoticeRouting
  | setBayParameters => simp
  | _ => exact absurd (congrArg Settings.tables k) n

theorem exec_clock_writers (n : t.clock ≠ s.clock) : i = .coldReset ∨ (∃ v, i = .setClock v) ∨ i = .clockSecond := by
  have k := settings_exec h
  cases i with
  | coldReset | setClock | clockSecond => simp
  | _ => exact absurd (congrArg Settings.clock k) n

theorem exec_runCounter_writers (n : t.runCounter ≠ s.runCounter) : i = .coldReset ∨ ∃ b, i = .extentScanWord b := by
  have k := settings_exec h
  cases i with
  | coldReset | extentScanWord => simp
  | _ => exact absurd (congrArg Settings.runCounter k) n

theorem exec_link_writers (n : t.link ≠ s.link) : i = .coldReset ∨ i = .upstreamLinkReset ∨ i = .linkUp := by
  have k := settings_exec h
  cases i with
  | coldReset | upstreamLinkReset | linkUp => simp
  | _ => exact absurd (congrArg Settings.link k) n

end

/-- Settles O2: every command is brought under `SettingsAfter`, which lets each setting's own writers write it. -/
theorem onlyNamedCommandsWriteTheSettings : Obligations.OnlyNamedCommandsWriteTheSettings := by
  unfold Obligations.OnlyNamedCommandsWriteTheSettings
  exact fun i s t h =>
    ⟨exec_pending h, exec_tables_writers h, exec_clock_writers h, exec_runCounter_writers h, exec_link_writers h⟩

/-! ### The in-flight lists -/

/-- While the depths are legal, the in-flight lists stay within 4 entries (R41, R42, R141). -/
def ListsKept (s t : State) : Prop := (∀ b, (s.parameters b).depth ≤ 4) → ListsBounded s → ListsBounded t

theorem ListsKept.of_inner {s t : State} (h : Inner s t) : ListsKept s t := h.lists

theorem ListsKept.of_inFlight {s t : State} (h : t.inFlight = s.inFlight) : ListsKept s t := by
  intro _ hb b
  have hl : t.list b = s.list b := by unfold State.list; rw [h]
  rw [hl]
  exact hb b

theorem ListsKept.trans {s t u : State} (h : ListsKept s t) (k : ListsKept t u) (ht : t.tables = s.tables := by rfl) :
    ListsKept s u := by
  intro hd hb
  refine k (fun b => ?_) (h hd hb)
  unfold State.parameters
  rw [ht]
  exact hd b

theorem Untouched.listsKept {s t : State} (h : Untouched s t) : ListsKept s t := .of_inFlight h.2

theorem TablesAlone.listsKept {s t : State} (h : TablesAlone s t) : ListsKept s t := .of_inFlight h.2

theorem ListsKept.of_takeManagement {i : Instr} {s : State} {effect : ManagementCommand → State → State}
    (h : ∀ c u, ListsKept u (effect c u)) : ListsKept s (takeManagement i s effect) :=
  takeManagement_rule (.of_inFlight rfl) fun c u hu _ => hu.listsKept.trans (h c u) hu.tables

/-- A warm reset empties every list; what follows it is the ports' own work. -/
theorem listsBounded_warmReset {s : State} (hd : ∀ b, (s.parameters b).depth ≤ 4) : ListsBounded (warmReset s) := by
  have emptied : ListsBounded (clearOperation s) := fun b => by simp [clearOperation, State.list]
  have behind : Inner (clearOperation s) (warmReset s) := by
    refine (inner_foldl (fun _ _ => inner_modPort ..) _ _).trans (inner_foldl (fun s b => ?_) _ _)
    split
    · exact inner_seat ..
    · exact Inner.refl s
  exact behind.lists hd emptied

theorem listsKept_coldReset (s : State) : ListsKept s (coldReset s) := fun _ _ =>
  listsBounded_warmReset fun b => by simp [clearPower, State.parameters, Tables.cold, BayParameters.defaults]

theorem listsKept_linkReset (s : State) : ListsKept s (linkReset s) := by
  unfold linkReset
  refine ListsKept.trans ?_ (.of_inner (inner_foldl (fun _ _ => inner_modPort ..) _ _)) ?_
  · exact .of_inFlight rfl
  · rfl

theorem listsKept_bringUp (s : State) : ListsKept s (bringUp s) := by
  have noticed (u : State) (b : BayId) : Inner u (linkUpNotice u b) := by
    unfold linkUpNotice
    split
    · exact inner_send ..
    · exact Inner.refl u
  refine ListsKept.trans (t := (s.putLink .up).putTaking none) (.of_inFlight rfl) ?_
  exact .of_inner (inner_foldl noticed _ _)

theorem listsKept_execCommandFrame {bytes : List Byte} {s t : State} (h : execCommandFrame bytes s = .next t) :
    ListsKept s t := by
  have routed (f : CommandFrame) : ListsKept s (routeFrame s f) := by
    refine ListsKept.trans (t := s.putTag f.tag true) (.of_inFlight rfl) ?_
    unfold routeFrame
    dsimp only
    split
    · exact .of_inner ((inner_bumpStamp _).trans (inner_carryOut ..))
    · split
      · unfold queueManagement
        dsimp only
        split
        · exact .of_inFlight rfl
        · exact .of_inner (inner_reply ..)
      · exact .of_inner (inner_respond ..)
  cases h
  split
  · split
    · unfold takeFrame
      split
      · exact .of_inner (inner_send ..)
      · exact routed _
    · exact .of_inFlight rfl
  · exact .of_inFlight rfl

theorem listsKept_execDataFrame {bytes : List Byte} {s t : State} (h : execDataFrame bytes s = .next t) :
    ListsKept s t := by
  cases h
  refine .of_inFlight ?_
  split
  · rfl
  · split
    · split
      · split <;> rfl
      · rfl
    · rfl

theorem listsKept_execResetBay {bay : Nat} {s t : State} (h : execResetBay bay s = .next t) : ListsKept s t := by
  cases h
  refine .of_takeManagement fun c u => .of_inner ?_
  have reset (b : BayId) (f : BayPort → BayPort) : Inner u (selectiveReset ((accept u c).modPort b f) b .resetBay) :=
    ((inner_accept ..).trans (inner_modPort ..)).trans (inner_selectiveReset ..)
  split
  · exact inner_refuse ..
  · split
    · exact inner_reply ..
    · exact inner_reply ..
    · exact (inner_accept ..).trans (inner_modPort ..)
    all_goals exact reset _ _

theorem listsKept_execResetBridge {s t : State} (h : execResetBridge s = .next t) : ListsKept s t := by
  cases h
  refine .of_takeManagement fun c u => ?_
  exact ListsKept.trans (t := accept u c) (.of_inner (inner_accept ..)) (fun hd _ => listsBounded_warmReset hd)
    (inner_accept ..).tables

/-- No command makes an in-flight list outgrow 4 entries while the depths are legal (R41, R42, R141). -/
theorem listsKept_exec {i : Instr} {s t : State} (h : exec i s = .next t) : ListsKept s t := by
  cases i with
  | coldReset =>
    have e : coldReset s = t := Host.Outcome.next.inj h
    exact e ▸ listsKept_coldReset s
  | upstreamLinkReset =>
    have e : linkReset s = t := Host.Outcome.next.inj h
    exact e ▸ listsKept_linkReset s
  | linkUp =>
    have e : (if s.link = .down then bringUp s else s) = t := Host.Outcome.next.inj h
    split at e
    · exact e ▸ listsKept_bringUp s
    · exact .of_inFlight (e ▸ rfl)
  | commandFrame bytes => exact listsKept_execCommandFrame h
  | invalidFrame bytes => cases h; exact .of_inFlight rfl
  | dataFrame bytes => exact listsKept_execDataFrame h
  | identifyBridge => cases h; exact .of_takeManagement fun _ _ => .of_inner (inner_reply ..)
  | setClock value =>
    cases h
    exact .of_takeManagement fun c u => .of_inFlight (accept_inFlight (u.putClock value) c)
  | loadClassMap first count classes => exact (tablesAlone_execLoadClassMap h).listsKept
  | loadPolicy image => exact (tablesAlone_execLoadPolicy h).listsKept
  | assignProfile bay profile => exact (tablesAlone_execAssignProfile h).listsKept
  | loadProgram program count passes => exact (tablesAlone_execLoadProgram h).listsKept
  | loadExtents first count words => exact (tablesAlone_execLoadExtents h).listsKept
  | loadJob image => exact (untouched_execLoadJob h).listsKept
  | start slot => exact (untouched_execStart h).listsKept
  | trigger slot => exact (untouched_execTrigger h).listsKept
  | cancelTrigger slot => exact (untouched_execCancelTrigger h).listsKept
  | pause slot => exact (untouched_execPause h).listsKept
  | resume slot => exact (untouched_execResume h).listsKept
  | cancel slot => exact (untouched_execCancel h).listsKept
  | release slot => exact (untouched_execRelease h).listsKept
  | readJobStatus slot => exact (untouched_execReadJobStatus h).listsKept
  | readBayStatus bay => exact (untouched_execReadBayStatus h).listsKept
  | readCoverage bay first count => exact (untouched_execReadCoverage h).listsKept
  | readCertificate selector run => exact (untouched_execReadCertificate h).listsKept
  | discardCertificate run => exact (untouched_execDiscardCertificate h).listsKept
  | clearAttention bay mask => exact (untouched_execClearAttention h).listsKept
  | setNoticeRouting channels => exact (tablesAlone_execSetNoticeRouting h).listsKept
  | setIndicator bay pattern => exact (untouched_execSetIndicator h).listsKept
  | setBayParameters image => exact (tablesAlone_execSetBayParameters h).listsKept
  | resetBay bay => exact listsKept_execResetBay h
  | resetBridge => exact listsKept_execResetBridge h
  | unknownCommand code payload => cases h; exact .of_takeManagement fun _ _ => .of_inner (inner_refuse ..)
  | presenceAsserted bay => exact .of_inner (inner_execPresenceAsserted h)
  | presenceDropped bay => exact .of_inner (inner_execPresenceDropped h)
  | debounceExpiry bay => exact .of_inner (inner_execDebounceExpiry h)
  | deviceFaultIndication bay => exact .of_inner (inner_execDeviceFaultIndication h)
  | resetTimerExpiry bay => exact .of_inner (inner_execResetTimerExpiry h)
  | requestCompletion bay request status identity => exact .of_inner (inner_execRequestCompletion h)
  | abortConfirmation bay request => exact .of_inner (inner_execAbortConfirmation h)
  | abortRefusal bay request => cases h; exact .of_inFlight rfl
  | t1Expiry bay request => exact .of_inner (inner_execT1Expiry h)
  | t2Expiry bay request => exact .of_inner (inner_execT2Expiry h)
  | driveDataIn bay request bytes => exact .of_inner (inner_execDriveDataIn h)
  | driveDataOut bay request count => exact .of_inner (inner_execDriveDataOut h)
  | extentScanWord bay => exact .of_inner (inner_execExtentScanWord h)
  | engineGrant => cases h; exact .of_inner (inner_grantEngine s)
  | nativeEraseIssue bay => cases h; exact .of_inner (inner_nativeEraseStep ..)
  | passthroughGrant => exact .of_inner (inner_execPassthroughGrant h)
  | holdExpiry tag => exact .of_inner (inner_execHoldExpiry h)
  | buildComplete slot => exact .of_inner (inner_execBuildComplete h)
  | indicatorPhase bay => cases h; exact .of_inFlight rfl
  | clockSecond => cases h; exact .of_inFlight rfl

/-- Settles O9: a new entry joins a list only below the bay's depth, and legal tables hold every depth within 4. -/
theorem inFlightListsStayBounded : Obligations.InFlightListsStayBounded := by
  unfold Obligations.InFlightListsStayBounded
  rintro s t h ⟨_, _, hparameters, _, _⟩
  have depths (b : BayId) : (s.parameters b).depth ≤ 4 := (hparameters b).1.2
  unfold step at h
  split at h
  · cases h; exact id
  · next c rest _ =>
    exact ListsKept.trans (t := s.putPending rest) (.of_inFlight rfl) (listsKept_exec h) rfl depths

end Sys2Proof.Proofs
end

section
/-! The tables stay legal: each command that loads a table brings it within the bridge's protections and ranges (R29,
R30, R52, R141, R151), and the state after a cold reset has every invariant. -/

namespace Sys2Proof.Proofs

open Sys2Proof Sys2Proof.Machine Sys2Proof.Safety

/-! ### Policies -/

/-- A stored column holds for each class the clamp of the action sent for it (R151, R181). -/
theorem storedColumn_get (actions : List Action) (active : Bool) (cls : OpClass) :
    (storedColumn actions active)[cls.number] = clampAction cls active (sentAction actions cls active) := by
  cases cls <;> rfl

/-- No IDLE action is FENCE (R151). -/
theorem clampAction_idle (cls : OpClass) (a : Action) : clampAction cls false a ≠ .fence := by
  cases a with
  | fence => by_cases h : cls = .read <;> simp [clampAction, h]
  | pass => simp [clampAction]
  | substitute c => simp [clampAction]
  | refuse => simp [clampAction]

/-- FENCE stands only as the ACTIVE action of READ (R151). -/
theorem clampAction_fence {cls : OpClass} {a : Action} (h : clampAction cls true a = .fence) : cls = .read := by
  cases a with
  | fence =>
    by_contra n
    simp [clampAction, n] at h
  | pass => cases hw : cls.writeClass <;> simp [clampAction, hw] at h
  | substitute c => cases hw : cls.writeClass <;> simp [clampAction, hw] at h
  | refuse => simp [clampAction] at h

/-- A write-class class is refused in the ACTIVE column (R151). -/
theorem clampAction_writeClass {cls : OpClass} (h : cls.writeClass = true) (a : Action) :
    clampAction cls true a = .refuse := by
  have n : cls ≠ .read := by rintro rfl; cases h
  cases a <;> simp [clampAction, h, n]

theorem profileProtected_storedProfile (image : PolicyImage) (actions : List Action) :
    ProfileProtected (storedProfile image actions) := by
  intro cls _
  unfold storedProfile
  dsimp only
  rw [storedColumn_get, storedColumn_get]
  exact ⟨clampAction_idle _ _, clampAction_fence, fun h => clampAction_writeClass h _⟩

/-! ### Programs -/

@[simp] theorem storedPass_kind (p : PassImage) : (storedPass p).kind = p.kind := by unfold storedPass; split <;> rfl

/-- A stored pass differs from the one that was sent in its density alone (R29). -/
theorem storedPass_eq (p : PassImage) : storedPass p = { p with density := (storedPass p).density } := by
  unfold storedPass; split <;> rfl

/-- No stored pass is left to clamp (R29). -/
theorem densityClamped_storedPass (p : PassImage) : densityClamped (storedPass p) = false := by
  unfold storedPass
  split
  · simp [densityClamped]
  · next h => simpa using h

theorem latestWriting_stored (ps : List PassImage) : ∀ i found,
    latestWriting (ps.map storedPass) i found = latestWriting ps i found := by
  induction ps with
  | nil => exact fun _ _ => rfl
  | cons p ps ih => exact fun i found => by simp [latestWriting, ih]

theorem passWellFormed_stored (before : List PassImage) (p : PassImage) :
    passWellFormed (before.map storedPass) (storedPass p) = passWellFormed before p := by
  rw [storedPass_eq]
  unfold passWellFormed
  rw [latestWriting_stored]

theorem passesWellFormed_stored (ps : List PassImage) : ∀ before,
    passesWellFormed (before.map storedPass) (ps.map storedPass) = passesWellFormed before ps := by
  induction ps with
  | nil => exact fun _ => rfl
  | cons p ps ih =>
    intro before
    have h := ih (before ++ [p])
    rw [List.map_append] at h
    simp only [List.map_cons, passesWellFormed, passWellFormed_stored]
    rw [← h]
    rfl

/-- A program stays well formed when its densities are clamped (R29, R30). -/
theorem programLegal_stored {ps : List PassImage} (h : programWellFormed ps = true) :
    ProgramLegal (some (ps.map storedPass)) := by
  have hw : programWellFormed (ps.map storedPass) = true := by
    rw [← h]
    unfold programWellFormed
    rw [List.length_map, ← passesWellFormed_stored ps []]
    rfl
  simp [ProgramLegal, hw, densityClamped_storedPass]

/-! ### Parameters -/

/-- The parameters of a bay after those of several bays have been written alike (R174). -/
theorem get_foldl_put {α : Type} {n : Nat} (x : α) (is : List (Fin n)) : ∀ (v : Vector α n) (k : Fin n),
    (is.foldl (fun v i => put v i x) v)[k] = x ∨ (is.foldl (fun v i => put v i x) v)[k] = v[k] := by
  induction is with
  | nil => exact fun _ _ => .inr rfl
  | cons i is ih =>
    intro v k
    rcases ih (put v i x) k with h | h
    · exact .inl h
    · rw [List.foldl_cons, h, put_get]
      split
      · exact .inl rfl
      · exact .inr rfl

theorem parametersLegal_of_inRange {p : ParameterImage} (h : parametersInRange p = true) :
    ParametersLegal { depth := p.depth, dataT1 := p.dataT1, nativeT1 := p.nativeT1, t2 := p.t2 } ∧
      debounceAllowed p.debounce = true := by
  simp only [parametersInRange, Bool.and_eq_true, decide_eq_true_eq] at h
  obtain ⟨⟨⟨⟨⟨⟨⟨⟨d, d'⟩, t⟩, t'⟩, n⟩, n'⟩, u⟩, u'⟩, b⟩ := h
  exact ⟨⟨⟨d, d'⟩, ⟨t, t'⟩, ⟨n, n'⟩, ⟨u, u'⟩⟩, b⟩

/-! ### Each command -/

/-- The tables after a cold reset are legal. -/
theorem tablesLegal_cold : TablesLegal Tables.cold := by
  refine ⟨fun i cls _ => ?_, fun i => ?_, fun b => ?_, rfl, rfl⟩
  · simp [Tables.cold, Profile.cold]
  · simp [ProgramLegal, Tables.cold]
  · simp [Tables.cold, BayParameters.defaults, ParametersLegal]

/-- A management command leaves the tables legal where its effect does on every state with the same tables. -/
theorem tablesLegal_takeManagement {i : Instr} {s : State} {effect : ManagementCommand → State → State}
    (hs : TablesLegal s.tables)
    (h : ∀ c u, TablesLegal u.tables → managementInstr c.code c.payload = i → TablesLegal (effect c u).tables) :
    TablesLegal (takeManagement i s effect).tables :=
  takeManagement_rule (Q := fun t => TablesLegal t.tables) hs fun c u hu hi => h c u (hu.tables.symm ▸ hs) hi

@[simp] theorem reply_tables (s : State) (c : ManagementCommand) (d : Disposition) (data : ReplyData) :
    (reply s c d data).tables = s.tables := (inner_reply ..).tables

@[simp] theorem accept_tables (s : State) (c : ManagementCommand) : (accept s c).tables = s.tables := reply_tables ..

@[simp] theorem refuse_tables (s : State) (c : ManagementCommand) (r : Reason) : (refuse s c r).tables = s.tables :=
  reply_tables ..

theorem tablesLegal_execLoadClassMap {first count : Nat} {classes : List Nat} {s t : State}
    (h : execLoadClassMap first count classes s = .next t) (hs : TablesLegal s.tables) : TablesLegal t.tables := by
  cases h
  refine tablesLegal_takeManagement hs fun c u hu _ => ?_
  split
  · rw [refuse_tables]; exact hu
  · split
    · rw [refuse_tables]; exact hu
    · rw [accept_tables]; exact hu

theorem tablesLegal_execLoadPolicy {image : PolicyImage} {s t : State} (h : execLoadPolicy image s = .next t)
    (hs : TablesLegal s.tables) : TablesLegal t.tables := by
  cases h
  refine tablesLegal_takeManagement hs fun c u hu _ => ?_
  split
  · obtain ⟨hprofiles, hrest⟩ := hu
    rw [reply_tables, State.putTables_tables]
    refine ⟨fun i => ?_, hrest⟩
    rw [put_get]
    split
    · exact profileProtected_storedProfile _ _
    · exact hprofiles i
  · rw [refuse_tables]; exact hu

theorem tablesLegal_execAssignProfile {bay profile : Nat} {s t : State}
    (h : execAssignProfile bay profile s = .next t) (hs : TablesLegal s.tables) : TablesLegal t.tables := by
  cases h
  refine tablesLegal_takeManagement hs fun c u hu _ => ?_
  split
  · rw [accept_tables]; exact hu
  · rw [refuse_tables]; exact hu

theorem tablesLegal_execLoadProgram {program count : Nat} {passes : List PassImage} {s t : State}
    (h : execLoadProgram program count passes s = .next t) (hs : TablesLegal s.tables) : TablesLegal t.tables := by
  cases h
  refine tablesLegal_takeManagement hs fun c u hu _ => ?_
  split
  · rw [refuse_tables]; exact hu
  · split
    · rw [refuse_tables]; exact hu
    · split
      · rw [refuse_tables]; exact hu
      · next hw =>
        obtain ⟨hprofiles, hprograms, hrest⟩ := hu
        rw [reply_tables, State.putTables_tables]
        refine ⟨hprofiles, fun i => ?_, hrest⟩
        rw [put_get]
        split
        · exact programLegal_stored (by simpa using hw)
        · exact hprograms i

theorem tablesLegal_execLoadExtents {first count : Nat} {words : List ExtentWord} {s t : State}
    (h : execLoadExtents first count words s = .next t) (hs : TablesLegal s.tables) : TablesLegal t.tables := by
  cases h
  refine tablesLegal_takeManagement hs fun c u hu hi => ?_
  split
  · rw [refuse_tables]; exact hu
  · next hr =>
    split
    · rw [refuse_tables]; exact hu
    · obtain ⟨hprofiles, hprograms, hparameters, hdebounce, hextents⟩ := hu
      have carried := length_of_managementInstr_loadExtents hi
      rw [accept_tables, State.putTables_tables]
      refine ⟨hprofiles, hprograms, hparameters, hdebounce, ?_⟩
      exact writeExtents_canonical hextents (by unfold Config.extentWords; omega)

theorem tablesLegal_execSetNoticeRouting {channels : List Nat} {s t : State}
    (h : execSetNoticeRouting channels s = .next t) (hs : TablesLegal s.tables) : TablesLegal t.tables := by
  cases h
  refine tablesLegal_takeManagement hs fun c u hu _ => ?_
  split
  · rw [accept_tables]; exact hu
  · rw [refuse_tables]; exact hu

theorem tablesLegal_execSetBayParameters {image : ParameterImage} {s t : State}
    (h : execSetBayParameters image s = .next t) (hs : TablesLegal s.tables) : TablesLegal t.tables := by
  cases h
  refine tablesLegal_takeManagement hs fun c u hu _ => ?_
  split
  · rw [refuse_tables]; exact hu
  · next bays _ =>
    split
    · next hr =>
      obtain ⟨hprofiles, hprograms, hparameters, _, hextents⟩ := hu
      obtain ⟨legal, allowed⟩ := parametersLegal_of_inRange hr
      rw [accept_tables, State.putTables_tables]
      refine ⟨hprofiles, hprograms, fun b => ?_, allowed, hextents⟩
      rcases get_foldl_put _ bays u.tables.parameters b with e | e
      · exact e ▸ legal
      · exact e ▸ hparameters b
    · rw [refuse_tables]; exact hu

/-! ### Settled: every command, and the state after a cold reset -/

theorem tables_coldReset (s : State) : (coldReset s).tables = Tables.cold := by
  have stands {t u : State} (h : settings t = settings u) : t.tables = u.tables := congrArg Settings.tables h
  unfold coldReset
  rw [stands (settings_warmReset (clearPower s))]
  rfl

theorem tablesLegal_exec {i : Instr} {s t : State} (h : exec i s = .next t) (hs : TablesLegal s.tables) :
    TablesLegal t.tables := by
  by_cases e : t.tables = s.tables
  · exact e ▸ hs
  · rcases exec_tables_writers h e with rfl | ⟨f, n, cs, rfl⟩ | ⟨p, rfl⟩ | ⟨b, p, rfl⟩ | ⟨p, n, ps, rfl⟩ | ⟨f, n, ws, rfl⟩ |
      ⟨cs, rfl⟩ | ⟨p, rfl⟩
    · have e : coldReset s = t := Host.Outcome.next.inj h
      rw [← e, tables_coldReset]
      exact tablesLegal_cold
    · exact tablesLegal_execLoadClassMap h hs
    · exact tablesLegal_execLoadPolicy h hs
    · exact tablesLegal_execAssignProfile h hs
    · exact tablesLegal_execLoadProgram h hs
    · exact tablesLegal_execLoadExtents h hs
    · exact tablesLegal_execSetNoticeRouting h hs
    · exact tablesLegal_execSetBayParameters h hs

/-- Settles O6: only the tables' own commands and a cold reset write them, and each of these leaves them legal. -/
theorem tablesStayLegal : Obligations.TablesStayLegal := by
  unfold Obligations.TablesStayLegal
  intro s t h hs
  unfold step at h
  split at h
  · cases h; exact hs
  · exact tablesLegal_exec h hs

/-- Settles O4: after a cold reset the queues, the store and the lists are empty, every job and every slot is FREE, and
the tables are those of `tablesLegal_cold`. -/
theorem resetMeetsTheInvariants : Obligations.ResetMeetsTheInvariants := by
  unfold Obligations.ResetMeetsTheInvariants
  have free (j : JobId) : State.reset.job j = Job.free := by simp [State.reset, State.job]
  have empty (k : SlotId) : State.reset.slot k = Slot.empty := by simp [State.reset, State.slot]
  have none (b : BayId) : State.reset.list b = [] := by simp [State.reset, State.list]
  refine ⟨⟨Nat.zero_le _, Nat.zero_le _⟩, ?_, tablesLegal_cold, ⟨Nat.zero_le _, List.Pairwise.nil⟩, fun i j h => ?_,
    fun k => ?_, fun b => ?_, fun j => ?_⟩
  · exact ⟨.nil, .nil, nofun, nofun, nofun⟩
  · rw [free] at h; cases h
  · rw [empty]; rfl
  · rw [none]; exact Nat.zero_le _
  · rw [free]; rfl

end Sys2Proof.Proofs
end

section
/-! Programs: R30's check in its own words, and LOAD PROGRAM (R28, R29, R30). -/

namespace Sys2Proof.Proofs

open Sys2Proof Sys2Proof.Machine Sys2Proof.Safety

/-! ### The encodings of a pass -/

theorem passKindOf_eq_none {n : Nat} : passKindOf n = none ↔ 2 < n := by
  rcases n with _ | _ | _ | n <;> simp [passKindOf]

theorem passKindOf_eq_overwrite {n : Nat} : passKindOf n = some .overwrite ↔ n = 0 := by
  rcases n with _ | _ | _ | n <;> simp [passKindOf]

theorem passKindOf_eq_verify {n : Nat} : passKindOf n = some .verify ↔ n = 1 := by
  rcases n with _ | _ | _ | n <;> simp [passKindOf]

theorem passKindOf_eq_nativeErase {n : Nat} : passKindOf n = some .nativeErase ↔ n = 2 := by
  rcases n with _ | _ | _ | n <;> simp [passKindOf]

theorem patternOf_isSome {n : Nat} {w : Word} : (patternOf n w).isSome = true ↔ n ≤ 3 := by
  rcases n with _ | _ | _ | _ | n <;> simp [patternOf]

theorem directionOf_isSome {n : Nat} : (directionOf n).isSome = true ↔ n ≤ 1 := by
  rcases n with _ | _ | n <;> simp [directionOf]

theorem grainOf_isSome {n : Nat} : (grainOf n).isSome = true ↔ n ≤ 2 := by
  rcases n with _ | _ | _ | n <;> simp [grainOf]

theorem chainOf_isSome {n : Nat} : (chainOf n).isSome = true ↔ n ≤ 1 := by
  rcases n with _ | _ | n <;> simp [chainOf]

/-! ### The latest writing pass -/

/-- One more pass: it is the latest writing one, unless it is a VERIFY. -/
theorem latestWriting_concat (p : PassImage) (ps : List PassImage) : ∀ i found,
    latestWriting (ps ++ [p]) i found = if p.kind = 1 then latestWriting ps i found else some (i + ps.length) := by
  induction ps with
  | nil => exact fun i found => by simp [latestWriting, passKindOf_eq_verify]
  | cons q ps ih =>
    intro i found
    rw [List.cons_append, latestWriting, ih, latestWriting, List.length_cons, Nat.add_right_comm, Nat.add_assoc]

/-- The pass found is a writing one, and every later one is a VERIFY (R30). -/
theorem latestWriting_eq_some {ps : List PassImage} {r : Nat} : latestWriting ps 0 none = some r ↔
    r < ps.length ∧ (∀ q, ps[r]? = some q → q.kind ≠ 1) ∧
      ∀ k q, r < k → k < ps.length → ps[k]? = some q → q.kind = 1 := by
  induction ps using List.reverseRecOn with
  | nil => simp [latestWriting]
  | append_singleton ps p ih =>
    have before {k : Nat} (hk : k < ps.length) : (ps ++ [p])[k]? = ps[k]? := List.getElem?_append_left hk
    have last : (ps ++ [p])[ps.length]? = some p := by simp
    rw [latestWriting_concat, List.length_append, List.length_singleton]
    split
    · next hp =>
      rw [ih]
      constructor
      · rintro ⟨hr, hw, hv⟩
        refine ⟨by omega, fun q hq => hw q (before hr ▸ hq), fun k q hk hl hq => ?_⟩
        rcases Nat.lt_succ_iff_lt_or_eq.1 hl with hl | rfl
        · exact hv k q hk hl (before hl ▸ hq)
        · rw [last] at hq; cases hq; exact hp
      · rintro ⟨hr, hw, hv⟩
        have hr : r < ps.length := by
          rcases Nat.lt_succ_iff_lt_or_eq.1 hr with hr | rfl
          · exact hr
          · exact absurd hp (hw p last)
        exact ⟨hr, fun q hq => hw q (before hr ▸ hq), fun k q hk hl hq => hv k q hk (by omega) (before hl ▸ hq)⟩
    · next hp =>
      rw [Nat.zero_add, Option.some.injEq]
      constructor
      · rintro rfl
        exact ⟨by omega, fun q hq => by rw [last] at hq; cases hq; exact hp, fun k q hk hl => by omega⟩
      · rintro ⟨hr, _, hv⟩
        by_contra hne
        exact hp (hv ps.length p (by omega) (by omega) last)

/-! ### R30 -/

/-- One descriptor behind those before it, by its kind (R28, R30; log 11). -/
theorem passWellFormed_iff {before : List PassImage} {p : PassImage} : passWellFormed before p = true ↔
    p.kind ≤ 2 ∧ p.retry ≤ 7 ∧ p.chain ≤ 1 ∧
      (p.kind = 0 → p.pattern ≤ 3 ∧ p.direction ≤ 1 ∧ p.grain ≤ 2) ∧
      (p.kind = 1 → p.direction ≤ 1 ∧ p.grain ≤ 2 ∧ latestWriting before 0 none = some p.reference) ∧
      (p.kind = 2 → p.pattern ≤ 1) := by
  unfold passWellFormed
  simp only [Bool.and_eq_true, decide_eq_true_eq, chainOf_isSome]
  split
  · next h =>
    have := passKindOf_eq_none.1 h
    simp only [Bool.false_eq_true, and_false, false_iff]
    omega
  · next h =>
    have := passKindOf_eq_overwrite.1 h
    simp only [Bool.and_eq_true, patternOf_isSome, directionOf_isSome, grainOf_isSome]
    omega
  · next h =>
    have := passKindOf_eq_verify.1 h
    simp only [Bool.and_eq_true, directionOf_isSome, grainOf_isSome, decide_eq_true_eq, this]
    tauto
  · next h =>
    have := passKindOf_eq_nativeErase.1 h
    simp only [Bool.or_eq_true, decide_eq_true_eq]
    omega

/-- Each descriptor is judged behind those that stand before it. -/
theorem passesWellFormed_iff {ps : List PassImage} : ∀ {before : List PassImage},
    passesWellFormed before ps = true ↔
      ∀ i p, ps[i]? = some p → passWellFormed (before ++ ps.take i) p = true := by
  induction ps with
  | nil => simp [passesWellFormed]
  | cons q ps ih =>
    intro before
    rw [passesWellFormed, Bool.and_eq_true, ih]
    constructor
    · rintro ⟨hq, hps⟩ i p hp
      cases i with
      | zero => cases hp; simpa using hq
      | succ i => simpa using hps i p hp
    · intro h
      exact ⟨by simpa using h 0 q rfl, fun i p hp => by simpa using h (i + 1) p hp⟩

/-- Settles O23: the check judges each pass behind the passes before it. -/
theorem wellFormedPrograms : Obligations.WellFormedPrograms := by
  unfold Obligations.WellFormedPrograms
  intro passes
  unfold programWellFormed
  simp only [Bool.and_eq_true, decide_eq_true_eq, passesWellFormed_iff, List.nil_append]
  refine and_congr_right fun _ => forall_congr' fun i => forall_congr' fun p => forall_congr' fun hp => ?_
  have hi : i < passes.length := (List.getElem?_eq_some_iff.1 hp).1
  have length : (passes.take i).length = i := List.length_take_of_le hi.le
  have before {k : Nat} (hk : k < i) : (passes.take i)[k]? = passes[k]? := List.getElem?_take_of_lt hk
  have reference : latestWriting (passes.take i) 0 none = some p.reference ↔
      p.reference < i ∧ (∀ q, passes[p.reference]? = some q → q.kind ≠ 1) ∧
        ∀ k q, p.reference < k → k < i → passes[k]? = some q → q.kind = 1 := by
    rw [latestWriting_eq_some, length]
    refine and_congr_right fun hr => ?_
    rw [before hr]
    refine and_congr_right fun _ => forall_congr' fun k => forall_congr' fun q => forall_congr' fun _ =>
      forall_congr' fun hk => ?_
    rw [before hk]
  rw [passWellFormed_iff, reference]

/-! ### LOAD PROGRAM -/

theorem densityClamped_eq (p : PassImage) : densityClamped p = decide (p.kind = 1 ∧ 64 < p.density) := by
  rw [Bool.eq_iff_iff]
  simp only [densityClamped, Bool.and_eq_true, decide_eq_true_eq, passKindOf_eq_verify]
  rfl

theorem programInUse_iff {s : State} {n : ProgramId} :
    programInUse s n = true ↔ ∃ j, (s.job j).state.active = true ∧ (s.job j).program = n := by
  simp [programInUse, mem_allJobs]

theorem programOf_eq_none {n : Nat} (h : 8 ≤ n) : programOf n = none := by simp [programOf]; omega

@[simp] theorem programOf_val (p : ProgramId) : programOf p.val = some p := by simp [programOf]

theorem clampedPasses_eq (ps : List PassImage) :
    clampedPasses ps = (List.range ps.length).filter fun i => ps[i]?.any densityClamped := by
  unfold clampedPasses
  congr 1
  funext i
  cases ps[i]? <;> rfl

/-- Settles O24: the checks are `execLoadProgram`'s own, in its order. -/
theorem loadProgramChecksAndReplaces : Obligations.LoadProgramChecksAndReplaces := by
  unfold Obligations.LoadProgramChecksAndReplaces
  intro s c rest program count passes ⟨hm, hi⟩
  have high : densityClamped = fun p => decide (p.kind = 1 ∧ 64 < p.density) := funext densityClamped_eq
  have taken : exec (.loadProgram program count passes) s = _ :=
    congrArg Host.Outcome.next (takeManagement_front hm hi _)
  dsimp only
  rw [taken]
  refine ⟨fun h => ?_, fun n hn => ?_⟩
  · rw [programOf_eq_none h, refuse_putManagement]
  · subst hn
    rw [programOf_val]
    dsimp only
    have inUse : programInUse (s.putManagement rest) n = true ↔
        ∃ j, (s.job j).state.active = true ∧ (s.job j).program = n := programInUse_iff
    have note : (List.range passes.length).filter (fun i => passes[i]?.any fun p =>
        decide (p.kind = 1 ∧ 64 < p.density)) = clampedPasses passes := by
      rw [clampedPasses_eq, high]
    have stored : passes.map (fun p => if decide (p.kind = 1 ∧ 64 < p.density) = true then { p with density := 64 }
        else p) = passes.map storedPass := by
      refine List.map_congr_left fun p _ => ?_
      unfold storedPass
      rw [densityClamped_eq]
      rfl
    rw [note, stored]
    split
    · next hu => rw [if_pos (inUse.2 hu), refuse_putManagement]
    · next hu =>
      rw [if_neg fun h => hu (inUse.1 h)]
      split
      · rw [refuse_putManagement]
      · unfold clampedPassesNote
        simp only [List.isEmpty_iff]
        rw [reply_eq]
        rfl

end Sys2Proof.Proofs
end

section
/-! The geometry of a job: S_eff, the zone shift and the zone count (R31, R55, R56). -/

namespace Sys2Proof.Proofs

open Sys2Proof Sys2Proof.Machine Sys2Proof.Safety

/-! ### Quotients rounded up -/

theorem ceilDiv_le_iff {a b k : Nat} (hb : 0 < b) : ceilDiv a b ≤ k ↔ a ≤ k * b := by
  unfold ceilDiv
  rw [← Nat.ceilDiv_eq_add_pred_div, ceilDiv_le_iff_le_mul hb, Nat.mul_comm]

theorem lt_ceilDiv_iff {a b k : Nat} (hb : 0 < b) : k < ceilDiv a b ↔ k * b < a := by
  rw [← not_le, ceilDiv_le_iff hb, not_le]

/-! ### S_eff -/

theorem stripeLimit_eq {sectorSize : Nat} (h : sectorSize = 512 ∨ sectorSize = 4096) :
    stripeLimit sectorSize = if sectorSize = 512 then 512 else 64 := by
  rcases h with rfl | rfl <;> rfl

/-- Raising to 8 = 2^3 and limiting to a power of two keeps a power of two (R31). -/
theorem limited_pow (p l : Nat) : min (max 8 (2 ^ p)) (2 ^ l) = 2 ^ min (max 3 p) l := by
  have rises : Monotone fun n : Nat => 2 ^ n := pow_right_mono₀ one_le_two
  rw [rises.map_min, rises.map_max]
  rfl

theorem effectiveStripe_pow (request : Nat) {sectorSize : Nat} (h : sectorSize = 512 ∨ sectorSize = 4096) :
    ∃ k, 3 ≤ k ∧ k ≤ 9 ∧ effectiveStripe request sectorSize = 2 ^ k := by
  unfold effectiveStripe roundedStripe
  rw [stripeLimit_eq h]
  split
  · exact ⟨_, by omega, by omega, limited_pow (Nat.log2 request) 9⟩
  · exact ⟨_, by omega, by omega, limited_pow (Nat.log2 request) 6⟩

/-! ### The zone shift and the zone count -/

/-- The zone shift is the smallest of at least 11 for which 1024 zones reach a 48-bit capacity (R55). -/
theorem zoneShift_spec {capacity : Nat} (h : capacity < 2 ^ 48) :
    (11 ≤ zoneShift capacity ∧ zoneShift capacity ≤ 38) ∧ capacity ≤ 1024 * 2 ^ zoneShift capacity ∧
      ∀ y, 11 ≤ y → y < zoneShift capacity → 1024 * 2 ^ y < capacity := by
  unfold zoneShift
  cases hf : (List.range' 11 28).find? fun z => decide (capacity ≤ 1024 * 2 ^ z) with
  | none =>
    have := List.find?_eq_none.1 hf 38 (by decide)
    simp only [decide_eq_true_eq] at this
    omega
  | some z =>
    rw [Option.getD_some]
    obtain ⟨hz, hmem, hleast⟩ := List.find?_range'_eq_some.1 hf
    simp only [decide_eq_true_eq] at hz
    rw [List.mem_range'_1] at hmem
    refine ⟨by omega, hz, fun y hy hyz => ?_⟩
    have := hleast y hy hyz
    simpa using this

/-- Settles O56: `ceilDiv` and `zoneOf` are the two sides of one division by the zone size. -/
theorem geometryOfAJob : Obligations.GeometryOfAJob := by
  unfold Obligations.GeometryOfAJob
  intro request capacity sectorSize hrequest _ hcapacity h48 hsize
  dsimp only [geometryOf]
  obtain ⟨hz, hreach, hleast⟩ := zoneShift_spec h48
  have hD : 0 < 2 ^ zoneShift capacity := by positivity
  have hpos : 0 < zoneCount capacity (zoneShift capacity) := (lt_ceilDiv_iff hD).2 (by omega)
  refine ⟨⟨Nat.log2 request, Nat.log2_self_le (by omega), Nat.lt_log2_self, ?_⟩, effectiveStripe_pow request hsize, hz,
    hreach, hleast, ⟨hpos, (ceilDiv_le_iff hD).2 hreach⟩, fun h11 => ?_, ?_, (ceilDiv_le_iff hD).1 le_rfl,
    fun lba hlba => ⟨?_, Nat.div_mul_le_self .., Nat.lt_mul_of_div_lt (Nat.lt_succ_self _) hD⟩⟩
  · rw [← stripeLimit_eq hsize]; rfl
  · refine (lt_ceilDiv_iff hD).2 ?_
    obtain ⟨z, hz⟩ : ∃ z, zoneShift capacity = z + 1 := ⟨zoneShift capacity - 1, by omega⟩
    have := hleast z (by omega) (by omega)
    rw [hz, Nat.pow_succ]
    omega
  · exact (lt_ceilDiv_iff hD).1 (Nat.sub_lt hpos Nat.one_pos)
  · exact (lt_ceilDiv_iff hD).2 ((Nat.div_mul_le_self ..).trans_lt hlba)

end Sys2Proof.Proofs
end

section
/-! Walks: an extent cut at the multiples of S, and the walks over a list of extents in either direction (R32, R34, R35,
R68). -/

namespace Sys2Proof.Proofs

open Sys2Proof Sys2Proof.Machine Sys2Proof.Safety

/-! ### The stripes of one extent -/

/-- Where the stripe numbered `k` of an extent begins: at a multiple of S, the first one at the extent's start (R32). -/
def cutFrom (S : Nat) (x : Extent) (k : Nat) : Nat := max x.start ((x.start / S + k) * S)

/-- Where the stripe numbered `k` of an extent ends (R32). -/
def cutTo (S : Nat) (x : Extent) (k : Nat) : Nat := min x.stop ((x.start / S + k + 1) * S)

/-- The stripe numbered `k` of an extent (R32). -/
def cut (S : Nat) (x : Extent) (k : Nat) : Stripe :=
  { first := cutFrom S x k, length := cutTo S x k - cutFrom S x k }

/-- The stripes of an extent in ascending order (R32). -/
def cuts (S : Nat) (x : Extent) : List Stripe := (List.range (stripesBetween x.start x.stop S)).map (cut S x)

section
variable {S : Nat} {x : Extent} (hS : 0 < S) (hx : x.start < x.stop)
include hS hx

/-- A stripe's number is below the number of stripes exactly when the multiple of S before it lies before the end. -/
theorem lt_stripesBetween_iff {k : Nat} : k < stripesBetween x.start x.stop S ↔ (x.start / S + k) * S < x.stop := by
  unfold stripesBetween
  rw [if_pos hx, ← lt_ceilDiv_iff hS]
  omega

theorem stripesBetween_pos : 0 < stripesBetween x.start x.stop S :=
  (lt_stripesBetween_iff hS hx).2 ((Nat.div_mul_le_self ..).trans_lt hx)

omit hx in
theorem start_lt_next (k : Nat) : x.start < (x.start / S + k + 1) * S :=
  Nat.lt_mul_of_div_lt (by omega) hS

omit hS hx in
@[simp] theorem cutFrom_zero : cutFrom S x 0 = x.start := max_eq_left (Nat.div_mul_le_self ..)

omit hx in
theorem cutFrom_succ (k : Nat) : cutFrom S x (k + 1) = (x.start / S + k + 1) * S := max_eq_right (start_lt_next hS k).le

theorem cutFrom_lt_cutTo {k : Nat} (hk : k < stripesBetween x.start x.stop S) : cutFrom S x k < cutTo S x k := by
  have next : (x.start / S + k) * S < (x.start / S + k + 1) * S := Nat.mul_lt_mul_of_pos_right (Nat.lt_succ_self _) hS
  exact max_lt (lt_min hx (start_lt_next hS k)) (lt_min ((lt_stripesBetween_iff hS hx).1 hk) next)

/-- A stripe that is not the last ends at the multiple of S at which the next one begins. -/
theorem cutTo_eq_cutFrom {k : Nat} (hk : k + 1 < stripesBetween x.start x.stop S) :
    cutTo S x k = cutFrom S x (k + 1) := by
  rw [cutFrom_succ hS]
  exact min_eq_right ((lt_stripesBetween_iff hS hx).1 hk).le

/-- The last stripe ends with the extent. -/
theorem cutTo_last {k : Nat} (hk : k + 1 = stripesBetween x.start x.stop S) : cutTo S x k = x.stop := by
  refine min_eq_left (Nat.not_lt.1 fun h => ?_)
  have := (lt_stripesBetween_iff hS hx (k := k + 1)).2 h
  omega

omit hS hx in
/-- Every sector of a stripe lies between the same two multiples of S. -/
theorem cut_div {k n : Nat} (h : cutFrom S x k ≤ n) (h' : n < cutTo S x k) : n / S = x.start / S + k := by
  have low : (x.start / S + k) * S ≤ n := (le_max_right ..).trans h
  have high : n < (x.start / S + k + 1) * S := h'.trans_le (min_le_right ..)
  exact Nat.div_eq_of_lt_le low high

theorem cut_within {k : Nat} (hk : k < stripesBetween x.start x.stop S) :
    1 ≤ (cut S x k).length ∧
      (cut S x k).first / S = ((cut S x k).first + (cut S x k).length - 1) / S := by
  have := cutFrom_lt_cutTo hS hx hk
  unfold cut
  dsimp only
  rw [cut_div le_rfl this, cut_div (x := x) (k := k) (n := cutFrom S x k + (cutTo S x k - cutFrom S x k) - 1) (by omega) (by omega)]
  exact ⟨by omega, rfl⟩

/-- The first stripes of an extent hold its sectors up to the end of the last of them. -/
theorem sectors_of_cuts {k : Nat} (hk : k < stripesBetween x.start x.stop S) :
    ((List.range (k + 1)).map (cut S x)).flatMap stripeSectors = List.range' x.start (cutTo S x k - x.start) := by
  induction k with
  | zero => simp [cut, stripeSectors]
  | succ k ih =>
    have e := cutTo_eq_cutFrom hS hx hk
    have low : x.start ≤ cutTo S x k := e ▸ le_max_left ..
    have high := cutFrom_lt_cutTo hS hx hk
    rw [List.range_succ, List.map_append, List.flatMap_append, ih (by omega)]
    simp only [List.map_singleton, List.flatMap_singleton, stripeSectors, cut]
    rw [← e] at high ⊢
    have joint := List.range'_append_1 (s := x.start) (m := cutTo S x k - x.start) (n := cutTo S x (k + 1) - cutTo S x k)
    rw [show x.start + (cutTo S x k - x.start) = cutTo S x k by omega] at joint
    rw [joint]
    congr 1
    omega

/-- The stripes of an extent hold every sector of it once, in ascending order (R32, R68). -/
theorem sectors_cuts : (cuts S x).flatMap stripeSectors = extentSectors x := by
  have hm := stripesBetween_pos hS hx
  obtain ⟨k, hk⟩ : ∃ k, k + 1 = stripesBetween x.start x.stop S := ⟨stripesBetween x.start x.stop S - 1, by omega⟩
  unfold cuts extentSectors
  rw [← hk, sectors_of_cuts hS hx (by omega), cutTo_last hS hx hk]

end

@[simp] theorem length_cuts (S : Nat) (x : Extent) : (cuts S x).length = stripesBetween x.start x.stop S := by
  simp [cuts]

theorem totalStripes_eq (xs : List Extent) (S : Nat) : totalStripes xs S = (xs.flatMap (cuts S)).length := by
  suffices h : ∀ n, xs.foldl (fun n x => n + stripesBetween x.start x.stop S) n = n + (xs.flatMap (cuts S)).length by
    exact (h 0).trans (Nat.zero_add _)
  induction xs with
  | nil => exact fun _ => rfl
  | cons x xs ih =>
    intro n
    rw [List.foldl_cons, ih, List.flatMap_cons, List.length_append, length_cuts, Nat.add_assoc]

/-! ### Walks step by step -/

/-- A walk steps over stripes from one position to another (R35). -/
inductive Walks (d : Direction) (xs : List Extent) (S : Nat) : Position → List Stripe → Position → Prop where
  | stand (p : Position) : Walks d xs S p [] p
  | step {p q r : Position} {t : Stripe} {ts : List Stripe} (h : stepWalk d xs S p = some (t, q))
      (k : Walks d xs S q ts r) : Walks d xs S p (t :: ts) r

section
variable {d : Direction} {xs : List Extent} {S : Nat}

theorem Walks.single {p q : Position} {t : Stripe} (h : stepWalk d xs S p = some (t, q)) : Walks d xs S p [t] q :=
  .step h (.stand q)

theorem Walks.append {p q r : Position} {ts us : List Stripe} (h : Walks d xs S p ts q) (k : Walks d xs S q us r) :
    Walks d xs S p (ts ++ us) r := by
  induction h with
  | stand p => exact k
  | step h _ ih => exact .step h (ih k)

/-- The last step of a walk reaches its end. -/
theorem Walks.last {p r : Position} {ts : List Stripe} (h : Walks d xs S p ts r) {t : Stripe}
    (ht : ts.getLast? = some t) : ∃ q, stepWalk d xs S q = some (t, r) := by
  induction h with
  | stand p => cases ht
  | @step p q r u us h k ih =>
    cases us with
    | nil => cases ht; cases k; exact ⟨p, h⟩
    | cons v vs => exact ih (by simpa using ht)

/-- With steps enough, a walk steps over exactly these stripes where it cannot go on behind them. -/
theorem Walks.walkFrom_eq {p r : Position} {ts : List Stripe} (h : Walks d xs S p ts r)
    (hr : stepWalk d xs S r = none) : ∀ {n}, ts.length < n → walkFrom d xs S n p = ts := by
  induction h with
  | stand p =>
    intro n hn
    cases n with
    | zero => rfl
    | succ n => unfold walkFrom; rw [hr]
  | step h _ ih =>
    intro n hn
    cases n with
    | zero => cases hn
    | succ n => unfold walkFrom; rw [h]; exact congrArg _ (ih hr (by simpa using hn))

end

/-! ### The ascending walk -/

/-- Where an ascending walk stands in front of the extent numbered `k`; behind the last one, at the end of the pass. -/
def upAt (xs : List Extent) (k : Nat) : Position :=
  match xs[k]? with
  | some y => { extent := k, lba := y.start }
  | none => { extent := k, lba := ((xs[k - 1]?).map Extent.stop).getD 0 }

section
variable {xs : List Extent} {S : Nat} (hS : 0 < S)
include hS

theorem stepAscending_cut {i k : Nat} {x : Extent} (hi : xs[i]? = some x) (hx : x.start < x.stop)
    (hk : k < stripesBetween x.start x.stop S) :
    stepWalk .ascending xs S { extent := i, lba := cutFrom S x k } = some (cut S x k,
      if k + 1 < stripesBetween x.start x.stop S then { extent := i, lba := cutFrom S x (k + 1) }
      else upAt xs (i + 1)) := by
  have stop : min ((cutFrom S x k / S + 1) * S) x.stop = cutTo S x k := by
    rw [cut_div le_rfl (cutFrom_lt_cutTo hS hx hk)]
    exact min_comm ..
  unfold stepWalk stepAscending
  simp only [hi, stop]
  by_cases h : k + 1 < stripesBetween x.start x.stop S
  · have before : cutTo S x k < x.stop := by
      rw [cutTo_eq_cutFrom hS hx h]
      exact (cutFrom_lt_cutTo hS hx h).trans_le (min_le_left ..)
    rw [if_pos before, if_pos h, cutTo_eq_cutFrom hS hx h]
    unfold cut
    rw [cutTo_eq_cutFrom hS hx h]
  · have ends : cutTo S x k = x.stop := cutTo_last hS hx (by omega)
    rw [if_neg (by omega), if_neg h, ends]
    unfold cut upAt
    rw [ends]
    cases xs[i + 1]? <;> simp [hi]

/-- An ascending walk steps over the stripes of an extent in their order and then stands in front of the next one. -/
theorem walks_ascending_extent {i : Nat} {x : Extent} (hi : xs[i]? = some x) (hx : x.start < x.stop) :
    Walks .ascending xs S (upAt xs i) (cuts S x) (upAt xs (i + 1)) := by
  have front : upAt xs i = { extent := i, lba := cutFrom S x 0 } := by simp [upAt, hi]
  have steps : ∀ k, k < stripesBetween x.start x.stop S →
      Walks .ascending xs S (upAt xs i) ((List.range k).map (cut S x)) { extent := i, lba := cutFrom S x k } := by
    intro k hk
    induction k with
    | zero => rw [front]; exact .stand _
    | succ k ih =>
      rw [List.range_succ, List.map_append]
      refine (ih (by omega)).append (.single ?_)
      rw [stepAscending_cut hS hi hx (by omega), if_pos hk]
  have hm := stripesBetween_pos hS hx
  obtain ⟨k, hk⟩ : ∃ k, k + 1 = stripesBetween x.start x.stop S := ⟨stripesBetween x.start x.stop S - 1, by omega⟩
  unfold cuts
  rw [← hk, List.range_succ, List.map_append]
  refine (steps k (by omega)).append (.single ?_)
  rw [stepAscending_cut hS hi hx (by omega), if_neg (by omega)]

theorem walks_ascending (hxs : AllInhabited xs) : ∀ k, k ≤ xs.length →
    Walks .ascending xs S (upAt xs 0) ((xs.take k).flatMap (cuts S)) (upAt xs k) := by
  intro k hk
  induction k with
  | zero => exact .stand _
  | succ k ih =>
    have hi : xs[k]? = some xs[k] := List.getElem?_eq_getElem hk
    rw [List.take_add_one, hi, List.flatMap_append]
    simpa using (ih (by omega)).append (walks_ascending_extent hS hi (hxs _ (List.getElem_mem hk)))

end

/-! ### The descending walk -/

/-- Where a descending walk stands behind the extent before number `k`; before the first one, at the end of the pass. -/
def downAt (xs : List Extent) (k : Nat) : Position :=
  match k with
  | 0 => { extent := 0, lba := firstStart xs }
  | k + 1 => { extent := k, lba := ((xs[k]?).map Extent.stop).getD 0 }

section
variable {xs : List Extent} {S : Nat} (hS : 0 < S)
include hS

theorem stepDescending_cut {i k : Nat} {x : Extent} (hi : xs[i]? = some x) (hx : x.start < x.stop)
    (hk : k < stripesBetween x.start x.stop S) :
    stepWalk .descending xs S { extent := i, lba := cutTo S x k } = some (cut S x k,
      if k = 0 then downAt xs i else { extent := i, lba := cutTo S x (k - 1) }) := by
  have lt := cutFrom_lt_cutTo hS hx hk
  have low : x.start ≤ cutFrom S x k := le_max_left ..
  have first : max x.start ((cutTo S x k - 1) / S * S) = cutFrom S x k := by
    rw [cut_div (x := x) (k := k) (n := cutTo S x k - 1) (by omega) (by omega)]
    rfl
  unfold stepWalk stepDescending
  simp only [hi, if_neg (Nat.not_le.2 (low.trans_lt lt)), first]
  cases k with
  | zero =>
    rw [if_neg (by rw [cutFrom_zero]; exact lt_irrefl _)]
    cases i with
    | zero =>
      rw [if_pos rfl]
      obtain ⟨y, ys, rfl⟩ := List.exists_cons_of_ne_nil (l := xs) (by rintro rfl; cases hi)
      cases hi
      rfl
    | succ n =>
      have hn : n < xs.length := by have := (List.getElem?_eq_some_iff.1 hi).1; omega
      simp [downAt, List.getElem?_eq_getElem hn, cut]
  | succ k =>
    have inside : x.start < cutFrom S x (k + 1) := cutFrom_succ (x := x) hS k ▸ start_lt_next hS k
    rw [if_pos inside, if_neg (Nat.succ_ne_zero k), Nat.add_sub_cancel, cutTo_eq_cutFrom hS hx hk]
    rfl

theorem walks_descending_extent {i : Nat} {x : Extent} (hi : xs[i]? = some x) (hx : x.start < x.stop) :
    Walks .descending xs S (downAt xs (i + 1)) (cuts S x).reverse (downAt xs i) := by
  have steps : ∀ k, k < stripesBetween x.start x.stop S →
      Walks .descending xs S { extent := i, lba := cutTo S x k } ((List.range (k + 1)).map (cut S x)).reverse
        (downAt xs i) := by
    intro k hk
    induction k with
    | zero => exact .single (by simpa using stepDescending_cut hS hi hx hk)
    | succ k ih =>
      rw [List.range_succ, List.map_append, List.reverse_append]
      exact .step (by simpa using stepDescending_cut hS hi hx hk) (ih (by omega))
  have hm := stripesBetween_pos hS hx
  obtain ⟨k, hk⟩ : ∃ k, k + 1 = stripesBetween x.start x.stop S := ⟨stripesBetween x.start x.stop S - 1, by omega⟩
  have behind : downAt xs (i + 1) = { extent := i, lba := cutTo S x k } := by
    simp [downAt, hi, cutTo_last hS hx hk]
  unfold cuts
  rw [← hk, behind]
  exact steps k (by omega)

theorem walks_descending (hxs : AllInhabited xs) : ∀ k, k ≤ xs.length →
    Walks .descending xs S (downAt xs k) ((xs.take k).flatMap (cuts S)).reverse (downAt xs 0) := by
  intro k hk
  induction k with
  | zero => exact .stand _
  | succ k ih =>
    have hi : xs[k]? = some xs[k] := List.getElem?_eq_getElem hk
    rw [List.take_add_one, hi, List.flatMap_append, List.reverse_append]
    simpa using (walks_descending_extent hS hi (hxs _ (List.getElem_mem hk))).append (ih (by omega))

end

/-! ### The ends of a pass -/

theorem ascendingAt_behind {lba : Nat} (xs : List Extent) : ∀ i l, (∀ x ∈ xs, x.stop ≤ lba) →
    ascendingAt xs i l lba = { extent := i + xs.length, lba := (xs.getLast?.map Extent.stop).getD l } := by
  induction xs with
  | nil => exact fun _ _ _ => rfl
  | cons x xs ih =>
    intro i l h
    have hx := h x List.mem_cons_self
    unfold ascendingAt
    rw [if_neg (by omega), ih _ _ fun y hy => h y (List.mem_cons_of_mem _ hy), List.getLast?_cons]
    cases xs.getLast? <;> simp <;> omega

theorem descendingAt_behind {lba : Nat} (xs : List Extent) : ∀ i f, (∀ x ∈ xs, x.start < lba ∧ x.stop ≤ lba) →
    descendingAt xs i f lba = (xs.getLast?.map fun x => { extent := i + xs.length - 1, lba := x.stop }).getD f := by
  induction xs with
  | nil => exact fun _ _ _ => rfl
  | cons x xs ih =>
    intro i f h
    obtain ⟨hx, hl⟩ := h x List.mem_cons_self
    unfold descendingAt
    rw [if_pos hx, ih _ _ fun y hy => h y (List.mem_cons_of_mem _ hy), List.getLast?_cons, min_eq_left hl]
    rcases List.eq_nil_or_concat xs with rfl | ⟨ys, y, rfl⟩
    · simp
    · simp
      omega

section
variable {xs : List Extent} {capacity : Nat} (hne : xs ≠ []) (hxs : ∀ x ∈ xs, x.start < x.stop ∧ x.stop ≤ capacity)
include hne hxs

theorem startPosition_ascending : startPosition .ascending xs capacity = upAt xs 0 := by
  obtain ⟨x, xs, rfl⟩ := List.exists_cons_of_ne_nil hne
  have hx := (hxs x List.mem_cons_self).1
  unfold startPosition positionAt ascendingAt
  simp [upAt, Nat.zero_lt_of_lt hx]

omit hne in
theorem endPosition_ascending : endPosition .ascending xs capacity = upAt xs xs.length := by
  unfold endPosition positionAt
  dsimp only
  rw [ascendingAt_behind xs 0 0 fun x hx => (hxs x hx).2]
  simp [upAt, List.getLast?_eq_getElem?]

theorem startPosition_descending : startPosition .descending xs capacity = downAt xs xs.length := by
  unfold startPosition positionAt
  dsimp only
  rw [descendingAt_behind xs 0 _ fun x hx => ⟨(hxs x hx).1.trans_le (hxs x hx).2, (hxs x hx).2⟩]
  obtain ⟨n, hn⟩ : ∃ n, xs.length = n + 1 := ⟨xs.length - 1, by have := List.length_pos_iff.2 hne; omega⟩
  have hl : xs[n]? = some xs[n] := List.getElem?_eq_getElem (by omega)
  rw [List.getLast?_eq_getElem?, hn]
  simp [downAt, hl]

omit hxs in
theorem endPosition_descending : endPosition .descending xs capacity = downAt xs 0 := by
  obtain ⟨x, xs, rfl⟩ := List.exists_cons_of_ne_nil hne
  rfl

omit hne hxs in
/-- The last stripe of an ascending walk ends in the list's last extent (R35). -/
theorem ascending_last {S : Nat} {q : Position} {t : Stripe}
    (h : stepWalk .ascending xs S q = some (t, upAt xs xs.length)) : q.lba = t.first ∧ q.extent + 1 = xs.length := by
  have past : (upAt xs xs.length).extent = xs.length := by simp [upAt]
  unfold stepWalk stepAscending at h
  dsimp only at h
  split at h
  · cases h
  · next x hx =>
    have within := (List.getElem?_eq_some_iff.1 hx).1
    obtain ⟨rfl, ha⟩ := Prod.mk.inj (Option.some.inj h)
    refine ⟨rfl, ?_⟩
    rw [← ha] at past
    split at past
    · dsimp only at past; omega
    · split at past <;> exact past

/-- The last stripe of a descending walk begins in the list's first extent (R35). -/
theorem descending_last {S : Nat} {q : Position} {t : Stripe}
    (h : stepWalk .descending xs S q = some (t, downAt xs 0)) : q.lba = t.first + t.length ∧ q.extent = 0 := by
  unfold stepWalk stepDescending at h
  dsimp only at h
  split at h
  · cases h
  · next x hx =>
    split at h
    · cases h
    · next hlba =>
      obtain ⟨rfl, ha⟩ := Prod.mk.inj (Option.some.inj h)
      have below : (q.lba - 1) / S * S ≤ q.lba - 1 := Nat.div_mul_le_self ..
      refine ⟨by dsimp only; omega, ?_⟩
      split at ha
      · exact congrArg Position.extent ha
      · cases he : q.extent with
        | zero => rfl
        | succ n =>
          have hn : n < xs.length := by have := (List.getElem?_eq_some_iff.1 hx).1; omega
          rw [he] at ha
          simp only [List.getElem?_eq_getElem hn, downAt, Position.mk.injEq] at ha
          obtain ⟨rfl, hstop⟩ := ha
          obtain ⟨y, ys, rfl⟩ := List.exists_cons_of_ne_nil hne
          have := (hxs y List.mem_cons_self).1
          exact absurd hstop (by simp [firstStart]; omega)

end

/-- Settles O58: both walks step over the stripes of the extents one after the other, up and down. -/
theorem walksCoverEverySectorOnce : Obligations.WalksCoverEverySectorOnce := by
  unfold Obligations.WalksCoverEverySectorOnce
  intro xs S capacity hS hne hxs _ n hn
  have inhabited : AllInhabited xs := fun x hx => (hxs x hx).1
  have length : (xs.flatMap (cuts S)).length < n := totalStripes_eq xs S ▸ hn
  have hup := walks_ascending hS inhabited xs.length le_rfl
  have hdown := walks_descending hS inhabited xs.length le_rfl
  rw [List.take_length] at hup hdown
  have up : walkFrom .ascending xs S n (startPosition .ascending xs capacity) = xs.flatMap (cuts S) := by
    rw [startPosition_ascending hne hxs]
    exact hup.walkFrom_eq (by simp [stepWalk, stepAscending, upAt]) length
  have down : walkFrom .descending xs S n (startPosition .descending xs capacity) = (xs.flatMap (cuts S)).reverse := by
    rw [startPosition_descending hne hxs]
    refine hdown.walkFrom_eq ?_ (by simpa using length)
    obtain ⟨x, xs, rfl⟩ := List.exists_cons_of_ne_nil hne
    simp [stepWalk, stepDescending, downAt, firstStart]
  dsimp only
  rw [up, down, endPosition_ascending hxs, endPosition_descending hne]
  refine ⟨?_, fun t ht => ?_, (totalStripes_eq xs S).symm, rfl, fun t ht => ?_, fun t ht => ?_⟩
  · rw [List.flatMap_assoc]
    exact List.flatMap_congr fun x hx => sectors_cuts hS (inhabited x hx)
  · obtain ⟨x, hx, ht⟩ := List.mem_flatMap.1 ht
    obtain ⟨k, hk, rfl⟩ := List.mem_map.1 ht
    exact cut_within hS (inhabited x hx) (List.mem_range.1 hk)
  · obtain ⟨q, hq⟩ := hup.last ht
    obtain ⟨hl, he⟩ := ascending_last hq
    exact ⟨q, hl, he, hq⟩
  · obtain ⟨q, hq⟩ := hdown.last ht
    obtain ⟨hl, he⟩ := descending_last hne hxs hq
    exact ⟨q, hl, he, hq⟩

end Sys2Proof.Proofs
end

section
/-! The work a bay has for an engine slot: its oldest entry awaiting reissue, or the next stripe of its unit (R39,
R40). -/

namespace Sys2Proof.Proofs

open Sys2Proof Sys2Proof.Machine Sys2Proof.Safety

/-! ### The oldest entry awaiting reissue -/

/-- An entry awaits reissue by a slot grant: DONE_ERROR, its attempts within the retry limit, and no native erase (R42,
R51). -/
def Awaits (w : WalkContext) (e : Entry) : Prop :=
  e.status = .doneError ∧ e.attempt ≤ w.retryLimit ∧ e.kind ≠ .nativeErase

theorem awaits_iff {w : WalkContext} {e : Entry} :
    (awaitsReissue w e && decide (e.kind ≠ .nativeErase)) = true ↔ Awaits w e := by
  simp [awaitsReissue, Awaits, and_assoc]

theorem oldestReissue_eq_some {w : WalkContext} {es : List Entry} {e : Entry} : oldestReissue w es = some e ↔
    ∃ before after, es = before ++ e :: after ∧ Awaits w e ∧ ∀ d ∈ before, ¬ Awaits w d := by
  unfold oldestReissue
  simp only [List.find?_eq_some_iff_append, Bool.not_eq_true', ← awaits_iff, Bool.not_eq_true]
  exact ⟨fun ⟨he, before, after, hes, hb⟩ => ⟨before, after, hes, he, hb⟩,
    fun ⟨before, after, hes, he, hb⟩ => ⟨he, before, after, hes, hb⟩⟩

theorem oldestReissue_eq_none {w : WalkContext} {es : List Entry} :
    oldestReissue w es = none ↔ ∀ d ∈ es, ¬ Awaits w d := by
  unfold oldestReissue
  simp only [List.find?_eq_none, awaits_iff]

theorem runningOrDraining_iff {q : JobState} : q.runningOrDraining = true ↔ q = .running ∨ ∃ t, q = .draining t := by
  cases q <;> simp [JobState.runningOrDraining]

/-! ### The next stripe of the unit -/

/-- The next stripe of the unit is the next stripe of the pass where it lies before the unit end (R38). -/
theorem unitStripe_eq_some {s : State} {x : Job} {w : WalkContext} {t : Stripe} {q : Position} :
    unitStripe s x w = some (t, q) ↔
      nextStripe s x w = some (t, q) ∧ ∃ u, w.unitEnd = some u ∧ beforeUnitEnd w.direction t u = true := by
  unfold unitStripe
  cases w.unitEnd with
  | none => simp
  | some u =>
    cases nextStripe s x w with
    | none => simp
    | some r =>
      obtain ⟨a, p⟩ := r
      dsimp only
      rw [Option.ite_none_right_eq_some]
      constructor
      · rintro ⟨h, e⟩
        cases e
        exact ⟨rfl, u, rfl, h⟩
      · rintro ⟨e, v, f, h⟩
        cases e
        cases f
        exact ⟨h, rfl⟩

theorem beforeUnitEnd_iff {d : Direction} {t : Stripe} {u : Position} : beforeUnitEnd d t u = true ↔
    (d = .ascending → t.first < u.lba) ∧ (d = .descending → u.lba < t.first + t.length) := by
  cases d <;> simp [beforeUnitEnd]

theorem unitLeft_of_unitStripe {s : State} {x : Job} {w : WalkContext} {r : Stripe × Position}
    (hk : w.kind ≠ .nativeErase) (h : unitStripe s x w = some r) : unitLeft s x w = true := by
  rw [← unitHasWork_eq hk]
  unfold unitHasWork
  split
  · next e => exact absurd e hk
  · rw [h]; rfl
  · rw [h]; rfl

/-! ### The work -/

/-- A piece of work is what a bay issues at a grant: an entry only in RUNNING or DRAINING and the oldest that waits, a
stripe only in RUNNING, below the depth, and with no entry that waits (R39, R40). -/
def WorkOf (s : State) (b : BayId) (x : Job) (w : WalkContext) : GrantWork → Prop
  | .reissue e => (x.state = .running ∨ ∃ q, x.state = .draining q) ∧ oldestReissue w (s.list b) = some e
  | .stripe t q => x.state = .running ∧ x.unitActive = true ∧ w.kind ≠ .nativeErase ∧
    oldestReissue w (s.list b) = none ∧ (s.list b).length < (s.parameters b).depth ∧ unitStripe s x w = some (t, q)

theorem grantWork_eq_some {s : State} {b : BayId} {j : JobId} {w : WalkContext} {work : GrantWork} :
    grantWork s b = some (j, w, work) ↔ activeJob s b = some j ∧ s.context b = some w ∧ (s.port b).state = .ready ∧
      stalled s b = false ∧ WorkOf s b (s.job j) w work := by
  constructor
  · intro h
    unfold grantWork at h
    split at h
    · nomatch h
    next hb =>
    obtain ⟨hp, hs⟩ : (s.port b).state = .ready ∧ stalled s b = false := by simpa [bayReady] using hb
    split at h
    · next i v ha hw =>
      dsimp only at h
      split at h
      · next e he =>
        cases h
        rw [Option.ite_none_right_eq_some, runningOrDraining_iff] at he
        exact ⟨ha, hw, hp, hs, he⟩
      · next he =>
        rw [Option.ite_none_right_eq_some] at h
        obtain ⟨⟨hr, hu, hk, hd⟩, h⟩ := h
        rw [if_pos (runningOrDraining_iff.mpr (.inl hr))] at he
        split at h
        · next ht => cases h; exact ⟨ha, hw, hp, hs, hr, hu, hk, he, hd, ht⟩
        · nomatch h
    · nomatch h
    · nomatch h
  · rintro ⟨ha, hw, hp, hs, hwork⟩
    unfold grantWork
    rw [if_neg (by simp [bayReady, hp, hs]), ha, hw]
    dsimp only
    cases work with
    | reissue e => rw [if_pos (runningOrDraining_iff.mpr hwork.1), hwork.2]
    | stripe t q =>
      obtain ⟨hr, hu, hk, he, hd, ht⟩ := hwork
      rw [if_pos (runningOrDraining_iff.mpr (.inl hr)), he]
      dsimp only
      rw [if_pos ⟨hr, hu, hk, hd⟩, ht]

/-! ### Eligibility -/

theorem eligible_iff {s : State} {b : BayId} {j : JobId} {w : WalkContext} (ha : activeJob s b = some j)
    (hw : s.context b = some w) :
    eligible s b = true ↔ (s.port b).state = .ready ∧ stalled s b = false ∧ ∃ work, WorkOf s b (s.job j) w work := by
  unfold eligible
  rw [Option.isSome_iff_exists]
  constructor
  · rintro ⟨⟨i, v, work⟩, h⟩
    obtain ⟨hi, hv, hp, hs, hwork⟩ := grantWork_eq_some.mp h
    cases ha.symm.trans hi
    cases hw.symm.trans hv
    exact ⟨hp, hs, work, hwork⟩
  · rintro ⟨hp, hs, work, hwork⟩
    exact ⟨_, grantWork_eq_some.mpr ⟨ha, hw, hp, hs, hwork⟩⟩

/-- A bay has work where an entry waits, and where a stripe is left to issue: if both, the entry is served (R39, R40). -/
theorem exists_workOf {s : State} {b : BayId} {x : Job} {w : WalkContext} : (∃ work, WorkOf s b x w work) ↔
    ((x.state = .running ∨ ∃ q, x.state = .draining q) ∧ ∃ e ∈ s.list b, Awaits w e) ∨
    (x.state = .running ∧ x.unitActive = true ∧ w.kind ≠ .nativeErase ∧ (s.list b).length < (s.parameters b).depth ∧
      ∃ t q, unitStripe s x w = some (t, q)) := by
  constructor
  · rintro ⟨work, hwork⟩
    cases work with
    | reissue e =>
      obtain ⟨hx, he⟩ := hwork
      obtain ⟨before, after, hes, hawaits, -⟩ := oldestReissue_eq_some.mp he
      exact .inl ⟨hx, e, by simp [hes], hawaits⟩
    | stripe t q =>
      obtain ⟨hr, hu, hk, -, hd, ht⟩ := hwork
      exact .inr ⟨hr, hu, hk, hd, t, q, ht⟩
  · intro h
    cases ho : oldestReissue w (s.list b) with
    | some e =>
      have hx : x.state = .running ∨ ∃ q, x.state = .draining q := h.elim And.left fun k => .inl k.1
      exact ⟨.reissue e, hx, ho⟩
    | none =>
      obtain ⟨-, e, he, hawaits⟩ | ⟨hr, hu, hk, hd, t, q, ht⟩ := h
      · exact absurd hawaits (oldestReissue_eq_none.mp ho e he)
      · exact ⟨.stripe t q, hr, hu, hk, ho, hd, ht⟩

/-- Settles O52: a bay is eligible where `grantWork` finds it a piece of work, and which pieces there are is said case by
case. -/
theorem eligibleBaysHaveWork : Obligations.EligibleBaysHaveWork := by
  unfold Obligations.EligibleBaysHaveWork
  intro s b j w ha hw
  dsimp only
  rw [eligible_iff ha hw, exists_workOf]
  simp only [unitStripe_eq_some, beforeUnitEnd_iff, exists_and_left]
  rfl

end Sys2Proof.Proofs
end

section
/-! The engine grant: which slot goes to which bay, what is issued, and what a new stripe leaves of the cursor and of its
zone (R38, R40, R73, R91, R124). -/

namespace Sys2Proof.Proofs

open Sys2Proof Sys2Proof.Machine Sys2Proof.Safety

/-! ### The slot and the bay of a grant -/

/-- The lowest-numbered FREE engine slot is found (R124). -/
theorem firstFree_engine {s : State} {k : SlotId} (hk : 8 ≤ k.val) (hf : (s.slot k).owner = .free)
    (hl : ∀ l : SlotId, 8 ≤ l.val → l < k → (s.slot l).owner ≠ .free) : firstFree s engineSlots = some k := by
  unfold firstFree
  rw [engineSlots_eq, List.find?_filter, List.find?_eq_some_iff_getElem]
  refine ⟨by simp [hk, slotFree, hf], k.val, by simp, by simp, fun l hlk => ?_⟩
  have h := hl ⟨l, hlk.trans k.isLt⟩
  simp only [List.getElem_finRange, slotFree]
  by_cases h8 : 8 ≤ l
  · simpa [h8] using h h8 hlk
  · simp [h8]

theorem firstFree_engine_none {s : State} (h : ∀ k : SlotId, 8 ≤ k.val → (s.slot k).owner ≠ .free) :
    firstFree s engineSlots = none := by
  unfold firstFree
  rw [List.find?_eq_none]
  intro k hk
  simpa [slotFree] using h k (engineSlots_high hk)

theorem rotation_eq (p : BayId) : rotation p = (List.finRange 16).map fun i => p + 1 + i := rfl

/-- The first eligible bay after the pointer is found (R124). -/
theorem rotation_find {s : State} {p b : BayId} (hb : eligible s b = true)
    (hc : ∀ c : BayId, (c - p - 1).val < (b - p - 1).val → eligible s c = false) :
    (rotation p).find? (eligible s) = some b := by
  rw [rotation_eq, List.find?_eq_some_iff_getElem]
  refine ⟨hb, (b - p - 1).val, by simp, ?_, fun i hi => ?_⟩
  · simp
  · have h := hc (p + 1 + ⟨i, hi.trans (b - p - 1).isLt⟩)
    simp only [List.getElem_map, List.getElem_finRange]
    rw [show p + 1 + (⟨i, hi.trans (b - p - 1).isLt⟩ : BayId) - p - 1 = ⟨i, hi.trans (b - p - 1).isLt⟩ by abel] at h
    simpa using h hi

/-- Without a FREE engine slot, or without an eligible bay, nothing is granted (R124). -/
theorem grantEngine_none {s : State}
    (h : (∀ k : SlotId, 8 ≤ k.val → (s.slot k).owner ≠ .free) ∨ ∀ b, eligible s b = false) : grantEngine s = s := by
  unfold grantEngine
  obtain h | h := h
  · rw [firstFree_engine_none h]
  · have hn : (rotation s.grantPointer).find? (eligible s) = none := by simp [List.find?_eq_none, h]
    rw [hn]
    split
    · next hb => nomatch hb
    · rfl

/-- What a bay issues of its work in a granted slot (R40). -/
def issueWork (s : State) (b : BayId) (j : JobId) (w : WalkContext) (k : SlotId) : GrantWork → State
  | .reissue e => reissueStripe s b j w k e
  | .stripe t after => issueNewStripe s b j w k t after

/-- A grant that is made (R40, R124). -/
theorem grantEngine_some {s : State} {k : SlotId} {b : BayId} {j : JobId} {w : WalkContext} {work : GrantWork}
    (hk : firstFree s engineSlots = some k) (hb : (rotation s.grantPointer).find? (eligible s) = some b)
    (hw : grantWork s b = some (j, w, work)) : grantEngine s = issueWork (s.putGrantPointer b) b j w k work := by
  have hp : grantWork (s.putGrantPointer b) b = grantWork s b := rfl
  unfold grantEngine
  rw [hk, hb]
  dsimp only
  rw [hp, hw]
  cases work <;> rfl

/-! ### What is issued -/

theorem stripeRequest_eq (w : WalkContext) (t : Stripe) :
    stripeRequest w t = if w.kind = .verify then .readStripe t else .writeStripe t := by
  unfold stripeRequest
  cases w.kind <;> rfl

/-- The record of a stripe's request, with T1 running (R106). -/
def stripeRecord (s : State) (b : BayId) (w : WalkContext) (k : SlotId) (t : Stripe) : Record :=
  { id := s.nextRequest, origin := .engine, request := stripeRequest w t, cls := none, link := .entry, slot := some k
    status := .issued, timer := (s.parameters b).dataT1, wanted := true }

/-- The slot of a stripe's request (R73). -/
def stripeSlot (s : State) (b : BayId) (j : JobId) (w : WalkContext) (t : Stripe) : Slot :=
  loadedSlot b s.nextRequest (slotMode w) w.pattern t (jobSectorSize (s.job j))

/-- The slot in the words of Safety.lean (R73). -/
theorem stripeSlot_eq (s : State) (b : BayId) (j : JobId) (w : WalkContext) (t : Stripe) : stripeSlot s b j w t =
    { owner := .engine b s.nextRequest, pattern := w.pattern, stripe := t
      sectorWords := jobSectorSize (s.job j) / 4, mode := slotMode w, lba := t.first, word := 0, inWord := []
      differing := false, mismatches := 0, direction := .towardServer, moved := 0, staged := [] } := rfl

/-- A stripe's request loads its slot and joins the bay's queue (R73, R106). -/
theorem issueStripe_eq (s : State) (b : BayId) (j : JobId) (w : WalkContext) (k : SlotId) (t : Stripe) :
    issueStripe s b j w k t = { s with
      slots := put s.slots k (stripeSlot s b j w t), nextRequest := s.nextRequest + 1
      ports := put s.ports b { s.port b with queue := (s.port b).queue ++ [stripeRecord s b w k t] }
      toDrive := s.toDrive ++ [.request b s.nextRequest (stripeRequest w t)] } := rfl

/-- A reissued entry keeps its place and takes the new request and slot (R40). -/
theorem reissueStripe_eq (s : State) (b : BayId) (j : JobId) (w : WalkContext) (k : SlotId) (e : Entry) :
    reissueStripe s b j w k e = { issueStripe s b j w k e.stripe with
      inFlight := put s.inFlight b ((s.list b).map fun q => if q.request = e.request then { q with
        request := s.nextRequest, attempt := q.attempt + 1, slot := some k, status := .issued, mismatched := 0 }
        else q) } := rfl

/-- The cursor beyond a stripe, at the unit end where the unit has no more to issue (R38, R40). -/
def cursorBeyond (s : State) (x : Job) (w : WalkContext) (after : Position) : Position :=
  if unitLeft s x { w with cursor := after } = true then after else w.unitEnd.getD after

theorem some_cursorBeyond {s : State} {x : Job} {w : WalkContext} {after u : Position} (hu : w.unitEnd = some u) :
    some (cursorBeyond s x w after) =
      if unitLeft s x { w with cursor := after } = true then some after else w.unitEnd := by
  unfold cursorBeyond
  rw [hu, apply_ite some]
  rfl

theorem cursorBeyond_congr {s t : State} {x : Job} (ht : t.tables = s.tables)
    (hm : SameDue (s.map x.bay) (t.map x.bay)) (w : WalkContext) (after : Position) :
    cursorBeyond t x w after = cursorBeyond s x w after := by
  unfold cursorBeyond
  rw [unitLeft_congr ht {} hm]

theorem moveCursor_eq {s : State} {b : BayId} {j : JobId} {w : WalkContext} {after : Position}
    (hb : (s.job j).bay = b) (hk : w.kind ≠ .nativeErase) : moveCursor s j w after =
      s.putContext b (some { w with cursor := cursorBeyond s (s.job j) w after }) := by
  have hleft : unitHasWork (s.putContext b (some { w with cursor := after })) (s.job j) { w with cursor := after } =
      unitLeft s (s.job j) { w with cursor := after } := by
    rw [unitHasWork_eq (w := { w with cursor := after }) hk]
    exact unitLeft_congr rfl {} {} _
  unfold moveCursor cursorBeyond
  dsimp only
  rw [hb, hleft]
  split
  · rfl
  · unfold State.putContext
    rw [put_put]

/-- The entry of a new stripe (R40). -/
def stripeEntry (s : State) (b : BayId) (w : WalkContext) (k : SlotId) (t : Stripe) : Entry :=
  { request := s.nextRequest, stripe := t, zone := some (zoneOf (s.map b).z t.first), kind := w.kind, pass := w.pass
    attempt := 1, slot := some k, status := .issued, mismatched := 0 }

/-- A new stripe's request goes out, its entry joins the list, the cursor moves beyond it, and its zone is told (R40,
R91). -/
theorem issueNewStripe_eq {s : State} {b : BayId} {j : JobId} {w : WalkContext} (k : SlotId) (t : Stripe)
    (after : Position) (hb : (s.job j).bay = b) (hk : w.kind ≠ .nativeErase) : issueNewStripe s b j w k t after =
      changeZone { issueStripe s b j w k t with
        inFlight := put s.inFlight b (s.list b ++ [stripeEntry s b w k t])
        walk := put s.walk b (some { w with cursor := cursorBeyond s (s.job j) w after }) }
      b (zoneOf (s.map b).z t.first) (issuedZone w.kind) := by
  have hcursor : cursorBeyond ((issueStripe s b j w k t).putList b (s.list b ++ [stripeEntry s b w k t])) (s.job j) w
      after = cursorBeyond s (s.job j) w after := cursorBeyond_congr rfl {} w after
  have hmove := moveCursor_eq (s := (issueStripe s b j w k t).putList b (s.list b ++ [stripeEntry s b w k t]))
    (after := after) hb hk
  unfold issueNewStripe
  dsimp only
  exact congrArg (fun u => changeZone u b _ _) (hmove.trans (congrArg
    (fun c => State.putContext _ b (some { w with cursor := c })) hcursor))

/-! ### What a change of one zone leaves, whoever owns the map -/

theorem zonePut_frame (s : State) (b : BayId) (i : Nat) (z : ZoneEntry) : zonePut s b i z = { s with
    jobs := (zonePut s b i z).jobs
    coverage := put s.coverage b { s.map b with entries := (s.map b).entries.set i z } } := by
  unfold zonePut
  split
  · rfl
  · rw [reportBadZones_frame]; rfl

theorem changeZone_frame (s : State) (b : BayId) (i : Nat) (f : ZoneEntry → ZoneEntry) : changeZone s b i f = { s with
    hold := (changeZone s b i f).hold, wait := (changeZone s b i f).wait, tags := (changeZone s b i f).tags
    sent := (changeZone s b i f).sent, jobs := (changeZone s b i f).jobs
    coverage := put s.coverage b { s.map b with entries := (s.map b).entries.set i (f (s.zone b i)) } } := by
  rw [changeZone_eq]
  have h := zonePut_frame s b i (f (s.zone b i))
  generalize zonePut s b i (f (s.zone b i)) = u at h ⊢
  split
  · rw [h]
  · rw [reevaluate_frame, h]

theorem changeZone_map (s : State) (b c : BayId) (i : Nat) (f : ZoneEntry → ZoneEntry) : (changeZone s b i f).map c =
    if c = b then { s.map b with entries := (s.map b).entries.set i (f (s.zone b i)) } else s.map c := by
  rw [changeZone_frame]
  exact put_get ..

theorem changeZone_zone {s : State} {b : BayId} {i : Nat} (f : ZoneEntry → ZoneEntry)
    (hi : i < (s.map b).entries.length) : (changeZone s b i f).zone b i = f (s.zone b i) := by
  unfold State.zone
  rw [changeZone_map, if_pos rfl]
  simp [State.zone, hi]

theorem changeZone_zone_other {s : State} {b : BayId} {i l : Nat} (f : ZoneEntry → ZoneEntry) (h : l ≠ i) :
    (changeZone s b i f).zone b l = s.zone b l := by
  unfold State.zone
  rw [changeZone_map, if_pos rfl]
  simp [List.getD_eq_getElem?_getD, List.getElem?_set_ne (Ne.symm h)]

/-- A stripe that is issued raises its zone's out count; under an OVERWRITE the zone turns WRITING unless FAILED (R91). -/
theorem issuedZone_eq (kind : PassKind) (e : ZoneEntry) : issuedZone kind e = { e with
    out := e.out + 1, state := if kind = .overwrite ∧ e.state ≠ .failed then .writing else e.state } := by
  cases kind with
  | overwrite =>
    unfold issuedZone
    by_cases h : e.state = .failed <;> simp [h]
  | verify => rfl
  | nativeErase => rfl

/-! ### What a new stripe leaves -/

section
variable {s : State} {b : BayId} {j : JobId} {w : WalkContext} (k : SlotId) (t : Stripe) (after : Position)
  (hb : (s.job j).bay = b) (hk : w.kind ≠ .nativeErase)
include hb hk

/-- Beyond the request, the entry, the cursor and the zone, a new stripe reaches only the bad zone count and the
passthrough path (R91, R98, R99). -/
theorem issueNewStripe_frame : issueNewStripe s b j w k t after = { issueStripe s b j w k t with
    inFlight := put s.inFlight b (s.list b ++ [stripeEntry s b w k t])
    walk := put s.walk b (some { w with cursor := cursorBeyond s (s.job j) w after })
    hold := (issueNewStripe s b j w k t after).hold, wait := (issueNewStripe s b j w k t after).wait
    tags := (issueNewStripe s b j w k t after).tags, sent := (issueNewStripe s b j w k t after).sent
    jobs := (issueNewStripe s b j w k t after).jobs
    coverage := (issueNewStripe s b j w k t after).coverage } := by
  rw [issueNewStripe_eq k t after hb hk, changeZone_frame]

theorem issueNewStripe_context (c : BayId) : (issueNewStripe s b j w k t after).context c =
    if c = b then some { w with cursor := cursorBeyond s (s.job j) w after } else s.context c := by
  rw [issueNewStripe_frame k t after hb hk]
  exact put_get ..

theorem issueNewStripe_map_other {c : BayId} (hc : c ≠ b) : (issueNewStripe s b j w k t after).map c = s.map c := by
  rw [issueNewStripe_eq k t after hb hk, changeZone_map, if_neg hc]
  rfl

theorem issueNewStripe_zone_other {l : Nat} (hl : l ≠ zoneOf (s.map b).z t.first) :
    (issueNewStripe s b j w k t after).zone b l = s.zone b l := by
  rw [issueNewStripe_eq k t after hb hk, changeZone_zone_other _ hl]
  rfl

theorem issueNewStripe_zone (hi : zoneOf (s.map b).z t.first < (s.map b).entries.length) :
    (issueNewStripe s b j w k t after).zone b (zoneOf (s.map b).z t.first) =
      issuedZone w.kind (s.zone b (zoneOf (s.map b).z t.first)) := by
  rw [issueNewStripe_eq k t after hb hk]
  exact changeZone_zone _ hi
end

/-! ### The grant -/

/-- The work of a bay in the words of Safety.lean (R39, R40). -/
theorem workOf_reissue {s : State} {b : BayId} {x : Job} {w : WalkContext} {e : Entry}
    (h : WorkOf s b x w (.reissue e)) : (x.state = .running ∨ ∃ q, x.state = .draining q) ∧
      ∃ before after, s.list b = before ++ e :: after ∧ Awaits w e ∧ ∀ d ∈ before, ¬ Awaits w d :=
  ⟨h.1, oldestReissue_eq_some.mp h.2⟩

theorem workOf_stripe {s : State} {b : BayId} {x : Job} {w : WalkContext} {t : Stripe} {beyond : Position}
    (h : WorkOf s b x w (.stripe t beyond)) : x.state = .running ∧ x.unitActive = true ∧ w.kind ≠ .nativeErase ∧
      (∀ d ∈ s.list b, ¬ Awaits w d) ∧ (s.list b).length < (s.parameters b).depth ∧
      nextStripe s x w = some (t, beyond) ∧ unitLeft s x w = true := by
  obtain ⟨hr, hu, hk, he, hd, ht⟩ := h
  exact ⟨hr, hu, hk, oldestReissue_eq_none.mp he, hd, (unitStripe_eq_some.mp ht).1, unitLeft_of_unitStripe hk ht⟩

/-- Settles O53: the grant finds its slot and its bay, and each of the two kinds of work has its equation. -/
theorem engineGrantServesTheNextBay : Obligations.EngineGrantServesTheNextBay := by
  unfold Obligations.EngineGrantServesTheNextBay
  intro s
  refine ⟨fun b j w work h => ?_, fun h => ?_, fun k b j w work hk hf hl hw hc => ?_⟩
  · obtain ⟨ha, hw, hp, hs, hwork⟩ := grantWork_eq_some.mp h
    refine ⟨ha, hw, hp, hs, ?_⟩
    cases work with
    | reissue e => exact workOf_reissue hwork
    | stripe t beyond => exact workOf_stripe hwork
  · exact congrArg Host.Outcome.next (grantEngine_none h)
  · have hgrantEngine : grantEngine s = issueWork (s.putGrantPointer b) b j w k work :=
      grantEngine_some (firstFree_engine hk hf hl) (rotation_find (by unfold eligible; rw [hw]; rfl) hc) hw
    cases work with
    | reissue e =>
      dsimp only
      change Host.Outcome.next (grantEngine s) = _
      rw [hgrantEngine]
      unfold issueWork
      dsimp only
      rw [reissueStripe_eq, issueStripe_eq, stripeSlot_eq, ← stripeRequest_eq]
      unfold slotMode
      rfl
    | stripe x after =>
      obtain ⟨ha, -, -, -, -, -, hkind, -, -, ht⟩ := grantWork_eq_some.mp hw
      obtain ⟨-, u, hu, -⟩ := unitStripe_eq_some.mp ht
      have hb : ((s.putGrantPointer b).job j).bay = b := (activeJob_spec ha).2
      have hframe := issueNewStripe_frame k x after hb hkind
      have hcontext := issueNewStripe_context k x after hb hkind
      have hcursor : cursorBeyond (s.putGrantPointer b) ((s.putGrantPointer b).job j) w after =
          cursorBeyond s (s.job j) w after := cursorBeyond_congr rfl {} w after
      have hsent : s.sent <+: (issueNewStripe (s.putGrantPointer b) b j w k x after).sent := by
        have h := (inner_grantEngine s).sent
        rwa [hgrantEngine] at h
      dsimp only
      rw [← stripeRequest_eq]
      refine ⟨issueNewStripe (s.putGrantPointer b) b j w k x after, congrArg Host.Outcome.next hgrantEngine, ?_⟩
      refine ⟨congrArg State.grantPointer hframe, congrArg State.slots hframe, congrArg State.nextRequest hframe,
        congrArg State.ports hframe, congrArg State.toDrive hframe, congrArg State.inFlight hframe,
        ⟨cursorBeyond s (s.job j) w after, ?_, some_cursorBeyond hu⟩,
        fun c hc => ⟨?_, ?_⟩, fun l hl => ?_, fun hi => ?_, hsent⟩
      · rw [hcontext, if_pos rfl, hcursor]
      · rw [hcontext, if_neg hc]; rfl
      · exact issueNewStripe_map_other k x after hb hkind hc
      · exact issueNewStripe_zone_other k x after hb hkind hl
      · exact (issueNewStripe_zone k x after hb hkind hi).trans (issuedZone_eq ..)

end Sys2Proof.Proofs
end

section
/-! LOAD EXTENTS: what extent memory reads after consecutive writes, and the words that a job's list takes up (R52 to
R54). -/

namespace Sys2Proof.Proofs

open Sys2Proof Sys2Proof.Machine Sys2Proof.Safety

/-! ### Reading what was written -/

/-- An index below every one listed reads as the cold reset value (R52). -/
theorem readExtent_below {n : Nat} {m : List (Nat × ExtentWord)} (h : ∀ p ∈ m, n < p.1) :
    readExtent m n = zeroWord := by
  induction m with
  | nil => rfl
  | cons p m ih =>
    obtain ⟨hp, hm⟩ := List.forall_mem_cons.mp h
    rw [readExtent, if_neg hp.ne', ih hm]

/-- A written word reads as written: the zero word is the one that is not listed, and canonical memory lists no index
a second time (R52). -/
theorem readExtent_writeExtent_same {n : Nat} {x : ExtentWord} {m : List (Nat × ExtentWord)}
    (hm : extentsCanonical m = true) : readExtent (writeExtent m n x) n = x := by
  induction m with
  | nil =>
    unfold writeExtent
    split
    · next hx => exact hx.symm
    · simp [readExtent]
  | cons p m ih =>
    obtain ⟨i, w⟩ := p
    obtain ⟨-, -, above, tail⟩ := extentsCanonical_cons.mp hm
    unfold writeExtent
    split
    · next before =>
      split
      · next hx =>
        have below : ∀ p ∈ (i, w) :: m, n < p.1 :=
          List.forall_mem_cons.mpr ⟨before, fun p hp => before.trans (above p hp)⟩
        exact (readExtent_below below).trans hx.symm
      · simp [readExtent]
    · split
      · next here =>
        subst here
        split
        · next hx => exact (readExtent_below above).trans hx.symm
        · simp [readExtent]
      · next behind => rw [readExtent, if_neg (Ne.symm behind), ih tail]

/-- Consecutive writes leave at each index the word carried for it (R53). -/
theorem readExtent_writeExtents_inside {xs : List ExtentWord} :
    ∀ {m : List (Nat × ExtentWord)} {n k : Nat}, extentsCanonical m = true → n + xs.length ≤ Config.extentWords →
      k < xs.length → xs[k]? = some (readExtent (writeExtents m n xs) (n + k)) := by
  induction xs with
  | nil => intro m n k _ _ hk; cases hk
  | cons x xs ih =>
    intro m n k hm hn hk
    simp only [List.length_cons] at hn hk
    rw [writeExtents]
    cases k with
    | zero =>
      rw [readExtent_writeExtents_outside xs _ _ (.inl (by omega)), Nat.add_zero, readExtent_writeExtent_same hm]
      rfl
    | succ k =>
      rw [← Nat.add_assoc, Nat.add_right_comm]
      exact ih (writeExtent_canonical hm (by omega)) (by omega) (by omega)

/-! ### Words in use -/

/-- Two ranges that are not empty meet in a word: the higher of their first indices (R54). -/
theorem extentsInUse_iff {s : State} {first count : Nat} (hc : 1 ≤ count) :
    extentsInUse s first count = true ↔ ∃ i, first ≤ i ∧ i ≤ first + count - 1 ∧
      ∃ j, (s.job j).state.active = true ∧ 1 ≤ (s.job j).extentCount ∧ (s.job j).extentFirst ≤ i ∧
        i ≤ (s.job j).extentFirst + (s.job j).extentCount - 1 := by
  simp only [extentsInUse, List.any_eq_true, Bool.and_eq_true, decide_eq_true_eq]
  constructor
  · rintro ⟨j, -, active, named, low, high⟩
    exact ⟨max first (s.job j).extentFirst, by omega, by omega, j, active, named, by omega, by omega⟩
  · rintro ⟨i, from_first, to_last, j, active, named, low, high⟩
    exact ⟨j, mem_allJobs j, active, named, by omega, by omega⟩

/-! ### LOAD EXTENTS -/

theorem exec_loadExtents {s : State} {c : ManagementCommand} {rest : List ManagementCommand} {first count : Nat}
    {words : List ExtentWord} (h : AtFront s c rest (.loadExtents first count words)) :
    exec (.loadExtents first count words) s =
      if 4095 < first ∨ count = 0 ∨ 256 < count ∨ 4096 < first + count then refusal s c rest .range
      else if extentsInUse s first count then refusal s c rest .inUse
      else .next (accepted
        { s with tables := { s.tables with extents := writeExtents s.tables.extents first words } } c rest) := by
  have taken : exec (.loadExtents first count words) s = _ :=
    congrArg Host.Outcome.next (takeManagement_front h.1 h.2 _)
  have inUse : extentsInUse (s.putManagement rest) first count = extentsInUse s first count := rfl
  rw [taken, inUse]
  split
  · rw [refuse_putManagement]
  · split
    · rw [refuse_putManagement]
    · exact congrArg Host.Outcome.next (accept_putManagement (s := s.putTables _) _ _)

/-- Settles O25: the words a command carries are as many as it announces, so the range it checks is the range it
writes. -/
theorem loadExtentsWritesItsWords : Obligations.LoadExtentsWritesItsWords := by
  unfold Obligations.LoadExtentsWritesItsWords
  intro s c rest first count words front
  have carried : words.length = count := length_of_managementInstr_loadExtents front.2
  dsimp only
  rw [exec_loadExtents front]
  refine ⟨fun outside => ?_, fun ⟨hf, hc, hl, he⟩ used => ?_, fun ⟨hf, hc, hl, he⟩ unused => ?_⟩
  · rw [if_pos (by omega)]
  · rw [if_neg (by omega), if_pos ((extentsInUse_iff hc).mpr used)]
  · have free : ¬ extentsInUse s first count = true := fun h =>
      have ⟨i, low, high, used⟩ := (extentsInUse_iff hc).mp h
      unused i low high used
    rw [if_neg (by omega), if_neg free]
    refine ⟨_, rfl, fun canonical i => ?_⟩
    split
    · next inside =>
      have read := readExtent_writeExtents_inside (xs := words) (n := first) (k := i - first) canonical
        (by unfold Config.extentWords; omega) (by omega)
      rwa [Nat.add_sub_cancel' inside.1] at read
    · exact readExtent_writeExtents_outside words _ _ (by omega)

end Sys2Proof.Proofs
end

section
/-! The samples of a verify: at a density above 0 and below the stripe count, the ordinals of R79 are more than one apart
before they are rounded down, so that no two of them fall together (R79, R80). -/

namespace Sys2Proof.Proofs

open Sys2Proof Sys2Proof.Machine Sys2Proof.Safety

/-- The ordinal of sample j of a zone with n stripes at density k (R79). -/
def sampleOrdinal (n k j : Nat) : Nat := (2 * j + 1) * n / (2 * k)

theorem isSample_every {n k m : Nat} (h : k = 0 ∨ n ≤ k) : isSample n k m = true ↔ m < n := by
  simp [isSample, h]

theorem isSample_iff {n k m : Nat} (hk : 0 < k) (hn : k < n) :
    isSample n k m = true ↔ ∃ j, j < k ∧ m = sampleOrdinal n k j := by
  have sparse : ¬ (k = 0 ∨ n ≤ k) := by omega
  simp only [isSample, if_neg sparse, List.any_eq_true, List.mem_range, decide_eq_true_eq, sampleOrdinal,
    eq_comm (a := m)]

theorem sampleOrdinal_lt_stripes {n k j : Nat} (hn : k < n) (hj : j < k) : sampleOrdinal n k j < n := by
  have below : (2 * j + 1) * n < 2 * k * n := Nat.mul_lt_mul_of_pos_right (by omega) (by omega)
  exact Nat.div_lt_of_lt_mul below

/-- Two samples in a row are 2n ÷ 2k apart before they are rounded down, which is more than 1. -/
theorem sampleOrdinal_lt_succ {n k : Nat} (hk : 0 < k) (hn : k < n) (j : Nat) :
    sampleOrdinal n k j < sampleOrdinal n k (j + 1) := by
  have apart : (2 * j + 1) * n + 2 * k ≤ (2 * (j + 1) + 1) * n := by
    have expanded : (2 * (j + 1) + 1) * n = (2 * j + 1) * n + 2 * n := by ring
    omega
  calc sampleOrdinal n k j
      < (2 * j + 1) * n / (2 * k) + 1 := Nat.lt_succ_self _
    _ = ((2 * j + 1) * n + 2 * k) / (2 * k) := (Nat.add_div_right _ (by omega)).symm
    _ ≤ sampleOrdinal n k (j + 1) := Nat.div_le_div_right apart

theorem sampleOrdinal_strictMono {n k : Nat} (hk : 0 < k) (hn : k < n) : StrictMono (sampleOrdinal n k) :=
  strictMono_nat_of_lt_succ (sampleOrdinal_lt_succ hk hn)

/-- The samples among the stripes of a zone are the ordinals of R79, each of them once. -/
theorem samples_perm {n k : Nat} (hk : 0 < k) (hn : k < n) :
    ((List.range n).filter (isSample n k)).Perm ((List.range k).map (sampleOrdinal n k)) := by
  refine (List.perm_ext_iff_of_nodup (List.nodup_range.filter _)
    (List.nodup_range.map (sampleOrdinal_strictMono hk hn).injective)).mpr fun m => ?_
  simp only [List.mem_filter, List.mem_range, List.mem_map, isSample_iff hk hn]
  constructor
  · rintro ⟨-, j, hj, rfl⟩
    exact ⟨j, hj, rfl⟩
  · rintro ⟨j, hj, rfl⟩
    exact ⟨sampleOrdinal_lt_stripes hn hj, j, hj, rfl⟩

theorem length_samples (n k : Nat) : ((List.range n).filter (isSample n k)).length = verifyDue n k := by
  unfold verifyDue
  split
  · next every =>
    rw [List.filter_eq_self.mpr fun m hm => (isSample_every every).mpr (List.mem_range.mp hm), List.length_range]
  · have counted := (samples_perm (n := n) (k := k) (by omega) (by omega)).length_eq
    rwa [List.length_map, List.length_range] at counted

/-- Settles O57: the ordinals of R79 rise strictly and stay below the stripe count, so k of them are k stripes. -/
theorem samplesFollowTheFormula : Obligations.SamplesFollowTheFormula := by
  unfold Obligations.SamplesFollowTheFormula
  intro n k
  refine ⟨fun every m => isSample_every every, fun hk hn => ⟨fun m => isSample_iff hk hn, fun i j hij _ => ?_,
    fun j => sampleOrdinal_lt_stripes hn⟩, length_samples n k⟩
  exact sampleOrdinal_strictMono hk hn hij

end Sys2Proof.Proofs
end

section
/-! The generator of a GENERATE slot: four bytes are one word of the image, the words left in a sector are the rest of
its image, and so with the sectors left in a stripe. What a slot stands at, a word or a sector, is said here once for the
generator and the comparator (R69, R70, R73, R74). -/

namespace Sys2Proof.Proofs

open Sys2Proof Sys2Proof.Machine Sys2Proof.Safety

/-! ### Words and their bytes -/

theorem patternWord_zero (lba w : Nat) : (patternWord .zero lba w).toNat = 0 := rfl

theorem patternWord_ones (lba w : Nat) : (patternWord .ones lba w).toNat = 0xFFFFFFFF := rfl

theorem patternWord_byte (b : Byte) (lba w : Nat) : (patternWord (.byte b) lba w).toNat = b.toNat * 0x01010101 := by
  have small := b.isLt
  rw [patternWord, BitVec.toNat_ofNat, Nat.mod_eq_of_lt (by omega)]

theorem patternWord_location (seed : Word) (lba w : Nat) :
    (patternWord (.location seed) lba w).toNat = (seed.toNat + 40503 * (lba % 2 ^ 32) + 257 * w) % 2 ^ 32 := by
  rw [patternWord, BitVec.toNat_ofNat]

@[simp] theorem length_wordBytes (v : Word) : (wordBytes v).length = 4 := Laws.length_leBytes 4 _

theorem leNat_lt (bs : List Byte) : leNat bs < 256 ^ bs.length := by
  induction bs with
  | nil => exact Nat.one_pos
  | cons b bs ih =>
    have small := b.isLt
    rw [leNat, List.length_cons, Nat.pow_succ]
    omega

/-- The bytes of a number spell it again (R180). -/
theorem leBytes_leNat (bs : List Byte) : leBytes bs.length (leNat bs) = bs := by
  induction bs with
  | nil => rfl
  | cons b bs ih =>
    have small := b.isLt
    have low : BitVec.ofNat 8 (b.toNat + 256 * leNat bs) = b := by
      apply BitVec.eq_of_toNat_eq
      rw [BitVec.toNat_ofNat]
      omega
    have high : (b.toNat + 256 * leNat bs) / 256 = leNat bs := by omega
    rw [List.length_cons, leNat, leBytes, low, high, ih]

/-- Four bytes are a word's exactly where they spell it (R70). -/
theorem ofNat_leNat_eq_iff {bs : List Byte} (h : bs.length = 4) (v : Word) :
    BitVec.ofNat 32 (leNat bs) = v ↔ bs = wordBytes v := by
  constructor
  · rintro rfl
    have small := leNat_lt bs
    have spelled := leBytes_leNat bs
    rw [h] at small spelled
    rw [wordBytes, BitVec.toNat_ofNat, Nat.mod_eq_of_lt (by omega), spelled]
  · rintro rfl
    apply BitVec.eq_of_toNat_eq
    rw [wordBytes, Laws.leNat_leBytes, BitVec.toNat_ofNat]
    have small := v.isLt
    omega

/-! ### The image of a sector, word by word -/

/-- The bytes of `n` words of a sector from word w on (R70). -/
def wordsImage (p : Pattern) (lba w n : Nat) : List Byte :=
  (List.range' w n).flatMap fun w => wordBytes (patternWord p lba w)

theorem wordsImage_succ (p : Pattern) (lba w n : Nat) :
    wordsImage p lba w (n + 1) = wordBytes (patternWord p lba w) ++ wordsImage p lba (w + 1) n := rfl

theorem sectorImage_eq_wordsImage (p : Pattern) (lba n : Nat) : sectorImage p lba n = wordsImage p lba 0 n := by
  rw [sectorImage, wordsImage, List.range_eq_range']

@[simp] theorem length_wordsImage (p : Pattern) (lba w n : Nat) : (wordsImage p lba w n).length = 4 * n := by
  rw [wordsImage, Laws.length_flatMap_const _ 4 fun _ => length_wordBytes _, List.length_range']

@[simp] theorem length_sectorImage (p : Pattern) (lba n : Nat) : (sectorImage p lba n).length = 4 * n := by
  rw [sectorImage_eq_wordsImage, length_wordsImage]

theorem stripeImage_eq (p : Pattern) (t : Stripe) (n : Nat) :
    stripeImage p t n = (List.range' t.first t.length).flatMap fun lba => sectorImage p lba n := by
  rw [stripeImage, List.range'_eq_map_range, List.flatMap_map]

theorem length_stripeImage (p : Pattern) (t : Stripe) (n : Nat) : (stripeImage p t n).length = t.length * (4 * n) := by
  rw [stripeImage, Laws.length_flatMap_const _ (4 * n) fun _ => length_sectorImage _ _ _, List.length_range, Nat.mul_comm]

/-! ### Where a slot stands in its stripe -/

/-- The slot stands at the first byte of a word of its stripe, and `n` words of the sector follow that word. -/
structure AtWord (x : Slot) (n : Nat) : Prop where
  inside : x.lba < x.stripeEnd
  boundary : x.inWord = []
  words : x.word + n + 1 = x.sectorWords

/-- The slot stands at the first byte of a sector, before the last `c` sectors of its stripe, or past the last one. -/
structure AtSector (x : Slot) (c : Nat) : Prop where
  sectors : x.lba + c = x.stripeEnd
  first : x.word = 0
  boundary : x.inWord = []
  clean : x.differing = false
  words : 0 < x.sectorWords

/-- The slot behind the sector it stands in, which counts where it differs (R74, R75). -/
def afterSector (x : Slot) (differs : Bool) : Slot :=
  { x with
    lba := x.lba + 1, word := 0, inWord := [], differing := false,
    mismatches := if differs then x.mismatches + 1 else x.mismatches }

theorem AtSector.atWord {x : Slot} {c : Nat} (h : AtSector x (c + 1)) : AtWord x (x.sectorWords - 1) where
  inside := by have := h.sectors; omega
  boundary := h.boundary
  words := by have := h.first; have := h.words; omega

theorem AtSector.after {x : Slot} {c : Nat} (h : AtSector x (c + 1)) (differs : Bool) :
    AtSector (afterSector x differs) c where
  sectors := (Nat.add_right_comm ..).trans h.sectors
  first := rfl
  boundary := rfl
  clean := rfl
  words := h.words

theorem loadedSlot_atSector (b : BayId) (id : Nat) (mode : SlotMode) (p : Pattern) (t : Stripe) {size : Nat}
    (h : 4 ≤ size) : AtSector (loadedSlot b id mode p t size) t.length where
  sectors := rfl
  first := rfl
  boundary := rfl
  clean := rfl
  words := Nat.div_pos h (by decide)

theorem advanceWord_of_lt {x : Slot} (h : x.word + 1 < x.sectorWords) :
    advanceWord x = { x with inWord := [], word := x.word + 1 } := by
  simp [advanceWord, h]

theorem advanceWord_of_last {x : Slot} (h : x.sectorWords ≤ x.word + 1) : advanceWord x = afterSector x x.differing := by
  simp [advanceWord, afterSector, h]

theorem AtWord.next {x : Slot} {n : Nat} (h : AtWord x (n + 1)) :
    AtWord { x with inWord := [], word := x.word + 1 } n where
  inside := h.inside
  boundary := rfl
  words := (by omega : x.word + 1 + n + 1 = x.word + (n + 1) + 1).trans h.words

/-! ### The generator -/

theorem generateBytes_past {x : Slot} (h : x.stripeEnd ≤ x.lba) (n : Nat) : generateBytes n x = ([], x) := by
  cases n with
  | zero => rfl
  | succ n => rw [generateBytes, if_neg (by omega)]

/-- What is taken in two pieces is what is taken at once (R74). -/
theorem generateBytes_add (m n : Nat) (x : Slot) : generateBytes (m + n) x =
    ((generateBytes m x).1 ++ (generateBytes n (generateBytes m x).2).1, (generateBytes n (generateBytes m x).2).2) := by
  induction m generalizing x with
  | zero => simp [generateBytes]
  | succ m ih =>
    by_cases inside : x.lba < x.stripeEnd
    · rw [Nat.succ_add, generateBytes, generateBytes, if_pos inside, if_pos inside]
      simp only [ih, List.cons_append]
    · simp only [generateBytes_past (Nat.le_of_not_lt inside), List.nil_append]

theorem generateBytes_fst_eq_take (n m : Nat) (x : Slot) :
    (generateBytes n x).1 = (generateBytes (n + m) x).1.take n := by
  induction n generalizing x with
  | zero => rfl
  | succ n ih =>
    by_cases inside : x.lba < x.stripeEnd
    · rw [Nat.succ_add, generateBytes, generateBytes, if_pos inside, if_pos inside]
      simp only [List.take_succ_cons, ← ih]
    · simp only [generateBytes_past (Nat.le_of_not_lt inside), List.take_nil]

theorem generateBytes_word {x : Slot} {n : Nat} (h : AtWord x n) :
    generateBytes 4 x = (wordBytes (slotWord x), advanceWord x) := by
  have inside : x.lba < x.stripe.first + x.stripe.length := h.inside
  obtain ⟨a, b, c, d, bytes⟩ := List.length_eq_four.mp (length_wordBytes (slotWord x))
  have same (bs : List Byte) : slotWord { x with inWord := bs } = slotWord x := rfl
  simp [generateBytes, Slot.stripeEnd, inside, h.boundary, same, bytes, advanceWord]

/-- The words left in a sector are generated in ascending order (R70, R74). -/
theorem generateBytes_sector {x : Slot} {n : Nat} (h : AtWord x n) :
    generateBytes (4 * (n + 1)) x =
      (wordsImage x.pattern x.lba x.word (n + 1), afterSector x x.differing) := by
  induction n generalizing x with
  | zero =>
    rw [Nat.zero_add, Nat.mul_one, generateBytes_word h, advanceWord_of_last h.words.ge]
    simp [wordsImage, slotWord]
  | succ n ih =>
    have more : x.word + 1 < x.sectorWords := by have := h.words; omega
    rw [Nat.mul_succ, Nat.add_comm, generateBytes_add, generateBytes_word h, advanceWord_of_lt more, ih h.next]
    rfl

/-- The sectors left in a stripe are generated in ascending order (R70, R74). -/
theorem generateBytes_sectors {x : Slot} {c : Nat} (h : AtSector x c) :
    ∃ y, AtSector y 0 ∧ generateBytes (c * (4 * x.sectorWords)) x =
      ((List.range' x.lba c).flatMap fun lba => sectorImage x.pattern lba x.sectorWords, y) := by
  induction c generalizing x with
  | zero => exact ⟨x, h, by rw [Nat.zero_mul]; rfl⟩
  | succ c ih =>
    obtain ⟨y, past, rest⟩ := ih (h.after x.differing)
    have sector := generateBytes_sector h.atWord
    rw [Nat.sub_add_cancel h.words, h.first, ← sectorImage_eq_wordsImage] at sector
    refine ⟨y, past, ?_⟩
    rw [Nat.succ_mul, Nat.add_comm, generateBytes_add, sector]
    dsimp only
    rw [show x.sectorWords = (afterSector x x.differing).sectorWords from rfl, rest]
    rfl

theorem generateBytes_mismatches {x : Slot} (h : x.differing = false) (n : Nat) :
    (generateBytes n x).2.mismatches = x.mismatches := by
  induction n generalizing x with
  | zero => rfl
  | succ n ih =>
    unfold generateBytes
    split
    · dsimp only
      split
      · exact ih h
      · by_cases more : x.word + 1 < x.sectorWords
        · rw [advanceWord_of_lt more]; exact ih h
        · rw [advanceWord_of_last (by omega), ih rfl, h]; rfl
    · rfl

/-- However many bytes are taken of a loaded slot, they are the first of its stripe's image (R70, R73, R74). -/
theorem generateBytes_loadedSlot (b : BayId) (id : Nat) (p : Pattern) (t : Stripe) {size : Nat} (h : 4 ≤ size) (n : Nat) :
    (generateBytes n (loadedSlot b id .generate p t size)).1 = (stripeImage p t (size / 4)).take n := by
  obtain ⟨y, past, all⟩ := generateBytes_sectors (loadedSlot_atSector b id .generate p t h)
  have image : generateBytes (t.length * (4 * (size / 4))) (loadedSlot b id .generate p t size) =
      (stripeImage p t (size / 4), y) := by rw [stripeImage_eq]; exact all
  rw [generateBytes_fst_eq_take n (t.length * (4 * (size / 4))), Nat.add_comm, generateBytes_add, image]
  dsimp only
  rw [generateBytes_past past.sectors.ge, List.append_nil]

/-- Settles O59: a slot stands at a word of its image after every fourth byte, and two takes are one. -/
theorem generatorsWriteTheStripeImage : Obligations.GeneratorsWriteTheStripeImage := by
  unfold Obligations.GeneratorsWriteTheStripeImage
  refine ⟨fun lba w b seed => ⟨patternWord_zero lba w, patternWord_ones lba w, patternWord_byte b lba w,
    patternWord_location seed lba w⟩, fun b id p t size n h => ⟨generateBytes_loadedSlot b id p t h n, ?_⟩,
    generateBytes_add⟩
  exact generateBytes_mismatches rfl n

end Sys2Proof.Proofs
end

section
/-! The comparator of a COMPARE slot: a word is compared once its four bytes are there, a sector counts once behind its
last word, and a sector that is cut off counts with those still to come (R75, R76). -/

namespace Sys2Proof.Proofs

open Sys2Proof Sys2Proof.Machine Sys2Proof.Safety

theorem compareBytes_append (x : Slot) (first second : List Byte) :
    compareBytes x (first ++ second) = compareBytes (compareBytes x first) second := List.foldl_append

/-- Bytes beyond the stripe are not compared (R76). -/
theorem compareBytes_past {x : Slot} (h : x.stripeEnd ≤ x.lba) (bs : List Byte) : compareBytes x bs = x := by
  induction bs with
  | nil => rfl
  | cons b bs ih =>
    have ignored : compareByte x b = x := if_neg (by omega)
    rw [compareBytes, List.foldl_cons, ignored]
    exact ih

/-- Bytes that do not fill a word wait for the rest of it (R75). -/
theorem compareBytes_short {x : Slot} (inside : x.lba < x.stripeEnd) {bs : List Byte}
    (short : x.inWord.length + bs.length < 4) : compareBytes x bs = { x with inWord := x.inWord ++ bs } := by
  induction bs generalizing x with
  | nil => rw [List.append_nil]; rfl
  | cons b bs ih =>
    rw [List.length_cons] at short
    have waits : compareByte x b = { x with inWord := x.inWord ++ [b] } := by
      rw [compareByte, if_pos inside, if_pos (by rw [List.length_append, List.length_singleton]; omega)]
    have rest := ih (x := { x with inWord := x.inWord ++ [b] }) inside
      (by rw [List.length_append, List.length_singleton]; omega)
    rw [compareBytes, List.foldl_cons, waits]
    simpa [compareBytes] using rest

/-- The slot whose word has been compared with four returned bytes: its sector differs where they are not the word's
(R75). -/
def judgedWord (x : Slot) (bs : List Byte) : Slot :=
  { x with inWord := [], differing := x.differing || decide (bs ≠ wordBytes (slotWord x)) }

theorem AtWord.judged {x : Slot} {n : Nat} (h : AtWord x n) (bs : List Byte) : AtWord (judgedWord x bs) n where
  inside := h.inside
  boundary := rfl
  words := h.words

theorem compareBytes_word {x : Slot} {n : Nat} (h : AtWord x n) {bs : List Byte} (full : bs.length = 4) :
    compareBytes x bs = advanceWord (judgedWord x bs) := by
  have inside : x.lba < x.stripe.first + x.stripe.length := h.inside
  have spelled := ofNat_leNat_eq_iff full (slotWord x)
  have same (bs : List Byte) : slotWord { x with inWord := bs } = slotWord x := rfl
  obtain ⟨a, b, c, d, rfl⟩ := List.length_eq_four.mp full
  simp [compareBytes, compareByte, Slot.stripeEnd, inside, h.boundary, same, spelled, judgedWord, advanceWord]

/-- The slot at the next word of its sector, after four bytes have been compared with the word it stood at. -/
def behindWord (x : Slot) (bs : List Byte) : Slot := { judgedWord x bs with word := x.word + 1 }

theorem compareBytes_inner_word {x : Slot} {n : Nat} (h : AtWord x (n + 1)) {bs : List Byte} (full : bs.length = 4) :
    compareBytes x bs = behindWord x bs ∧ AtWord (behindWord x bs) n := by
  have more : (judgedWord x bs).word + 1 < (judgedWord x bs).sectorWords := by
    have := (h.judged bs).words
    omega
  exact ⟨by rw [compareBytes_word h full, advanceWord_of_lt more]; rfl, (h.judged bs).next⟩

/-- Bytes differ from a first part of `k` bytes and a second part where they differ from one or the other. -/
theorem decide_ne_append {k : Nat} {image : List Byte} (h : image.length = k) (bs images : List Byte) :
    decide (bs ≠ image ++ images) = (decide (bs.take k ≠ image) || decide (bs.drop k ≠ images)) := by
  have parts : bs = image ++ images ↔ bs.take k = image ∧ bs.drop k = images := by
    constructor
    · rintro rfl
      exact ⟨List.take_left' h, List.drop_left' h⟩
    · rintro ⟨rfl, rfl⟩
      exact (List.take_append_drop k bs).symm
  rw [← Bool.decide_or, decide_eq_decide, Ne, parts, not_and_or]

/-- A whole sector's bytes count once where they are not its image (R70, R75). -/
theorem compareBytes_sector {x : Slot} {n : Nat} (h : AtWord x n) {bs : List Byte} (full : bs.length = 4 * (n + 1)) :
    compareBytes x bs =
      afterSector x (x.differing || decide (bs ≠ wordsImage x.pattern x.lba x.word (n + 1))) := by
  induction n generalizing x bs with
  | zero =>
    have image : wordsImage x.pattern x.lba x.word (0 + 1) = wordBytes (slotWord x) := List.append_nil _
    rw [compareBytes_word h full, advanceWord_of_last (h.judged bs).words.ge, image]
    rfl
  | succ n ih =>
    obtain ⟨compared, next⟩ := compareBytes_inner_word h (bs := bs.take 4) (by rw [List.length_take]; omega)
    have joined := congrArg (compareBytes x) (List.take_append_drop 4 bs)
    rw [← joined, compareBytes_append, compared, ih next (by rw [List.length_drop]; omega), wordsImage_succ x.pattern,
      decide_ne_append (length_wordBytes _), ← Bool.or_assoc]
    rfl

/-- The bytes of a sector that is not wholly received settle nothing yet: the sector counts as one that is still to come
(R76). -/
theorem finalMismatches_partial {x : Slot} {n : Nat} (h : AtWord x n) {bs : List Byte} (short : bs.length < 4 * (n + 1)) :
    finalMismatches (compareBytes x bs) = finalMismatches x := by
  induction n generalizing x bs with
  | zero =>
    rw [compareBytes_short h.inside (by rw [h.boundary, List.length_nil]; omega)]
    rfl
  | succ n ih =>
    by_cases full : 4 ≤ bs.length
    · obtain ⟨compared, next⟩ := compareBytes_inner_word h (bs := bs.take 4) (by rw [List.length_take]; omega)
      rw [← List.take_append_drop 4 bs, compareBytes_append, compared, ih next (by rw [List.length_drop]; omega)]
      rfl
    · rw [compareBytes_short h.inside (by rw [h.boundary, List.length_nil]; omega)]
      rfl

/-- The bytes returned for sector i of a stripe whose sectors take `size` bytes. -/
def returnedSector (size : Nat) (data : List Byte) (i : Nat) : List Byte := (data.drop (i * size)).take size

/-- The sectors of a slot's stripe from where it stands on, of which there are `c`, whose bytes are not their image. -/
def mismatched (x : Slot) (data : List Byte) (c : Nat) : Nat :=
  (List.range c).countP fun i =>
    decide (returnedSector (4 * x.sectorWords) data i ≠ sectorImage x.pattern (x.lba + i) x.sectorWords)

/-- A sector whose bytes are not all there is not its image. -/
theorem returnedSector_ne_of_short {p : Pattern} {lba n i : Nat} {data : List Byte} (h : data.length < 4 * n) :
    returnedSector (4 * n) data i ≠ sectorImage p lba n := by
  intro e
  have := congrArg List.length e
  rw [returnedSector, length_sectorImage, List.length_take, List.length_drop] at this
  omega

theorem mismatched_of_short {x : Slot} {data : List Byte} (h : data.length < 4 * x.sectorWords) (c : Nat) :
    mismatched x data c = c := by
  rw [mismatched, List.countP_eq_length.mpr fun i _ => decide_eq_true (returnedSector_ne_of_short h), List.length_range]

/-- The first of the sectors counts for itself, and the rest from the slot behind it. -/
theorem mismatched_succ (x : Slot) (data : List Byte) (c : Nat) (differs : Bool) : mismatched x data (c + 1) =
    (if data.take (4 * x.sectorWords) ≠ sectorImage x.pattern x.lba x.sectorWords then 1 else 0) +
      mismatched (afterSector x differs) (data.drop (4 * x.sectorWords)) c := by
  have shifted (i : Nat) : returnedSector (4 * x.sectorWords) data (i + 1) =
      returnedSector (4 * x.sectorWords) (data.drop (4 * x.sectorWords)) i := by
    generalize 4 * x.sectorWords = size
    rw [returnedSector, returnedSector, List.drop_drop, Nat.succ_mul, Nat.add_comm]
  have first : returnedSector (4 * x.sectorWords) data 0 = data.take (4 * x.sectorWords) := by
    rw [returnedSector, Nat.zero_mul, List.drop_zero]
  have behind (i : Nat) : x.lba + 1 + i = x.lba + (i + 1) := by omega
  simp only [mismatched, List.range_succ_eq_map, List.countP_cons, List.countP_map, Function.comp_def, shifted, first,
    afterSector, behind, decide_eq_true_eq, Nat.add_zero]
  exact Nat.add_comm _ _

/-- The data for the sectors left in a stripe counts those that are not their image (R75, R76). -/
theorem finalMismatches_sectors {x : Slot} {c : Nat} (h : AtSector x c) (data : List Byte) :
    finalMismatches (compareBytes x data) = x.mismatches + mismatched x data c := by
  induction c generalizing x data with
  | zero =>
    have past : x.stripeEnd ≤ x.lba := h.sectors.ge
    rw [compareBytes_past past, finalMismatches, Nat.sub_eq_zero_of_le past]
    rfl
  | succ c ih =>
    by_cases full : 4 * x.sectorWords ≤ data.length
    · have sector := compareBytes_sector h.atWord (bs := data.take (4 * x.sectorWords)) (by
        rw [Nat.sub_add_cancel h.words, List.length_take]; omega)
      rw [Nat.sub_add_cancel h.words, h.first, h.clean, Bool.false_or, ← sectorImage_eq_wordsImage] at sector
      have joined := congrArg (compareBytes x) (List.take_append_drop (4 * x.sectorWords) data)
      rw [← joined, compareBytes_append, sector, ih (h.after _), mismatched_succ x data c, ← Nat.add_assoc]
      congr 1
      simp only [afterSector, decide_eq_true_eq]
      split <;> rfl
    · rw [finalMismatches_partial h.atWord (by rw [Nat.sub_add_cancel h.words]; omega),
        mismatched_of_short (by omega), finalMismatches]
      have := h.sectors
      omega

/-- Settles O60: the sectors are compared one after another, and one that is cut off counts with those to come. -/
theorem comparatorsCountMismatchedSectors : Obligations.ComparatorsCountMismatchedSectors := by
  unfold Obligations.ComparatorsCountMismatchedSectors
  refine ⟨fun b id p t size data h => ?_, compareBytes_append⟩
  rw [finalMismatches_sectors (loadedSlot_atSector b id .compare p t h), mismatched, List.countP_eq_length_filter]
  exact Nat.zero_add _

end Sys2Proof.Proofs
end

section
/-! Data of a drive goes through the slot of its record: what each direction does for each kind of request, and the
frames that carry a passthrough command's data up the link (R75, R120, R128, R155). -/

namespace Sys2Proof.Proofs

open Sys2Proof Sys2Proof.Machine Sys2Proof.Safety

/-! ### Data for a record, and data for none -/

theorem exec_driveDataIn {s : State} {b : BayId} {id : Nat} {r : Record} {k : SlotId} (hf : findRecord s b id = some r)
    (hk : r.slot = some k) (bs : List Byte) : exec (.driveDataIn b id bs) s = .next (takeDataIn s b r k bs) := by
  simp only [exec, execDriveDataIn, hf, hk]

theorem exec_driveDataOut {s : State} {b : BayId} {id : Nat} {r : Record} {k : SlotId} (hf : findRecord s b id = some r)
    (hk : r.slot = some k) (n : Nat) : exec (.driveDataOut b id n) s = .next (takeDataOut s b r k n) := by
  simp only [exec, execDriveDataOut, hf, hk]

/-- Data for a request that has no record, or holds no slot, is discarded (R103, R109). -/
theorem exec_driveData_discarded {s : State} {b : BayId} {id : Nat} (h : ∀ r, findRecord s b id = some r → r.slot = none)
    (bs : List Byte) (n : Nat) : exec (.driveDataIn b id bs) s = .next s ∧ exec (.driveDataOut b id n) s = .next s := by
  cases hf : findRecord s b id with
  | none => simp only [exec, execDriveDataIn, execDriveDataOut, hf, and_self]
  | some r => simp only [exec, execDriveDataIn, execDriveDataOut, hf, h r hf, and_self]

/-! ### Data frames -/

/-- The pieces are the bytes in order, and each can be carried by a data frame (R155; log 18). -/
theorem dataPieces_spec {n : Nat} {bs : List Byte} (h : bs.length ≤ n) :
    (dataPieces n bs).flatten = bs ∧ ∀ q ∈ dataPieces n bs, q ≠ [] ∧ q.length ≤ 65535 := by
  induction n generalizing bs with
  | zero => simp_all [dataPieces]
  | succ n ih =>
    cases bs with
    | nil => simp [dataPieces]
    | cons b bs =>
      have unfolded : dataPieces (n + 1) (b :: bs) =
          (b :: bs).take Config.dataFrameLimit :: dataPieces n ((b :: bs).drop Config.dataFrameLimit) := rfl
      have shorter : ((b :: bs).drop Config.dataFrameLimit).length ≤ n := by
        simp only [List.length_drop, List.length_cons, Config.dataFrameLimit] at h ⊢
        omega
      obtain ⟨joined, each⟩ := ih shorter
      rw [unfolded]
      refine ⟨by rw [List.flatten_cons, joined, List.take_append_drop], List.forall_mem_cons.mpr ⟨⟨?_, ?_⟩, each⟩⟩
      · exact List.cons_ne_nil _ _
      · exact List.length_take_le _ _

/-- Frames in a row reach the server in their order, while the link is UP. -/
theorem foldl_send_eq {α : Type} (f : α → OutFrame) (xs : List α) (s : State) :
    xs.foldl (fun s x => send s (f x)) s =
      { s with sent := if s.link = .up then s.sent ++ xs.map f else s.sent } := by
  induction xs generalizing s with
  | nil => simp
  | cons x xs ih =>
    rw [List.foldl_cons, ih, send_eq]
    split <;> simp

/-! ### A passthrough slot -/

theorem passIn_eq (n : Nat) (x : Slot) :
    passIn n x = { x with moved := if x.direction = .towardServer then x.moved + n else x.moved } := by
  unfold passIn
  split
  · next up => rw [if_pos up]
  · next down => rw [if_neg (by simp [down])]

/-- A passthrough command's data passes its slot and goes up the link, but for a substitute's and for one whose result
is not wanted (R119, R152, R155). -/
theorem takeDataIn_command {r : Record} {cmd : PassCommand} {sub : Bool} (hl : r.link = .command cmd sub) (s : State)
    (b : BayId) (k : SlotId) (bs : List Byte) :
    takeDataIn s b r k bs = { s.putSlot k (passIn bs.length (s.slot k)) with
      sent := if r.wanted = true ∧ sub = false ∧ s.link = .up then
        s.sent ++ (dataPieces bs.length bs).map fun q => .data b cmd.tag q else s.sent } := by
  have unfolded : takeDataIn s b r k bs =
      let u := s.putSlot k (passIn bs.length (s.slot k))
      if r.wanted && !sub then sendData b cmd.tag bs u else u := by
    unfold takeDataIn; rw [hl]; rfl
  rw [unfolded]
  dsimp only
  by_cases carried : r.wanted = true ∧ sub = false
  · rw [if_pos (by simpa using carried), sendData, foldl_send_eq]
    simp only [carried, true_and, State.putSlot_link, State.putSlot_sent]
    rfl
  · rw [if_neg (by simpa using carried), if_neg fun h => carried ⟨h.1, h.2.1⟩]
    rfl

/-- Settles O46: the record's kind and its slot's mode say where the data goes. -/
theorem driveDataPassesThroughTheSlot : Obligations.DriveDataPassesThroughTheSlot := by
  unfold Obligations.DriveDataPassesThroughTheSlot
  intro s b id bytes n
  refine ⟨fun unheld => exec_driveData_discarded unheld bytes n, fun r k hf hk => ?_⟩
  have hid := findRecord_id hf
  subst hid
  rw [exec_driveDataIn hf hk, exec_driveDataOut hf hk]
  refine ⟨fun hl hm => ?_, fun hl hm => ?_, fun cmd sub hl => ⟨?_, ?_⟩⟩
  · simp only [takeDataIn, hl, hm, if_true, State.modSlot]
  · simp only [takeDataOut, slotOutput, hl, hm, if_true]
  · simp only [takeDataOut, slotOutput, hl, passOut]
  · obtain ⟨joined, each⟩ := dataPieces_spec (le_refl bytes.length)
    refine ⟨_, joined, each, ?_⟩
    rw [takeDataIn_command hl, passIn_eq]

end Sys2Proof.Proofs
end

section
/-! READ COVERAGE and READ CERTIFICATE: the layouts of their replies as lists of fields of fixed sizes, so that a field
is found by its number in the list, and what the two commands answer (R101, R169, R182). -/

namespace Sys2Proof.Proofs

open Sys2Proof Sys2Proof.Machine Sys2Proof.Safety

/-! ### Bytes that stand at an offset

`b <+: bytes.drop o` says that the bytes `b` stand at offset `o` of `bytes`. -/

/-- What stands inside bytes stands inside what holds these bytes. -/
theorem prefix_drop_add {b c bytes : List Byte} {o i : Nat} (hb : b <+: bytes.drop o) (hc : c <+: b.drop i) :
    c <+: bytes.drop (o + i) := by
  rw [← List.drop_drop]
  exact hc.trans (hb.drop i)

/-- Bytes that stand at an offset are what is read there. -/
theorem take_eq_of_prefix {b bytes : List Byte} {o n : Nat} (h : b <+: bytes.drop o) (hn : b.length = n) :
    (bytes.drop o).take n = b := by
  rw [← hn]
  exact (List.prefix_iff_eq_take.mp h).symm

/-- A field reads the number whose spelling stands at its offset (R180). -/
theorem field_eq_of_prefix {bytes : List Byte} {o n x : Nat} (h : leBytes n x <+: bytes.drop o) (hx : x < 256 ^ n) :
    field bytes o n = x := by
  rw [field, take_eq_of_prefix h (Laws.length_leBytes n x), Laws.leNat_leBytes, Nat.mod_eq_of_lt hx]

/-- Text that fits its field is followed by zeros (R180). -/
theorem padded_eq {n : Nat} {bs : List Byte} (h : bs.length ≤ n) :
    padded n bs = bs ++ List.replicate (n - bs.length) 0 := by
  rw [padded, List.take_append, List.take_of_length_le h, List.take_replicate, Nat.min_eq_left (Nat.sub_le ..)]

/-- Behind the items of a table come the others, item by item. -/
theorem drop_flatMap_const {α : Type} {f : α → List Byte} {k : Nat} (hf : ∀ x, (f x).length = k) (xs : List α)
    (i : Nat) :
    (xs.flatMap f).drop (k * i) = (xs.drop i).flatMap f := by
  induction i generalizing xs with
  | zero => rfl
  | succ i ih =>
    cases xs with
    | nil => simp
    | cons x xs =>
      rw [List.flatMap_cons, Nat.mul_succ, Nat.add_comm, ← List.drop_drop, ← hf x, List.drop_left, hf x, ih]
      rfl

/-- Item `i` of a table stands at `i` times the size of an item. -/
theorem item_prefix_drop {α : Type} {f : α → List Byte} {k : Nat} (hf : ∀ x, (f x).length = k) {xs : List α} {i : Nat}
    {x : α} (h : xs[i]? = some x) : f x <+: (xs.flatMap f).drop (k * i) := by
  obtain ⟨hi, rfl⟩ := List.getElem?_eq_some_iff.mp h
  rw [drop_flatMap_const hf, List.drop_eq_getElem_cons hi, List.flatMap_cons]
  exact List.prefix_append ..

/-- The same for a table that is padded to a fixed size. -/
theorem item_prefix_drop_padded {α : Type} {f : α → List Byte} {k n : Nat} (hf : ∀ x, (f x).length = k) {xs : List α}
    (fits : k * xs.length ≤ n) {i : Nat} {x : α} (h : xs[i]? = some x) :
    f x <+: (padded n (xs.flatMap f)).drop (k * i) := by
  rw [padded_eq (by rwa [Laws.length_flatMap_const f k hf])]
  exact (item_prefix_drop hf h).trans ((List.prefix_append ..).drop _)

/-- Behind its last item a padded table holds zeros. -/
theorem drop_padded_flatMap {α : Type} {f : α → List Byte} {k n : Nat} (hf : ∀ x, (f x).length = k) {xs : List α}
    (fits : k * xs.length ≤ n) {i : Nat} (h : xs.length ≤ i) :
    (padded n (xs.flatMap f)).drop (k * i) = List.replicate (n - k * i) 0 := by
  have ends : k * xs.length ≤ k * i := Nat.mul_le_mul_left k h
  have size := Laws.length_flatMap_const f k hf xs
  rw [padded_eq (by omega), List.drop_append, List.drop_eq_nil_of_le (by omega), List.drop_replicate, List.nil_append,
    size]
  congr 1
  omega

/-! ### Layouts -/

/-- The bytes are these fields one after another, of these sizes. -/
structure LaidOut (bytes : List Byte) (fields : List (List Byte)) (sizes : List Nat) : Prop where
  joined : bytes = fields.flatten
  sized : fields.map List.length = sizes

section
variable {bytes : List Byte} {fields : List (List Byte)} {sizes : List Nat} (h : LaidOut bytes fields sizes)
include h

/-- A field stands at the sum of the sizes before it. -/
theorem LaidOut.prefix_drop (i : Nat) {b : List Byte} (hb : fields[i]? = some b) :
    b <+: bytes.drop (sizes.take i).sum := by
  obtain ⟨hi, rfl⟩ := List.getElem?_eq_some_iff.mp hb
  rw [h.joined, ← h.sized, List.drop_sum_flatten, List.drop_eq_getElem_cons hi, List.flatten_cons]
  exact List.prefix_append ..

theorem LaidOut.length_eq : bytes.length = sizes.sum := by
  rw [h.joined, ← h.sized, List.length_flatten]

theorem LaidOut.field_eq (i : Nat) {n x : Nat} (hi : fields[i]? = some (leBytes n x)) (hx : x < 256 ^ n) :
    field bytes (sizes.take i).sum n = x :=
  field_eq_of_prefix (h.prefix_drop i hi) hx
end

/-- The fields of a certificate record (R182). -/
theorem laidOut_certificateBytes (r : CertificateRecord) : LaidOut (certificateBytes r)
    [leBytes 4 r.run.toNat, leBytes 1 r.slot.val, leBytes 1 r.bay.val, leBytes 1 r.outcome.code,
      leBytes 1 r.label.length, padded 16 r.label, padded 20 r.serial, leBytes 6 r.capacity,
      leBytes 2 r.sectorSize, leBytes 1 r.program.val, leBytes 1 r.passes.length, leBytes 2 r.extentCount,
      leBytes 1 (clampFlags r), leBytes 1 r.z, leBytes 2 r.sEff, leBytes 2 r.zn,
      padded 14 (r.zoneCounts.flatMap (leBytes 2)), leBytes 4 r.mismatched, leBytes 4 r.failedStripes,
      leBytes 4 r.startTime.toNat, leBytes 4 (r.closeTime.getD 0).toNat, leBytes 4 r.digest.toNat,
      padded 96 (r.passes.flatMap passRecordBytes)]
    [4, 1, 1, 1, 1, 16, 20, 6, 2, 1, 1, 2, 1, 1, 2, 2, 14, 4, 4, 4, 4, 4, 96] where
  joined := by
    unfold certificateBytes
    simp only [List.flatten_cons, List.flatten_nil, List.append_nil, List.append_assoc]
  sized := by simp only [List.map_cons, List.map_nil, Laws.length_leBytes, Laws.length_padded]

/-- A certificate reply counts the stored and the waiting records in front of the record (R169, R182). -/
theorem laidOut_certificateReply (stored waiting : Nat) (r : CertificateRecord) :
    LaidOut (ReplyData.certificate stored waiting r).bytes [leBytes 1 stored, leBytes 1 waiting, certificateBytes r]
      [1, 1, 192] where
  joined := by
    simp only [ReplyData.bytes, List.flatten_cons, List.flatten_nil, List.append_nil, List.append_assoc]
  sized := by simp only [List.map_cons, List.map_nil, Laws.length_leBytes, Laws.length_certificateBytes]

theorem drop_certificateReply (stored waiting : Nat) (r : CertificateRecord) :
    (ReplyData.certificate stored waiting r).bytes.drop 2 = certificateBytes r :=
  List.drop_left' (l₁ := leBytes 1 stored ++ leBytes 1 waiting) rfl

/-- The fields of a certificate's pass entry (R182). -/
theorem laidOut_passRecordBytes (p : PassRecord) : LaidOut (passRecordBytes p)
    [leBytes 1 (p.kind.code + if p.endTime.isSome then 0x80 else 0), leBytes 1 p.pattern, leBytes 1 p.direction,
      leBytes 1 p.density, leBytes 4 p.parameter.toNat, passEndBytes p]
    [1, 1, 1, 1, 4, 4] where
  joined := by simp only [passRecordBytes, List.flatten_cons, List.flatten_nil, List.append_nil, List.append_assoc]
  sized := by simp only [List.map_cons, List.map_nil, Laws.length_leBytes, Laws.length_passEndBytes]

/-- The fields of a coverage reply's header, and its entries behind them (R182). -/
theorem laidOut_coverageBytes (c : CoverageReport) : LaidOut (coverageBytes c)
    [leBytes 1 c.bay.val, leBytes 1 (match c.owner with | some j => j.val | none => 255),
      leBytes 1 (if c.run.isSome then 1 else 0), leBytes 1 c.z, coverageRunBytes c, leBytes 2 c.zn,
      leBytes 2 c.entries.length, c.entries.flatMap coverageEntryBytes]
    [1, 1, 1, 1, 4, 2, 2, 4 * c.entries.length] where
  joined := by
    simp only [coverageBytes, List.flatten_cons, List.flatten_nil, List.append_nil, List.append_assoc] <;> rfl
  sized := by
    simp only [List.map_cons, List.map_nil, Laws.length_leBytes, Laws.length_coverageRunBytes,
      Laws.length_flatMap_const _ 4 Laws.length_coverageEntryBytes]

/-- The fields of a coverage entry (R182). -/
theorem laidOut_coverageEntryBytes (e : ZoneEntry) : LaidOut (coverageEntryBytes e)
    [leBytes 1 e.state.code, leBytes 1 (passByte e.pass), leBytes 1 e.mismatch, leBytes 1 e.fails] [1, 1, 1, 1] where
  joined := by simp only [coverageEntryBytes, List.flatten_cons, List.flatten_nil, List.append_nil, List.append_assoc]
  sized := by simp only [List.map_cons, List.map_nil, Laws.length_leBytes]

/-! ### The reply to READ CERTIFICATE -/

theorem outcome_code_lt (o : RunOutcome) : o.code < 256 := by cases o <;> decide

theorem clampFlags_lt (r : CertificateRecord) : clampFlags r < 256 := by
  unfold clampFlags; split <;> split <;> decide

/-- The zone counts stand one after another from offset 62 on (R182). -/
theorem field_zoneCount {r : CertificateRecord} (seven : r.zoneCounts.length = 7) {i n : Nat}
    (h : r.zoneCounts[i]? = some n) (hn : n < 2 ^ 16) : field (certificateBytes r) (62 + 2 * i) 2 = n :=
  field_eq_of_prefix (prefix_drop_add ((laidOut_certificateBytes r).prefix_drop 16 rfl)
    (item_prefix_drop_padded (Laws.length_leBytes 2) (by omega) h)) hn

/-- The fields of a pass entry that is in use (R164, R182). -/
theorem passRecordBytes_fields {p : PassRecord} (small : p.pattern < 256 ∧ p.direction < 256 ∧ p.density < 256) :
    field (passRecordBytes p) 0 1 = p.kind.code + (if p.endTime = none then 0 else 0x80) ∧
    field (passRecordBytes p) 1 1 = p.pattern ∧ field (passRecordBytes p) 2 1 = p.direction ∧
    field (passRecordBytes p) 3 1 = p.density ∧ field (passRecordBytes p) 4 4 = p.parameter.toNat ∧
    ∀ t, p.endTime = some t → field (passRecordBytes p) 8 4 = t.toNat := by
  obtain ⟨pattern, direction, density⟩ := small
  have layout := laidOut_passRecordBytes p
  refine ⟨?_, layout.field_eq 1 rfl pattern, layout.field_eq 2 rfl direction, layout.field_eq 3 rfl density,
    layout.field_eq 4 rfl p.parameter.isLt, fun t ht => ?_⟩
  · have kind : p.kind.code < 3 := by cases p.kind <;> decide
    refine (layout.field_eq 0 rfl (by split <;> omega)).trans ?_
    cases p.endTime <;> rfl
  · have ends : passEndBytes p = leBytes 4 t.toNat := by simp only [passEndBytes, ht]
    exact layout.field_eq 5 (congrArg some ends) t.isLt

/-- A field that lies inside bytes standing at an offset is read there. -/
theorem field_of_prefix_drop {b bytes : List Byte} {o o' i n : Nat} (h : b <+: bytes.drop o) (inside : i + n ≤ b.length)
    (ho : o' = o + i) : field bytes o' n = field b i n := by
  subst ho
  have shorter : (b.drop i).take n <+: bytes.drop (o + i) := prefix_drop_add h (List.take_prefix ..)
  rw [field, take_eq_of_prefix shorter (by rw [List.length_take, List.length_drop]; omega), field]

/-- The pass entries stand one after another from offset 96 on (R182). -/
theorem field_passEntry {r : CertificateRecord} (eight : r.passes.length ≤ 8) {i : Nat} {p : PassRecord}
    (h : r.passes[i]? = some p) {o k n : Nat} (ho : o = 96 + 12 * i + k) (inside : k + n ≤ 12) :
    field (certificateBytes r) o n = field (passRecordBytes p) k n :=
  field_of_prefix_drop (prefix_drop_add ((laidOut_certificateBytes r).prefix_drop 22 rfl)
    (item_prefix_drop_padded Laws.length_passRecordBytes (by omega) h)) (by rwa [Laws.length_passRecordBytes]) ho

/-- The entries of passes that the program has not hold zeros (R182). -/
theorem unusedPassEntry {r : CertificateRecord} (eight : r.passes.length ≤ 8) {i : Nat} (behind : r.passes.length ≤ i)
    (h : i < 8) : ((certificateBytes r).drop (96 + 12 * i)).take 12 = List.replicate 12 0 := by
  refine take_eq_of_prefix (prefix_drop_add ((laidOut_certificateBytes r).prefix_drop 22 rfl) (i := 12 * i) ?_)
    List.length_replicate
  rw [drop_padded_flatMap Laws.length_passRecordBytes (by omega) behind, List.prefix_replicate_iff]
  exact ⟨by rw [List.length_replicate]; omega, by rw [List.length_replicate]⟩

/-! ### The reply to READ COVERAGE -/

theorem zoneState_code_lt (x : ZoneState) : x.code < 256 := by cases x <;> decide

theorem passByte_lt {e : ZoneEntry} (h : ∀ p, e.pass = some p → p < 8) : passByte e.pass < 256 := by
  unfold passByte
  cases hp : e.pass with
  | none => decide
  | some p => exact (h p hp).trans (by decide)

theorem coverageEntryBytes_fields {e : ZoneEntry}
    (small : e.mismatch < 256 ∧ e.fails < 256 ∧ ∀ p, e.pass = some p → p < 8) :
    field (coverageEntryBytes e) 0 1 = e.state.code ∧ field (coverageEntryBytes e) 1 1 = e.pass.getD 0xFF ∧
    field (coverageEntryBytes e) 2 1 = e.mismatch ∧ field (coverageEntryBytes e) 3 1 = e.fails := by
  obtain ⟨mismatch, fails, pass⟩ := small
  have layout := laidOut_coverageEntryBytes e
  exact ⟨layout.field_eq 0 rfl (zoneState_code_lt e.state), layout.field_eq 1 rfl (passByte_lt pass),
    layout.field_eq 2 rfl mismatch, layout.field_eq 3 rfl fails⟩

/-- The entries stand one after another behind the header of 12 bytes (R182). -/
theorem field_coverageEntry {c : CoverageReport} {i : Nat} {e : ZoneEntry} (h : c.entries[i]? = some e) {o k n : Nat}
    (ho : o = 12 + 4 * i + k) (inside : k + n ≤ 4) :
    field (coverageBytes c) o n = field (coverageEntryBytes e) k n :=
  field_of_prefix_drop (prefix_drop_add ((laidOut_coverageBytes c).prefix_drop 7 rfl)
    (item_prefix_drop Laws.length_coverageEntryBytes h)) (by rwa [Laws.length_coverageEntryBytes]) ho

/-! ### What the commands answer -/

/-- READ COVERAGE on a bay that exists (R101). -/
theorem exec_readCoverage {s : State} {c : ManagementCommand} {rest : List ManagementCommand} {b : BayId}
    {first count : Nat} (h : AtFront s c rest (.readCoverage b.val first count)) :
    exec (.readCoverage b.val first count) s = .next (
      if 1023 < first ∨ count = 0 ∨ 64 < count then replied s c rest (.refused .range) .nothing
      else replied s c rest .accepted (.coverage (coverageReport s b first count))) := by
  simp only [exec, execReadCoverage, takeManagement_front h.1 h.2, bayOf_val, refuse_putManagement, reply_putManagement]
  rfl

/-- The entries of a report end at the count asked for or at the end of the map (R101). -/
theorem coverageReport_entries {s : State} {b : BayId} (listed : (s.map b).entries.length = (s.map b).zn)
    (first count : Nat) :
    (coverageReport s b first count).entries.length = min (first + count) (s.map b).zn - first ∧
    ∀ i, first ≤ i → i < min (first + count) (s.map b).zn →
      (coverageReport s b first count).entries[i - first]? = some (s.zone b i) := by
  constructor
  · simp only [coverageReport, List.length_take, List.length_drop, listed]
    omega
  · intro i above below
    have inMap : i < (s.map b).entries.length := by omega
    simp only [coverageReport, State.zone, List.getD_eq_getElem _ _ inMap]
    rw [List.getElem?_take_of_lt (by omega), List.getElem?_drop, Nat.add_sub_cancel' above,
      List.getElem?_eq_getElem inMap]

/-- A list that holds a record holds one with the lowest run number (R169). -/
theorem lowestRun_spec {rs : List CertificateRecord} (h : rs ≠ []) :
    ∃ r, lowestRun rs = some r ∧ ∀ q ∈ rs, r.run.toNat ≤ q.run.toNat := by
  induction rs with
  | nil => exact absurd rfl h
  | cons a rs ih =>
    by_cases hrs : rs = []
    · subst hrs
      exact ⟨a, rfl, fun q hq => by rw [List.mem_singleton.mp hq]⟩
    · obtain ⟨r, hr, lowest⟩ := ih hrs
      simp only [lowestRun, hr]
      split
      · next lower => exact ⟨r, rfl, List.forall_mem_cons.mpr ⟨lower.le, lowest⟩⟩
      · next higher =>
        exact ⟨a, rfl, List.forall_mem_cons.mpr ⟨le_refl _, fun q hq => (not_lt.mp higher).trans (lowest q hq)⟩⟩

/-- The waiting records are the pending ones whose build is complete (R166, R167). -/
theorem length_waitingRecords (s : State) :
    (waitingRecords s).length = (s.building.filter fun p => p.record.isSome).length := by
  rw [waitingRecords, List.length_filterMap_eq_countP, List.countP_eq_length_filter]

section
variable {s : State} {c : ManagementCommand} {rest : List ManagementCommand} {selector : Nat} {run : Word}

theorem exec_readCertificate_some (h : AtFront s c rest (.readCertificate selector run)) {r : CertificateRecord}
    (hr : selectedRecord s.store selector run = some r) :
    exec (.readCertificate selector run) s = .next (replied s c rest .accepted
      (.certificate s.store.length (s.building.filter fun p => p.record.isSome).length r)) := by
  simp only [exec, execReadCertificate, takeManagement_front h.1 h.2, State.putManagement_store, hr,
    reply_putManagement, ← length_waitingRecords]
  rfl

theorem exec_readCertificate_none (h : AtFront s c rest (.readCertificate selector run))
    (hr : selectedRecord s.store selector run = none) :
    exec (.readCertificate selector run) s = refusal s c rest .range := by
  simp only [exec, execReadCertificate, takeManagement_front h.1 h.2, State.putManagement_store, hr,
    refuse_putManagement]
end

/-- Nothing is selected from an empty store, by a run number that no record bears, or by another selector (R169). -/
theorem selectedRecord_eq_none {store : List CertificateRecord} {selector : Nat} {run : Word}
    (h : store = [] ∨ (selector = 1 ∧ ∀ r ∈ store, r.run ≠ run) ∨ 2 ≤ selector) :
    selectedRecord store selector run = none := by
  match selector, h with
  | 0, .inl empty => rw [empty]; rfl
  | 1, .inl empty => rw [empty]; rfl
  | 1, .inr (.inl ⟨_, unborne⟩) => exact List.find?_eq_none.mpr fun r hr => by simpa using unborne r hr
  | _ + 2, _ => rfl

/-- A run number that a record bears selects a record that bears it (R169). -/
theorem selectedRecord_run {store : List CertificateRecord} {run : Word} (h : ∃ r ∈ store, r.run = run) :
    ∃ r ∈ store, r.run = run ∧ selectedRecord store 1 run = some r := by
  obtain ⟨q, hq, bears⟩ := h
  obtain ⟨r, hr⟩ := Option.isSome_iff_exists.mp
    (List.find?_isSome (p := fun r => decide (r.run = run)).mpr ⟨q, hq, decide_eq_true bears⟩)
  exact ⟨r, List.mem_of_find?_eq_some hr, of_decide_eq_true (List.find?_some hr :), hr⟩

/-- Settles O34: the layouts are read field by field, and the two commands reply with what stands and write nothing. -/
theorem readsOfMapsAndCertificates : Obligations.ReadsOfMapsAndCertificates := by
  unfold Obligations.ReadsOfMapsAndCertificates
  refine ⟨?certificate, ?coverage, fun s c rest =>
    ⟨fun bay first count h => ⟨?outOfRange, ?inRange⟩, fun selector run h => ⟨?oldest, ?named, ?unselected⟩⟩⟩
  case certificate =>
    intro stored waiting r hstored hwaiting hlabel hserial hcapacity hsector eight hextents hz hsEff hzn seven hzones
      hmismatched hfailed hpasses
    have layout := laidOut_certificateBytes r
    have reply := laidOut_certificateReply stored waiting r
    dsimp only
    rw [drop_certificateReply]
    refine ⟨reply.length_eq, reply.field_eq 0 rfl hstored, reply.field_eq 1 rfl hwaiting,
      layout.field_eq 0 rfl r.run.isLt, layout.field_eq 1 rfl (r.slot.isLt.trans (by decide)),
      layout.field_eq 2 rfl (r.bay.isLt.trans (by decide)), ?outcome, layout.field_eq 4 rfl (by omega), ?label, ?serial,
      layout.field_eq 7 rfl hcapacity, layout.field_eq 8 rfl hsector,
      layout.field_eq 9 rfl (r.program.isLt.trans (by decide)), layout.field_eq 10 rfl (by omega),
      layout.field_eq 11 rfl hextents, layout.field_eq 12 rfl (clampFlags_lt r), layout.field_eq 13 rfl hz,
      layout.field_eq 14 rfl hsEff, layout.field_eq 15 rfl hzn,
      fun i n h => field_zoneCount seven h (hzones n (List.mem_of_getElem? h)), layout.field_eq 17 rfl hmismatched,
      layout.field_eq 18 rfl hfailed, layout.field_eq 19 rfl r.startTime.isLt, fun t ht => ?closeTime,
      layout.field_eq 21 rfl r.digest.isLt, fun i p h => ?passes, fun i => unusedPassEntry eight⟩
    case outcome =>
      refine (layout.field_eq 3 rfl (outcome_code_lt r.outcome)).trans ?_
      cases r.outcome <;> rfl
    case label =>
      exact (take_eq_of_prefix (layout.prefix_drop 5 rfl) (Laws.length_padded ..)).trans (padded_eq hlabel)
    case serial =>
      exact (take_eq_of_prefix (layout.prefix_drop 6 rfl) (Laws.length_padded ..)).trans (padded_eq hserial)
    case closeTime =>
      have closed : r.closeTime.getD 0 = t := by rw [ht, Option.getD_some]
      exact layout.field_eq 20 (congrArg (fun v : Word => some (leBytes 4 v.toNat)) closed) t.isLt
    case passes =>
      have inside {o k n : Nat} := field_passEntry eight h (o := o) (k := k) (n := n)
      obtain ⟨kind, pattern, direction, density, parameter, endTime⟩ :=
        passRecordBytes_fields (hpasses p (List.mem_of_getElem? h))
      refine ⟨(inside rfl (by decide)).trans (kind.trans ?_), (inside (by omega) (by decide)).trans pattern,
        (inside (by omega) (by decide)).trans direction, (inside (by omega) (by decide)).trans density,
        (inside (by omega) (by decide)).trans parameter,
        fun t ht => (inside (by omega) (by decide)).trans (endTime t ht)⟩
      cases p.kind <;> rfl
  case coverage =>
    intro r hz hzn hlength hentries
    have layout := laidOut_coverageBytes r
    refine ⟨Laws.length_coverageBytes r, layout.field_eq 0 rfl (r.bay.isLt.trans (by decide)), fun j hj => ?owner,
      fun unowned => ?unowned, fun n hn => ⟨?hasRun, ?run⟩, fun hn => ?noRun, layout.field_eq 3 rfl hz,
      layout.field_eq 5 rfl hzn, layout.field_eq 6 rfl hlength, fun i e h => ?entries⟩
    case owner => exact layout.field_eq 1 (by rw [hj]; rfl) (j.isLt.trans (by decide))
    case unowned => exact layout.field_eq 1 (by rw [unowned]; rfl) (by decide)
    case hasRun => exact layout.field_eq 2 (by rw [hn]; rfl) (by decide)
    case run =>
      have named : coverageRunBytes r = leBytes 4 n.toNat := by simp only [coverageRunBytes, hn]
      exact layout.field_eq 4 (congrArg some named) n.isLt
    case noRun => exact layout.field_eq 2 (by rw [hn]; rfl) (by decide)
    case entries =>
      have inside {o k n : Nat} := field_coverageEntry h (o := o) (k := k) (n := n)
      obtain ⟨state, pass, mismatch, fails⟩ := coverageEntryBytes_fields (hentries e (List.mem_of_getElem? h))
      refine ⟨(inside rfl (by decide)).trans (state.trans ?_), (inside (by omega) (by decide)).trans pass,
        (inside (by omega) (by decide)).trans mismatch, (inside (by omega) (by decide)).trans fails⟩
      cases e.state <;> rfl
  case outOfRange =>
    intro out
    by_cases hbay : bay ≤ 15
    · obtain ⟨b, rfl⟩ : ∃ b : BayId, b.val = bay := ⟨⟨bay, by omega⟩, rfl⟩
      rw [exec_readCoverage h, if_pos (by omega)]
    · simp only [exec, execReadCoverage, takeManagement_front h.1 h.2, bayOf_eq_none (n := bay) (by omega),
        refuse_putManagement]
  case inRange =>
    rintro b rfl hfirst hcount hlimit
    refine ⟨coverageReport s b first count, ?_, rfl, rfl, rfl, rfl, rfl, fun listed =>
      coverageReport_entries listed first count⟩
    rw [exec_readCoverage h, if_neg (by omega)]
  case oldest =>
    rintro rfl stored
    obtain ⟨r, hr, lowest⟩ := lowestRun_spec stored
    exact ⟨r, lowestRun_mem hr, lowest, exec_readCertificate_some h hr⟩
  case named =>
    rintro rfl borne
    obtain ⟨r, hr, bears, selected⟩ := selectedRecord_run borne
    exact ⟨r, hr, bears, exec_readCertificate_some h selected⟩
  case unselected => exact fun unselected => exec_readCertificate_none h (selectedRecord_eq_none unselected)

end Sys2Proof.Proofs
end

section
/-! The upstream link reset and the management command that it leaves being taken, and the expiry of a record's T1
(R110, R111, R119, R161, R178). -/

namespace Sys2Proof.Proofs

open Sys2Proof Sys2Proof.Machine Sys2Proof.Safety

/-! ### Bays changed alike -/

/-- One change made to the bays of a list in turn: each bay of the list is changed once, and the others stand. -/
theorem foldl_modPort {f : BayPort → BayPort} {bs : List BayId} (distinct : bs.Nodup) (s : State) :
    bs.foldl (fun s b => s.modPort b f) s =
      { s with ports := Vector.ofFn fun b : BayId => if b ∈ bs then f (s.port b) else s.port b } := by
  induction bs generalizing s with
  | nil =>
    have same : (Vector.ofFn fun b : BayId => s.port b) = s.ports := Vector.ext fun i hi => Vector.getElem_ofFn hi
    simp only [List.foldl_nil, List.not_mem_nil, if_false, same]
  | cons a bs ih =>
    obtain ⟨fresh, distinct⟩ := List.nodup_cons.mp distinct
    have stepwise : ∀ b : BayId, (if b ∈ bs then f ((s.modPort a f).port b) else (s.modPort a f).port b) =
        if b ∈ a :: bs then f (s.port b) else s.port b := by
      intro b
      by_cases hb : b = a
      · subst hb
        rw [if_neg fresh, if_pos List.mem_cons_self, State.modPort_port_same]
      · simp only [State.modPort_port, List.mem_cons, hb, if_false, false_or]
    rw [List.foldl_cons, ih distinct]
    simp only [stepwise]
    rfl

/-- Each bay's passthrough records have their result wanted set to no (R119). -/
theorem foldl_unwantResults (s : State) : allBays.foldl unwantResults s = { s with
    ports := Vector.ofFn fun b : BayId => { s.port b with
      queue := (s.port b).queue.map fun r => if r.origin = .passthrough then { r with wanted := false } else r } } := by
  have all := foldl_modPort (f := fun p => { p with
    queue := p.queue.map fun r => if r.origin = .passthrough then { r with wanted := false } else r })
    (bs := allBays) (by decide) s
  simp only [mem_allBays, if_true] at all
  exact all

/-- What an upstream link reset leaves: the server's queues empty, its tags FREE, and the command at the front of the
management queue being taken (R119, R161, R178; log 32). -/
theorem linkReset_eq (s : State) : linkReset s = { s with
    link := .down, tags := Vector.replicate 64 false, management := [], hold := [], wait := []
    taking := s.management.head?
    ports := Vector.ofFn fun b : BayId => { s.port b with
      queue := (s.port b).queue.map fun r => if r.origin = .passthrough then { r with wanted := false } else r } } := by
  unfold linkReset
  rw [foldl_unwantResults]
  rfl

/-! ### The management command being taken at a link reset -/

/-- The row of `i` stands for the moment at which the management target takes `i` (R171). -/
def TakesManagement (i : Instr) : Prop :=
  ∃ effect, ∀ s, exec i s = .next (takeManagement i s effect)

theorem TakesManagement.ite {p : Prop} [Decidable p] {i j : Instr} (hi : TakesManagement i) (hj : TakesManagement j) :
    TakesManagement (if p then i else j) := by
  split
  · exact hi
  · exact hj

/-- What a code and a payload spell is the management target's to take (R171, R181). A code spells its command under a
check of the payload's length; LOAD CLASS MAP, LOAD PROGRAM and LOAD EXTENTS, counted, have the check the other way
round. -/
theorem takesManagement_managementInstr (code : Byte) (p : List Byte) : TakesManagement (managementInstr code p) := by
  have unknown : TakesManagement (.unknownCommand code p) := ⟨_, fun _ => rfl⟩
  unfold managementInstr
  dsimp only
  split
  case h_3 | h_6 | h_7 => exact .ite unknown ⟨_, fun _ => rfl⟩
  case h_27 => exact unknown
  all_goals exact .ite ⟨_, fun _ => rfl⟩ unknown

/-- The command left being taken by a link reset has the effect it has at the front of the queue (R178; log 32). -/
theorem takeManagement_taking_eq_front {s : State} {c : ManagementCommand} {i : Instr} (down : s.link = .down)
    (empty : s.management = []) (left : s.taking = some c) (spells : managementInstr c.code c.payload = i)
    (effect : ManagementCommand → State → State) :
    takeManagement i s effect = takeManagement i { s with management := [c], taking := none } effect := by
  have same : s.putTaking none = State.putManagement { s with management := [c], taking := none } [] :=
    congrArg (fun m => { s with management := m, taking := none }) empty
  rw [takeManagement_taking empty left down spells, takeManagement_front rfl spells, same]

/-- Settles O12: `linkReset` written out field by field; and every row the management target takes is one
`takeManagement`, which gives the command left being taken the effect it has at the front of the queue. -/
theorem linkResetDropsTheServersCommands : Obligations.LinkResetDropsTheServersCommands := by
  unfold Obligations.LinkResetDropsTheServersCommands
  intro s
  refine ⟨congrArg Host.Outcome.next (linkReset_eq s), fun i c down empty left spells => ⟨?effect, ?silent⟩⟩
  case effect =>
    obtain ⟨effect, taken⟩ := takesManagement_managementInstr c.code c.payload
    subst spells
    rw [taken, taken, takeManagement_taking_eq_front down empty left rfl]
  case silent =>
    intro d data
    simp only [replied, down, reduceCtorEq, if_false]

/-! ### The expiry of T1 -/

/-- T1 of an ISSUED record expires (R110). -/
theorem exec_t1Expiry_issued {s : State} {b : BayId} {id : Nat} {r : Record} (found : findRecord s b id = some r)
    (issued : r.status = .issued) : exec (.t1Expiry b id) s = .next (expireT1 s b r) := by
  simp only [exec, execT1Expiry, found, issued, if_true]

/-- Of a record that is not ISSUED no T1 runs (log 1). -/
theorem exec_t1Expiry_idle {s : State} {b : BayId} {id : Nat}
    (idle : ∀ r, findRecord s b id = some r → r.status ≠ .issued) : exec (.t1Expiry b id) s = .next s := by
  cases found : findRecord s b id with
  | none => simp only [exec, execT1Expiry, found]
  | some r => simp only [exec, execT1Expiry, found, if_neg (idle r found)]

/-- ABORT goes to the drive, the record is ABORTING under the bay's T2, and so is the entry of an engine record
(R110). -/
theorem expireT1_eq (s : State) (b : BayId) (r : Record) : expireT1 s b r = { s with
    toDrive := s.toDrive ++ [.abort b r.id]
    ports := put s.ports b { s.port b with
      queue := (s.port b).queue.map fun q =>
        if q.id = r.id then { q with status := .aborting, timer := (s.parameters b).t2 } else q }
    inFlight := if r.link = .entry then
      put s.inFlight b ((s.list b).map fun e => if e.request = r.id then { e with status := .aborting } else e)
      else s.inFlight } := by
  unfold expireT1
  cases r.link with
  | entry => rfl
  | port => rfl
  | command c substitute => rfl

/-- A bay whose record's T1 has expired is stalled (R111). -/
theorem stalled_expireT1 {s : State} {b : BayId} {id : Nat} {r : Record} (found : findRecord s b id = some r) :
    stalled (expireT1 s b r) b = true := by
  have present : r ∈ (s.port b).queue := List.mem_of_find?_eq_some found
  have queue : ((expireT1 s b r).port b).queue = (s.port b).queue.map fun q =>
      if q.id = r.id then { q with status := .aborting, timer := (s.parameters b).t2 } else q := by
    rw [expireT1_eq]
    exact congrArg BayPort.queue (put_same ..)
  unfold stalled
  rw [queue, List.any_map, List.any_eq_true]
  exact ⟨r, present, by simp⟩

/-- Settles O43: an ISSUED record's expiry is `expireT1`, written out field by field. -/
theorem t1ExpirySendsAbort : Obligations.T1ExpirySendsAbort := by
  unfold Obligations.T1ExpirySendsAbort
  refine fun s b id => ⟨fun r found issued => ?expires, exec_t1Expiry_idle⟩
  case expires =>
    refine ⟨expireT1 s b r, exec_t1Expiry_issued found issued, ?_, stalled_expireT1 found⟩
    rw [expireT1_eq, findRecord_id found]

end Sys2Proof.Proofs
end

section
/-! The passthrough grant: which slot and which waiting command, what the loop over the capacity wait does with a
command that is not ready, issued, refused or held, and what it keeps (R126, R128, R152, R154, R155, R157). -/

namespace Sys2Proof.Proofs

open Sys2Proof Sys2Proof.Machine Sys2Proof.Safety

/-! ### The slot and the ready commands -/

/-- The lowest-numbered FREE passthrough slot is found (R126). -/
theorem firstFree_passthrough {s : State} {k : SlotId} (hk : k.val < 8) (hf : (s.slot k).owner = .free)
    (hl : ∀ l : SlotId, l < k → (s.slot l).owner ≠ .free) : firstFree s passthroughSlots = some k := by
  unfold firstFree
  rw [passthroughSlots_eq, List.find?_filter, List.find?_eq_some_iff_getElem]
  refine ⟨by simp [hk, slotFree, hf], k.val, by simp, by simp, fun l hlk => ?_⟩
  have h := hl ⟨l, hlk.trans k.isLt⟩ hlk
  simp [slotFree, h]

theorem firstFree_passthrough_none {s : State} (h : ∀ k : SlotId, k.val < 8 → (s.slot k).owner ≠ .free) :
    firstFree s passthroughSlots = none := by
  unfold firstFree
  rw [passthroughSlots_eq, List.find?_eq_none]
  intro k hk
  simpa [slotFree] using h k (by simpa using hk)

/-- A waiting command is not ready where its bay is not READY, is stalled, or holds 4 passthrough records (R126). -/
theorem waitingReady_eq_false {s : State} {c : PassCommand} : waitingReady s c = false ↔
    (s.port c.bay).state ≠ .ready ∨ stalled s c.bay = true ∨
      4 ≤ ((s.port c.bay).queue.filter fun r => decide (r.origin = .passthrough)).length := by
  simp only [waitingReady, bayReady, Bool.and_eq_false_iff, decide_eq_false_iff_not, Bool.not_eq_false', Nat.not_lt,
    or_assoc]
  rfl

/-- Readiness is read from the bay ports alone. -/
theorem waitingReady_congr {s t : State} (h : t.ports = s.ports) (c : PassCommand) :
    waitingReady t c = waitingReady s c := by
  unfold waitingReady bayReady stalled recordsOf State.port
  rw [h]

/-! ### A command that is not issued -/

theorem answer_eq (s : State) (c : PassCommand) (x : ResponseStatus) : answer s c x = { s with
    tags := put s.tags c.tag false
    sent := if s.link = .up then s.sent ++ [.response c.bay.val c.tag c.opcode x false] else s.sent } :=
  respond_eq ..

/-- A held command joins the hold queue with the hold time it was first given, or is answered (R157; log 10). -/
theorem joinHold_eq (s : State) (c : PassCommand) : joinHold s c =
    if c.holdPast = true then answer s c .holdExpired
    else if s.hold.length < 16 then { s with
      hold := insertByArrival { c with holdTime := some (c.holdTime.getD s.stamp) } s.hold, stamp := s.stamp + 1 }
    else answer s c .busy := rfl

/-- A command that is not issued is answered or held: ports and slots stay, and nothing joins the capacity wait. -/
theorem carryOut_frame {s : State} {c : PassCommand} {v : Verdict} (hv : v ≠ .wait) : carryOut s c v = { s with
    hold := (carryOut s c v).hold, stamp := (carryOut s c v).stamp, tags := (carryOut s c v).tags
    sent := (carryOut s c v).sent } := by
  cases v with
  | wait => exact absurd rfl hv
  | answered x => simp only [carryOut, answer_eq]
  | hold =>
    simp only [carryOut, joinHold_eq, answer_eq]
    split
    · rfl
    · split <;> rfl

/-- What a verdict makes of a command that is not issued does not turn on who else waits. -/
theorem carryOut_putWait {s : State} {c : PassCommand} {v : Verdict} (hv : v ≠ .wait) (ws : List PassCommand) :
    carryOut (s.putWait ws) c v = (carryOut s c v).putWait ws := by
  cases v with
  | wait => exact absurd rfl hv
  | answered x => simp only [carryOut, answer_eq]; rfl
  | hold =>
    simp only [carryOut, joinHold_eq, answer_eq, apply_ite (State.putWait · ws)]
    rfl

/-! ### The capacity wait without the command -/

/-- Where no other waiting command bears its tag, a command leaves the capacity wait alone. -/
theorem withoutTag_middle {c : PassCommand} {before after : List PassCommand}
    (h : ∀ d ∈ before ++ after, d.tag ≠ c.tag) : withoutTag c.tag (before ++ c :: after) = before ++ after := by
  have kept : withoutTag c.tag (before ++ after) = before ++ after :=
    List.filter_eq_self.mpr fun d hd => decide_eq_true (h d hd)
  calc withoutTag c.tag (before ++ c :: after)
    _ = withoutTag c.tag (before ++ after) := by simp [withoutTag]
    _ = before ++ after := kept

/-! ### The loop over the capacity wait -/

section
variable {s : State} {k : SlotId} {c : PassCommand} {before : List PassCommand}

/-- Commands that are not ready are passed over (R126). -/
theorem grantPassthrough_skip (h : ∀ d ∈ before, waitingReady s d = false) (cs : List PassCommand) :
    grantPassthrough k (before ++ cs) s = grantPassthrough k cs s := by
  induction before with
  | nil => rfl
  | cons d ds ih =>
    obtain ⟨hd, hds⟩ := List.forall_mem_cons.mp h
    rw [List.cons_append, grantPassthrough, if_neg (by simp [hd]), ih hds]

/-- A ready command that passes its grant check is issued, and the loop ends (R126). -/
theorem grantPassthrough_issue (hr : waitingReady s c = true) (hv : judge s c = .wait) (cs : List PassCommand) :
    grantPassthrough k (c :: cs) s = issueCommand (s.putWait (withoutTag c.tag s.wait)) c k := by
  rw [grantPassthrough, if_pos hr, hv]

/-- A ready command that does not pass its grant check leaves the wait with its verdict carried out, and the loop goes
on with the next (R154). -/
theorem grantPassthrough_passOn (hr : waitingReady s c = true) (hv : judge s c ≠ .wait) (cs : List PassCommand) :
    grantPassthrough k (c :: cs) s =
      grantPassthrough k cs (carryOut (s.putWait (withoutTag c.tag s.wait)) c (judge s c)) := by
  rw [grantPassthrough, if_pos hr]
  cases h : judge s c with
  | wait => exact absurd h hv
  | answered x => rfl
  | hold => rfl
end

/-! ### The issue -/

/-- What a command is issued as: a substitute, or itself (R152, R154). -/
theorem issuedAs_eq (s : State) (c : PassCommand) : issuedAs s c =
    match actionFor s c.bay (opcodeClass s c.opcode) with
    | .substitute cls => (.passthrough ((bayProfile s c.bay).substituteOpcode cls) 0 0 0, cls.cls, true)
    | _ => (.passthrough c.opcode c.lba c.count c.payload, opcodeClass s c.opcode, false) := by
  unfold issuedAs
  cases actionFor s c.bay (opcodeClass s c.opcode) <;> rfl

/-- The issue takes the slot, a position and T1, and asks for a payload that is due (R106, R126, R128, R155; log 34). -/
theorem issueCommand_eq {s : State} {c : PassCommand} {opcode : Byte} {lba count payload : Nat} {cls : OpClass}
    {sub : Bool} (h : issuedAs s c = (.passthrough opcode lba count payload, cls, sub)) (k : SlotId) :
    issueCommand s c k = { s with
      nextRequest := s.nextRequest + 1
      slots := put s.slots k { Slot.empty with
        owner := .passthrough c.bay s.nextRequest c.tag
        direction := if payload = 0 then .towardServer else .towardDrive }
      ports := put s.ports c.bay { s.port c.bay with queue := (s.port c.bay).queue ++ [
        { id := s.nextRequest, origin := .passthrough, request := .passthrough opcode lba count payload
          cls := some cls, link := .command c sub, slot := some k, status := .issued
          timer := (s.parameters c.bay).dataT1, wanted := true }] }
      toDrive := s.toDrive ++ [.request c.bay s.nextRequest (.passthrough opcode lba count payload)]
      sent := if payload ≠ 0 ∧ s.link = .up then s.sent ++ [.data c.bay c.tag []] else s.sent } := by
  unfold issueCommand
  rw [h]
  by_cases hp : payload = 0
  · subst hp
    rfl
  · simp only [Request.payloadUnits, hp, if_false, send_eq, ne_eq, not_false_eq_true, true_and]
    rfl

/-! ### What the loop keeps -/

/-- How the passthrough path goes from `s` to `t` in a grant: what has been sent, held or answered stays so, and nothing
joins the capacity wait. -/
structure GrantKeeps (s t : State) : Prop where
  sent : s.sent <+: t.sent
  hold : ∀ c ∈ s.hold, c ∈ t.hold
  wait : ∀ c ∈ t.wait, c ∈ s.wait
  free : ∀ x, s.tagInUse x = false → t.tagInUse x = false

theorem GrantKeeps.refl (s : State) : GrantKeeps s s := ⟨List.prefix_rfl, fun _ h => h, fun _ h => h, fun _ h => h⟩

theorem GrantKeeps.trans {s t u : State} (h : GrantKeeps s t) (k : GrantKeeps t u) : GrantKeeps s u where
  sent := h.sent.trans k.sent
  hold c hc := k.hold c (h.hold c hc)
  wait c hc := h.wait c (k.wait c hc)
  free x hx := k.free x (h.free x hx)

theorem grantKeeps_leaveWait (s : State) (x : Tag) : GrantKeeps s (s.putWait (withoutTag x s.wait)) where
  sent := List.prefix_rfl
  hold _ h := h
  wait _ h := (mem_withoutTag.mp h).1
  free _ h := h

theorem grantKeeps_answer (s : State) (c : PassCommand) (x : ResponseStatus) : GrantKeeps s (answer s c x) where
  sent := respond_sent_prefix ..
  hold _ h := by rw [answer_eq]; exact h
  wait _ h := by rw [answer_eq] at h; exact h
  free _ h := respond_free _ _ _ _ _ _ _ h

theorem grantKeeps_joinHold (s : State) (c : PassCommand) : GrantKeeps s (joinHold s c) := by
  rw [joinHold_eq]
  split
  · exact grantKeeps_answer ..
  · split
    · exact ⟨List.prefix_rfl, fun _ h => (mem_insertByArrival ..).mpr (.inr h), fun _ h => h, fun _ h => h⟩
    · exact grantKeeps_answer ..

theorem grantKeeps_carryOut (s : State) (c : PassCommand) {v : Verdict} (hv : v ≠ .wait) :
    GrantKeeps s (carryOut s c v) := by
  cases v with
  | wait => exact absurd rfl hv
  | answered x => exact grantKeeps_answer ..
  | hold => exact grantKeeps_joinHold ..

theorem grantKeeps_issueCommand (s : State) (c : PassCommand) (k : SlotId) : GrantKeeps s (issueCommand s c k) := by
  obtain ⟨opcode, lba, count, payload, cls, sub, h⟩ : ∃ opcode lba count payload cls sub,
      issuedAs s c = (.passthrough opcode lba count payload, cls, sub) := by
    rw [issuedAs_eq]
    split <;> exact ⟨_, _, _, _, _, _, rfl⟩
  rw [issueCommand_eq h]
  refine ⟨?_, fun _ h => h, fun _ h => h, fun _ h => h⟩
  dsimp only
  split
  · exact List.prefix_append _ _
  · exact List.prefix_rfl

theorem grantKeeps_grantPassthrough (k : SlotId) (cs : List PassCommand) :
    ∀ s, GrantKeeps s (grantPassthrough k cs s) := by
  induction cs with
  | nil => exact GrantKeeps.refl
  | cons c cs ih =>
    intro s
    have leaves := grantKeeps_leaveWait s c.tag
    cases hr : waitingReady s c with
    | false =>
      rw [← List.singleton_append, grantPassthrough_skip (by simpa using hr)]
      exact ih s
    | true =>
      by_cases hv : judge s c = .wait
      · rw [grantPassthrough_issue hr hv]
        exact leaves.trans (grantKeeps_issueCommand ..)
      · rw [grantPassthrough_passOn hr hv]
        exact (leaves.trans (grantKeeps_carryOut _ c hv)).trans (ih _)

/-! ### What becomes of a command that is not issued -/

/-- Command `c` has been answered with `x` between `s` and `t`, the first response behind those of `s`. -/
def AnsweredNext (c : PassCommand) (x : ResponseStatus) (s t : State) : Prop :=
  t.tagInUse c.tag = false ∧ (s.link = .up → s.sent ++ [.response c.bay.val c.tag c.opcode x false] <+: t.sent)

theorem answeredNext_answer (s : State) (c : PassCommand) (x : ResponseStatus) : AnsweredNext c x s (answer s c x) := by
  refine ⟨?_, fun up => ?_⟩
  · unfold answer
    rw [respond_tagInUse, if_pos rfl]
  · rw [answer_eq, if_pos up]

theorem AnsweredNext.mono {c : PassCommand} {x : ResponseStatus} {s t u : State} (h : AnsweredNext c x s t)
    (k : GrantKeeps t u) : AnsweredNext c x s u :=
  ⟨k.free _ h.1, fun up => (h.2 up).trans k.sent⟩

/-- A held command has joined the hold queue, or has been answered, and stays so (R157; log 10). -/
theorem joinHold_spec {s t : State} {c : PassCommand} (h : GrantKeeps (joinHold s c) t) :
    if c.holdPast = true then AnsweredNext c .holdExpired s t
    else if s.hold.length < 16 then { c with holdTime := some (c.holdTime.getD s.stamp) } ∈ t.hold
    else AnsweredNext c .busy s t := by
  rw [joinHold_eq] at h
  by_cases past : c.holdPast = true
  · rw [if_pos past] at h ⊢
    exact (answeredNext_answer ..).mono h
  · rw [if_neg past] at h ⊢
    by_cases room : s.hold.length < 16
    · rw [if_pos room] at h ⊢
      exact h.hold _ ((mem_insertByArrival ..).mpr (.inl rfl))
    · rw [if_neg room] at h ⊢
      exact (answeredNext_answer ..).mono h

/-! ### The grant -/

theorem exec_passthroughGrant_some {s : State} {k : SlotId} (hk : firstFree s passthroughSlots = some k) :
    exec .passthroughGrant s = .next (grantPassthrough k s.wait s) := by
  simp only [exec, execPassthroughGrant, hk]

/-- Without a FREE slot, or without a ready command, nothing is granted (R126). -/
theorem exec_passthroughGrant_none {s : State}
    (h : (∀ k : SlotId, k.val < 8 → (s.slot k).owner ≠ .free) ∨ ∀ d ∈ s.wait, waitingReady s d = false) :
    exec .passthroughGrant s = .next s := by
  cases hk : firstFree s passthroughSlots with
  | none => simp only [exec, execPassthroughGrant, hk]
  | some k =>
    obtain h | h := h
    · rw [firstFree_passthrough_none h] at hk
      cases hk
    · rw [exec_passthroughGrant_some hk, ← List.append_nil s.wait, grantPassthrough_skip h]
      rfl

section
variable {s : State} {k : SlotId} {c : PassCommand} {before after : List PassCommand}
  (hk : firstFree s passthroughSlots = some k) (hw : s.wait = before ++ c :: after)
  (hb : ∀ d ∈ before, waitingReady s d = false) (hr : waitingReady s c = true)
include hk hw hb hr

/-- The oldest ready command is issued where its grant check lets it (R126, R154). -/
theorem exec_passthroughGrant_issue (hv : judge s c = .wait) :
    exec .passthroughGrant s = .next (issueCommand (s.putWait (withoutTag c.tag s.wait)) c k) := by
  rw [exec_passthroughGrant_some hk]
  conv_lhs => rw [hw]
  rw [grantPassthrough_skip hb, grantPassthrough_issue hr hv]

/-- Where it does not, the loop goes on behind it (R154). -/
theorem exec_passthroughGrant_passOn (hv : judge s c ≠ .wait) : exec .passthroughGrant s =
    .next (grantPassthrough k after (carryOut (s.putWait (withoutTag c.tag s.wait)) c (judge s c))) := by
  rw [exec_passthroughGrant_some hk]
  conv_lhs => rw [hw]
  rw [grantPassthrough_skip hb, grantPassthrough_passOn hr hv]

/-- The slot goes on as if the command had not been waiting: its verdict leaves slots and bay ports alone, so the same
slot is found and the commands before it are passed over again (R154). -/
theorem exec_passthroughGrant_asIfNotWaiting (hv : judge s c ≠ .wait) (ht : ∀ d ∈ before ++ after, d.tag ≠ c.tag) :
    exec .passthroughGrant s =
      exec .passthroughGrant { carryOut s c (judge s c) with wait := before ++ after } := by
  rw [exec_passthroughGrant_passOn hk hw hb hr hv, hw, withoutTag_middle ht, carryOut_putWait hv]
  have frame := carryOut_frame (s := s) (c := c) hv
  generalize carryOut s c (judge s c) = t at frame ⊢
  have slot : firstFree (t.putWait (before ++ after)) passthroughSlots = some k := by rw [frame]; exact hk
  have ready (d : PassCommand) : waitingReady (t.putWait (before ++ after)) d = waitingReady s d :=
    waitingReady_congr (by rw [frame]; rfl) d
  have passed := grantPassthrough_skip (k := k) (fun d hd => (ready d).trans (hb d hd)) after
  exact (congrArg Host.Outcome.next passed).symm.trans (exec_passthroughGrant_some slot).symm

/-- The command that is not issued has left the wait for good, and what its verdict brought about stays. -/
theorem exec_passthroughGrant_leaves (hv : judge s c ≠ .wait) : ∃ t, exec .passthroughGrant s = .next t ∧
    c ∉ t.wait ∧ GrantKeeps (carryOut (s.putWait (withoutTag c.tag s.wait)) c (judge s c)) t := by
  have onward := grantKeeps_grantPassthrough k after
    (carryOut (s.putWait (withoutTag c.tag s.wait)) c (judge s c))
  refine ⟨_, exec_passthroughGrant_passOn hk hw hb hr hv, fun hc => ?_, onward⟩
  have waits : c ∈ withoutTag c.tag s.wait := (grantKeeps_carryOut _ c hv).wait c (onward.wait c hc)
  exact (mem_withoutTag.mp waits).2 rfl
end

/-- Settles O54: the loop passes over the commands that are not ready, and the first ready one is issued, or leaves the
wait with its verdict and hands the slot on. -/
theorem passthroughGrantServesTheOldestReady : Obligations.PassthroughGrantServesTheOldestReady := by
  unfold Obligations.PassthroughGrantServesTheOldestReady
  intro s
  simp only [← waitingReady_eq_false]
  refine ⟨exec_passthroughGrant_none, fun k c before after hk8 hf hl hw hb hc => ?_⟩
  have hk : firstFree s passthroughSlots = some k := firstFree_passthrough hk8 hf hl
  have hr : waitingReady s c = true := by simpa using hc
  refine ⟨fun x hv => ?answeredGoesOn, fun hv => ?heldGoesOn, fun x hv => ?answered, fun hv => ?held, fun hv => ?issued⟩
  case answeredGoesOn =>
    intro ht
    rw [exec_passthroughGrant_asIfNotWaiting hk hw hb hr (by simp [hv]) ht, hv, carryOut, answer_eq]
  case heldGoesOn =>
    intro ht
    rw [exec_passthroughGrant_asIfNotWaiting hk hw hb hr (by simp [hv]) ht, hv, carryOut, joinHold_eq, answer_eq,
      answer_eq]
  case answered =>
    obtain ⟨t, grant, left, keeps⟩ := exec_passthroughGrant_leaves hk hw hb hr (by simp [hv])
    rw [hv] at keeps
    exact ⟨t, grant, left, (answeredNext_answer (s.putWait (withoutTag c.tag s.wait)) c x).mono keeps⟩
  case held =>
    obtain ⟨t, grant, left, keeps⟩ := exec_passthroughGrant_leaves hk hw hb hr (by simp [hv])
    rw [hv] at keeps
    exact ⟨t, grant, left, joinHold_spec (s := s.putWait (withoutTag c.tag s.wait)) keeps⟩
  case issued =>
    rw [exec_passthroughGrant_issue hk hw hb hr hv]
    have issued : issuedAs (s.putWait (withoutTag c.tag s.wait)) c = _ := issuedAs_eq s c
    split
    · next cls action =>
      rw [action] at issued
      rw [issueCommand_eq issued]
      rfl
    · next action =>
      rw [issueCommand_eq (issued.trans _)]
      · rfl
      · split
        · next cls e => exact absurd e (action cls)
        · rfl

end Sys2Proof.Proofs
end

section
/-! A drive that is inserted, and the end of a selective reset (R131, R132, R134, R140). -/

namespace Sys2Proof.Proofs

open Sys2Proof Sys2Proof.Machine Sys2Proof.Safety

/-! ### Writes of one port -/

theorem modPort_putPort (s : State) (b : BayId) (p : BayPort) (f : BayPort → BayPort) :
    (s.putPort b p).modPort b f = s.putPort b (f p) := by
  unfold State.modPort
  rw [State.putPort_port_same, putPort_putPort]

/-- Raising a kind and writing a port touch different parts of the state. -/
theorem raise_putPort (s : State) (b c : BayId) (p : BayPort) (k : AttentionKind) :
    raise (s.putPort c p) b k = (raise s b k).putPort c p := by
  unfold raise
  rw [State.putPort_attentionOf]
  dsimp only
  split
  · rfl
  · rw [show channel ((s.putPort c p).putAttention b (s.attentionOf b ||| kindMask k)) k =
      channel (s.putAttention b (s.attentionOf b ||| kindMask k)) k from rfl]
    split
    · rfl
    · rw [send_eq, send_eq]; rfl

/-! ### Insertion -/

/-- A bay with port `p` whose insertion is complete: INSERTED is raised, and the bay is IDENTIFYING with the first
IDENTIFY issued (R131, R134). -/
def insertedWith (s : State) (b : BayId) (p : BayPort) : State :=
  identifying (raise s b .inserted) b (showing .fast { p with state := .identifying, debounce := none, attempts := 0 })

theorem completeInsertion_eq (s : State) (b : BayId) (p : BayPort) :
    completeInsertion (s.putPort b p) b = insertedWith s b p := by
  unfold completeInsertion insertedWith
  dsimp only
  rw [modPort_putPort, setBayState_putPort _ _ _ (by nofun), raise_putPort, issueIdentify_eq]
  rfl

/-- A seated drive is debounced, or with a debounce time of 0 inserted at once (R131). -/
theorem seat_eq (s : State) (b : BayId) (p : BayPort) : seat (s.putPort b p) b =
    if s.tables.debounceTime = 0 then insertedWith s b p
    else s.putPort b (showing .fast { p with state := .seating, debounce := some s.tables.debounceTime }) := by
  unfold seat
  dsimp only
  rw [completeInsertion_eq, modPort_putPort, setBayState_putPort _ _ _ (by nofun)]
  rfl

/-- Settles O41: presence is read in the three kinds of bay state, and an EMPTY bay is seated (`seat_eq`). -/
theorem insertionIsDebounced : Obligations.InsertionIsDebounced := by
  unfold Obligations.InsertionIsDebounced
  intro s b p inserted
  refine ⟨fun present => ?again, fun absent => ?asserted, fun seating running => ?expires⟩
  case again =>
    simp only [exec, execPresenceAsserted]
    rw [if_pos present]
  case asserted =>
    simp only [exec, execPresenceAsserted]
    rw [if_neg (by simpa using absent)]
    have seating : setPresence s b true = s.putPort b { p with presence := true } := rfl
    have occupied : stopDebounce (setPresence s b true) b = s.putPort b { p with presence := true, debounce := none } :=
      modPort_putPort ..
    cases state : (s.port b).state with
    | empty => exact congrArg Host.Outcome.next (seat_eq ..)
    | seating =>
      dsimp only
      rw [seating, show p.state = .seating from state]
    | identifying | ready | faulted | resetting =>
      dsimp only
      rw [occupied, show p.state = _ from state]
  case expires =>
    have complete : completeInsertion s b = inserted p := by
      have written := completeInsertion_eq s b (s.port b)
      rwa [putPort_self] at written
    simp only [exec, execDebounceExpiry]
    rw [if_pos (Option.isSome_iff_ne_none.mpr running), show (s.port b).state = .seating from seating]
    dsimp only
    rw [complete]

/-! ### The end of a selective reset -/

/-- After a selective reset the identify procedure goes on, or with its attempts spent the bay is FAULTED (R140). -/
theorem endReset_eq (s : State) (b : BayId) : endReset s b =
    if (s.port b).attempts < 3 then
      identifying s b (showing .fast { s.port b with state := .identifying, resetTimer := none })
    else raise (s.putPort b (showing .double { s.port b with
      state := .faulted, resetTimer := none, fault := some .noResponse, rejected := none })) b .faulted := by
  unfold endReset State.modPort
  dsimp only
  rw [setBayState_putPort _ _ _ (by nofun), issueIdentify_eq, enterFaulted_eq, State.putPort_port_same]
  rfl

/-- Settles O40: a reset timer that runs ends the reset by `endReset_eq`. -/
theorem resetTimerEndsTheReset : Obligations.ResetTimerEndsTheReset := by
  unfold Obligations.ResetTimerEndsTheReset
  intro s b p
  simp only [exec, execResetTimerExpiry, Option.isSome_iff_ne_none]
  split
  · rw [endReset_eq]
    split <;> rfl
  · rfl

end Sys2Proof.Proofs
end

section
/-! The cold and the warm reset of the whole bridge: its blocks cleared, and each bay's presence sampled afresh (R130,
R131, R179). -/

namespace Sys2Proof.Proofs

open Sys2Proof Sys2Proof.Machine Sys2Proof.Safety

/-! ### A cleared bay samples its presence -/

/-- A bay samples its presence input (R130). -/
def sampleBay (s : State) (b : BayId) : State := if (s.port b).presence then seat s b else s

theorem samplePresence_eq (s : State) : samplePresence s = allBays.foldl sampleBay s := rfl

/-- A bay samples a port: an absent drive leaves it alone, a seated one is debounced or inserted (R131). -/
theorem sampleBay_eq (s : State) (b : BayId) : sampleBay s b =
    if (s.port b).presence = false then s
    else if s.tables.debounceTime = 0 then insertedWith s b (s.port b)
    else s.putPort b (showing .fast { s.port b with state := .seating, debounce := some s.tables.debounceTime }) := by
  have seated := seat_eq s b (s.port b)
  rw [putPort_self] at seated
  unfold sampleBay
  by_cases absent : (s.port b).presence = false
  · rw [if_pos absent, if_neg (by simp [absent])]
  · rw [if_neg absent, if_pos (by simpa using absent), seated]

/-- What the bays of a list may change when they sample their presence. -/
structure Sampled (bs : List BayId) (s t : State) : Prop where
  frame : t = { s with
    sent := t.sent, toDrive := t.toDrive, attention := t.attention, ports := t.ports, nextRequest := t.nextRequest }
  sent : s.sent <+: t.sent
  toDrive : s.toDrive <+: t.toDrive
  others : ∀ c, c ∉ bs → t.port c = s.port c ∧ t.attentionOf c = s.attentionOf c

theorem Sampled.refl (bs : List BayId) (s : State) : Sampled bs s s :=
  ⟨rfl, List.prefix_rfl, List.prefix_rfl, fun _ _ => ⟨rfl, rfl⟩⟩

theorem Sampled.cons {b : BayId} {bs : List BayId} {s t u : State} (h : Sampled [b] s t) (k : Sampled bs t u) :
    Sampled (b :: bs) s u where
  frame := by rw [k.frame, h.frame]
  sent := h.sent.trans k.sent
  toDrive := h.toDrive.trans k.toDrive
  others c hc := by
    obtain ⟨hb, hbs⟩ := not_or.mp (mt List.mem_cons.mpr hc)
    obtain ⟨port, attention⟩ := k.others c hbs
    obtain ⟨port', attention'⟩ := h.others c (by simpa using hb)
    exact ⟨port.trans port', attention.trans attention'⟩

theorem Sampled.putPort (s : State) (b : BayId) (p : BayPort) : Sampled [b] s (s.putPort b p) :=
  ⟨rfl, List.prefix_rfl, List.prefix_rfl, fun c hc =>
    ⟨(State.putPort_port ..).trans (if_neg (by simpa using hc)), rfl⟩⟩

theorem Sampled.insertedWith (s : State) (b : BayId) (p : BayPort) : Sampled [b] s (insertedWith s b p) where
  frame := by
    unfold Proofs.insertedWith identifying
    rw [raise_frame]
  sent := (inner_raise s b .inserted).sent
  toDrive := by
    unfold Proofs.insertedWith identifying
    rw [raise_toDrive]
    exact List.prefix_append ..
  others c hc := by
    have other : c ≠ b := by simpa using hc
    exact ⟨(put_other _ _ other).trans (raise_port ..), raise_attentionOf_other s other _⟩

theorem sampled_sampleBay (s : State) (b : BayId) : Sampled [b] s (sampleBay s b) := by
  rw [sampleBay_eq]
  split
  · exact .refl ..
  · split
    · exact .insertedWith ..
    · exact .putPort ..

theorem sampled_foldl (bs : List BayId) (s : State) : Sampled bs s (bs.foldl sampleBay s) := by
  induction bs generalizing s with
  | nil => exact .refl ..
  | cons b bs ih => exact (sampled_sampleBay s b).cons (ih _)

/-- Among bays that sample in turn each does so once, with its port and its attention set as they stood at first. -/
theorem foldl_sampleBay_at {bs : List BayId} (distinct : bs.Nodup) {b : BayId} (hb : b ∈ bs) (s : State) :
    ∃ u, u.port b = s.port b ∧ u.attentionOf b = s.attentionOf b ∧ u.tables = s.tables ∧
      (bs.foldl sampleBay s).port b = (sampleBay u b).port b ∧
      (bs.foldl sampleBay s).attentionOf b = (sampleBay u b).attentionOf b ∧
      (sampleBay u b).toDrive <+: (bs.foldl sampleBay s).toDrive := by
  obtain ⟨before, after, rfl⟩ := List.append_of_mem hb
  obtain ⟨-, fresh, apart⟩ := List.nodup_append.mp distinct
  have notBefore : b ∉ before := fun h => apart b h b List.mem_cons_self rfl
  have notAfter : b ∉ after := (List.nodup_cons.mp fresh).1
  have first := sampled_foldl before s
  have last := sampled_foldl after (sampleBay (before.foldl sampleBay s) b)
  obtain ⟨port, attention⟩ := first.others b notBefore
  obtain ⟨port', attention'⟩ := last.others b notAfter
  rw [List.foldl_append, List.foldl_cons]
  exact ⟨_, port, attention, by rw [first.frame], port', attention', last.toDrive⟩

/-! ### A bay whose port has been cleared -/

/-- A port after a reset, at the level of its presence input (R130). -/
def clearedPort (p : BayPort) : BayPort := { BayPort.cold with presence := p.presence }

theorem clearedPort_absent {p : BayPort} (h : p.presence = false) : clearedPort p = BayPort.cold := by
  unfold clearedPort; rw [h]; rfl

/-- A port after a reset whose drive is seated under a debounce time (R130, R131). -/
def seatedPort (time : Nat) : BayPort :=
  { BayPort.cold with presence := true, state := .seating, debounce := some time, shown := .fast }

theorem seatedPort_eq {p : BayPort} (h : p.presence = true) (time : Nat) :
    showing .fast { clearedPort p with state := .seating, debounce := some time } = seatedPort time := by
  unfold clearedPort; rw [h]; rfl

/-- One change made to every bay in turn. -/
theorem foldl_modPort_allBays (f : BayPort → BayPort) (s : State) : allBays.foldl (fun s b => s.modPort b f) s =
    { s with ports := Vector.ofFn fun b : BayId => f (s.port b) } := by
  have all := foldl_modPort (f := f) (bs := allBays) (by decide) s
  simp only [mem_allBays, if_true] at all
  exact all

/-- The ports of the bridge cleared in turn (R130). -/
theorem resetPorts_eq (s : State) :
    resetPorts s = { s with ports := Vector.ofFn fun b : BayId => clearedPort (s.port b) } :=
  foldl_modPort_allBays clearedPort s

theorem resetPorts_port (s : State) (b : BayId) : (resetPorts s).port b = clearedPort (s.port b) := by
  rw [resetPorts_eq]
  exact Vector.getElem_ofFn b.isLt

/-- A kind raised in an empty set stands there alone (R175). -/
theorem raise_attentionOf_empty {s : State} {b : BayId} (h : s.attentionOf b = 0) (k : AttentionKind) :
    (raise s b k).attentionOf b = kindMask k := by
  have alone : (s.putAttention b (0 ||| kindMask k)).attentionOf b = kindMask k :=
    (State.putAttention_attentionOf_same ..).trans BitVec.zero_or
  unfold raise
  rw [h, if_neg (by simp [kindPresent])]
  dsimp only
  split
  · exact alone
  · rw [send_eq]; exact alone

/-- Bay `b` as it stands in `t` after it has sampled its presence afresh, under a debounce time (R130, R131). -/
def SampledAfresh (b : BayId) (present : Bool) (time : Nat) (t : State) : Prop :=
  if present = false then t.port b = BayPort.cold ∧ t.attentionOf b = 0
  else if time ≠ 0 then t.attentionOf b = 0 ∧ t.port b = seatedPort time
  else
    t.attentionOf b = kindMask .inserted ∧
    ∃ id, .request b id .identify ∈ t.toDrive ∧ t.port b = { BayPort.cold with
      presence := true, state := .identifying, attempts := 1, queue := [identifyRecord id], shown := .fast }

/-- What follows at other bays leaves a bay as it has sampled. -/
theorem SampledAfresh.mono {b : BayId} {present : Bool} {time : Nat} {t u : State} (h : SampledAfresh b present time t)
    (port : u.port b = t.port b) (attention : u.attentionOf b = t.attentionOf b) (drive : t.toDrive <+: u.toDrive) :
    SampledAfresh b present time u := by
  unfold SampledAfresh at *
  rw [port, attention]
  split_ifs at *
  · exact h
  · exact h
  · obtain ⟨inserted, id, issued, identifies⟩ := h
    exact ⟨inserted, id, drive.subset issued, identifies⟩

/-- A cleared bay samples its presence (R130, R131). -/
theorem sampleBay_cleared {s : State} {b : BayId} {p : BayPort} (port : s.port b = clearedPort p)
    (attention : s.attentionOf b = 0) : SampledAfresh b p.presence s.tables.debounceTime (sampleBay s b) := by
  have level : (s.port b).presence = p.presence := by rw [port]; rfl
  rw [sampleBay_eq, level]
  unfold SampledAfresh
  split
  · next absent => exact ⟨port.trans (clearedPort_absent absent), attention⟩
  · next seated =>
    have present : p.presence = true := by simpa using seated
    by_cases atOnce : s.tables.debounceTime = 0
    · rw [if_pos atOnce, if_neg (not_not.mpr atOnce)]
      refine ⟨raise_attentionOf_empty attention _, s.nextRequest, ?_, ?_⟩
      · unfold insertedWith identifying
        rw [raise_nextRequest]
        exact List.mem_append_right _ (List.mem_singleton.mpr rfl)
      · unfold insertedWith identifying
        rw [raise_nextRequest, port, clearedPort, present]
        exact put_same ..
    · rw [if_neg atOnce, if_pos atOnce, port, seatedPort_eq present]
      exact ⟨attention, State.putPort_port_same ..⟩

/-! ### The resets of the bridge -/

/-- A warm reset clears the operating state, and the bays sample (R179). -/
theorem sampled_warmReset (s : State) : Sampled allBays (resetPorts (clearOperation s)) (warmReset s) := by
  unfold warmReset
  rw [samplePresence_eq]
  exact sampled_foldl allBays _

/-- Each bay of a warm reset samples its presence afresh (R130, R131). -/
theorem sampledAfresh_warmReset (s : State) (b : BayId) :
    SampledAfresh b (s.port b).presence s.tables.debounceTime (warmReset s) := by
  obtain ⟨u, uport, uattention, utables, port, attention, drive⟩ :=
    foldl_sampleBay_at (bs := allBays) (by decide) (mem_allBays b) (resetPorts (clearOperation s))
  have cleared : u.port b = clearedPort (s.port b) := uport.trans (resetPorts_port ..)
  have silent : u.attentionOf b = 0 := by
    rw [uattention, resetPorts_eq]
    exact Vector.getElem_replicate b.isLt
  have time : u.tables.debounceTime = s.tables.debounceTime := by rw [utables, resetPorts_eq]; rfl
  have sampled := sampleBay_cleared cleared silent
  rw [time] at sampled
  exact sampled.mono port attention drive

/-- Settles O11: the reply leaves first, and behind it stands `warmReset`: its frame by `sampled_warmReset`, its bays by
`sampledAfresh_warmReset`. -/
theorem resetBridgeIsAWarmReset : Obligations.ResetBridgeIsAWarmReset := by
  unfold Obligations.ResetBridgeIsAWarmReset
  intro s c rest front
  have sampled := sampled_warmReset (accepted s c rest)
  rw [resetPorts_eq] at sampled
  refine ⟨warmReset (accepted s c rest), ?taken, sampled.sent, ?kept, sampledAfresh_warmReset (accepted s c rest)⟩
  case taken => simp only [exec, execResetBridge, takeManagement_front front.1 front.2, accept_putManagement]
  case kept => exact sampled.frame

/-- What a bay's sample makes of its port under a debounce time above 0, where nothing but the port changes (R131). -/
def debouncedPort (time : Nat) (p : BayPort) : BayPort :=
  if p.presence = false then p else showing .fast { p with state := .seating, debounce := some time }

theorem sampleBay_debounced {s : State} (h : s.tables.debounceTime ≠ 0) (b : BayId) :
    sampleBay s b = s.modPort b (debouncedPort s.tables.debounceTime) := by
  rw [sampleBay_eq, if_neg h]
  unfold State.modPort debouncedPort
  split
  · exact (putPort_self s b).symm
  · rfl

theorem foldl_sampleBay_debounced {s : State} {time : Nat} (h : s.tables.debounceTime = time) (h0 : time ≠ 0)
    (bs : List BayId) : bs.foldl sampleBay s = bs.foldl (fun s b => s.modPort b (debouncedPort time)) s := by
  induction bs generalizing s with
  | nil => rfl
  | cons b bs ih =>
    rw [List.foldl_cons, List.foldl_cons, sampleBay_debounced (h ▸ h0), h]
    exact ih h

theorem samplePresence_debounced {s : State} (h : s.tables.debounceTime ≠ 0) : samplePresence s = { s with
    ports := Vector.ofFn fun b : BayId => debouncedPort s.tables.debounceTime (s.port b) } := by
  rw [samplePresence_eq, foldl_sampleBay_debounced rfl h, foldl_modPort_allBays]

theorem debouncedPort_clearedPort (time : Nat) (p : BayPort) :
    debouncedPort time (clearedPort p) = if p.presence then seatedPort time else BayPort.cold := by
  unfold debouncedPort
  by_cases present : p.presence = true
  · have level : (clearedPort p).presence = true := present
    rw [if_pos present, if_neg (by simp [level]), seatedPort_eq present]
  · have absent : p.presence = false := by simpa using present
    have level : (clearedPort p).presence = false := absent
    rw [if_neg present, if_pos level, clearedPort_absent absent]

/-- A warm reset with a debounce time above 0 (R130, R131, R179). -/
theorem warmReset_debounced {s : State} (h : s.tables.debounceTime ≠ 0) : warmReset s = { clearOperation s with
    ports := Vector.ofFn fun b : BayId =>
      if (s.port b).presence then seatedPort s.tables.debounceTime else BayPort.cold } := by
  have ports : ∀ b, debouncedPort s.tables.debounceTime ((resetPorts (clearOperation s)).port b) =
      if (s.port b).presence then seatedPort s.tables.debounceTime else BayPort.cold := fun b => by
    rw [resetPorts_port]
    exact debouncedPort_clearedPort ..
  have time : (resetPorts (clearOperation s)).tables.debounceTime = s.tables.debounceTime := by
    rw [resetPorts_eq]; rfl
  unfold warmReset
  rw [samplePresence_debounced (by rwa [time]), time]
  simp only [ports]
  rw [resetPorts_eq]

/-- Settles O10: a warm reset over the initial tables, whose debounce time of 64 ms is above 0. -/
theorem coldResetGivesTheInitialValues : Obligations.ColdResetGivesTheInitialValues := by
  unfold Obligations.ColdResetGivesTheInitialValues
  intro s
  have time : (clearPower s).tables.debounceTime ≠ 0 := by change 64 ≠ 0; decide
  exact congrArg Host.Outcome.next (warmReset_debounced time)

end Sys2Proof.Proofs
end

section
/-! The indicator of a bay: its override, the phases of its cycle and its automatic pattern (R142 to R144). -/

namespace Sys2Proof.Proofs

open Sys2Proof Sys2Proof.Machine Sys2Proof.Safety

/-! ### SET INDICATOR -/

/-- The patterns in the order of their bytes, and AUTO behind them (R181). -/
theorem overrideOf_low {n : Nat} (h : n < 7) : overrideOf n =
    some ([some .off, some .on, some .slow, some .fast, some .wink, some .double, none].getD n none) := by
  interval_cases n <;> rfl

theorem overrideOf_high {n : Nat} (h : 7 ≤ n) : overrideOf n = none := by
  unfold overrideOf
  split
  case h_8 => rfl
  all_goals omega

/-- The automatic pattern looks past the override (R144). -/
theorem refreshIndicator_override (s : State) (b : BayId) (o : Option IndicatorPattern) :
    refreshIndicator (s.modPort b fun p => { p with override := o }) b =
      s.putPort b (showing (autoPattern s b) { s.port b with override := o }) := by
  have auto : autoPattern (s.putPort b { s.port b with override := o }) b = autoPattern s b := by
    unfold autoPattern
    rw [State.putPort_port_same]
    rfl
  rw [refreshIndicator_showing]
  unfold State.modPort
  rw [auto, State.putPort_port_same, putPort_putPort]

/-! ### The CLOSED job that closed last -/

theorem latestClosed_cons (s : State) (b : BayId) (i : JobId) (js : List JobId) : latestClosed s b (i :: js) =
    if (s.job i).state = .closed ∧ (s.job i).bay = b then
      some (match latestClosed s b js with
        | some k => if (s.job i).closeOrder < (s.job k).closeOrder then k else i
        | none => i)
    else latestClosed s b js := by
  rw [latestClosed]
  cases latestClosed s b js with
  | none => rfl
  | some k =>
    dsimp only
    rw [apply_ite some]

/-- Nothing is found exactly where none of those listed is CLOSED at the bay (R143). -/
theorem latestClosed_none {s : State} {b : BayId} {js : List JobId} :
    latestClosed s b js = none ↔ ∀ j ∈ js, (s.job j).state = .closed → (s.job j).bay ≠ b := by
  induction js with
  | nil => simp [latestClosed]
  | cons i js ih =>
    rw [List.forall_mem_cons, ← ih, latestClosed_cons]
    by_cases closed : (s.job i).state = .closed ∧ (s.job i).bay = b
    · rw [if_pos closed]
      exact ⟨nofun, fun h => absurd closed.2 (h.1 closed.1)⟩
    · rw [if_neg closed]
      exact (and_iff_right (not_and.mp closed)).symm

/-- What is found is CLOSED at the bay, and none of those listed closed after it (R143). -/
theorem latestClosed_some {s : State} {b : BayId} {js : List JobId} {k : JobId} (h : latestClosed s b js = some k) :
    ((s.job k).state = .closed ∧ (s.job k).bay = b) ∧
      ∀ j ∈ js, (s.job j).state = .closed → (s.job j).bay = b → (s.job j).closeOrder ≤ (s.job k).closeOrder := by
  induction js generalizing k with
  | nil => cases h
  | cons i js ih =>
    rw [latestClosed_cons] at h
    rw [List.forall_mem_cons]
    by_cases closed : (s.job i).state = .closed ∧ (s.job i).bay = b
    · rw [if_pos closed] at h
      obtain rfl := Option.some.inj h
      cases rest : latestClosed s b js with
      | none =>
        have others := latestClosed_none.mp rest
        exact ⟨closed, fun _ _ => le_rfl, fun j hj hc hb => absurd hb (others j hj hc)⟩
      | some l =>
        obtain ⟨found, latest⟩ := ih rest
        dsimp only
        split
        · next later => exact ⟨found, fun _ _ => later.le, latest⟩
        · next earlier =>
          exact ⟨closed, fun _ _ => le_rfl, fun j hj hc hb => (latest j hj hc hb).trans (not_lt.mp earlier)⟩
    · rw [if_neg closed] at h
      obtain ⟨found, latest⟩ := ih h
      exact ⟨found, fun hc hb => absurd ⟨hc, hb⟩ closed, latest⟩

/-- The one job of the bay that closed after every other is found (R143). -/
theorem latestClosed_eq {s : State} {b : BayId} {js : List JobId} {j : JobId} (listed : j ∈ js)
    (closed : (s.job j).state = .closed) (bay : (s.job j).bay = b)
    (last : ∀ k, k ≠ j → (s.job k).state = .closed → (s.job k).bay = b → (s.job k).closeOrder < (s.job j).closeOrder) :
    latestClosed s b js = some j := by
  cases found : latestClosed s b js with
  | none => exact absurd bay (latestClosed_none.mp found j listed closed)
  | some k =>
    obtain ⟨⟨kclosed, kbay⟩, latest⟩ := latestClosed_some found
    by_contra other
    have before := last k (fun e => other (by rw [e])) kclosed kbay
    exact absurd (latest j listed closed bay) before.not_ge

/-! ### The automatic pattern -/

theorem autoPattern_outside_ready {s : State} {b : BayId} {state : BayState} (h : (s.port b).state = state)
    (outside : state ≠ .ready) : autoPattern s b = bayPattern state := by
  subst h
  exact autoPattern_of_state outside

theorem autoPattern_ready {s : State} {b : BayId} (h : (s.port b).state = .ready) :
    autoPattern s b = ((shownJob s b).map fun j => jobPattern (s.job j)).getD .on := by
  unfold autoPattern
  rw [h]
  cases shownJob s b <;> rfl

theorem shownJob_active {s : State} {b : BayId} {j : JobId} (h : activeJob s b = some j) : shownJob s b = some j := by
  unfold shownJob; rw [h]

theorem shownJob_idle {s : State} {b : BayId} (h : activeJob s b = none) :
    shownJob s b = latestClosed s b allJobs := by
  unfold shownJob; rw [h]

/-- The pattern of an active job goes by its state (R143). -/
theorem jobPattern_active {x : Job} (h : x.state.active = true) : jobPattern x =
    match x.state with
    | .waitingBay => .wink
    | .waitingTrigger => .wink
    | .paused => .wink
    | .halted => .double
    | _ => .slow := by
  unfold jobPattern
  cases state : x.state with
  | free | loaded | closed => rw [state] at h; cases h
  | waitingBay | waitingTrigger | paused | halted | preparing _ | running | draining _ | finishing => rfl

/-- The pattern of a CLOSED job goes by its outcome (R143). -/
theorem jobPattern_closed {x : Job} (h : x.state = .closed) : jobPattern x =
    match x.outcome with
    | some .certified => .on
    | some .rejected => .double
    | _ => .wink := by
  unfold jobPattern
  rw [h]
  cases x.outcome with
  | none => rfl
  | some o => cases o <;> rfl

/-! ### Phases -/

/-- A phase that stands in a cycle is followed by the next one, the last by the first (R142). -/
theorem nextPhase_phase {p : BayPort} (h : p.phase < p.shown.cycle.length) :
    (nextPhase p).phase = if p.phase + 1 = p.shown.cycle.length then 0 else p.phase + 1 := by
  change (p.phase + 1) % p.shown.cycle.length = _
  split
  · next last => rw [last, Nat.mod_self]
  · next inside => exact Nat.mod_eq_of_lt (by omega)

/-- Settles O38: SET INDICATOR by `refreshIndicator_override`, a phase's end by `nextPhase_phase`, and the automatic
pattern of a READY bay by its shown job. -/
theorem indicatorsShowTheirPattern : Obligations.IndicatorsShowTheirPattern := by
  unfold Obligations.IndicatorsShowTheirPattern
  intro s
  refine ⟨fun c rest bay pattern front => ⟨fun outside => ?refused, fun b named low => ?taken⟩, fun b => ?phase,
    rfl, rfl, rfl, rfl, fun b => ⟨fun state => ?empty, fun state => ?fast, fun state => ?faulted,
      fun ready => ⟨fun j one active bay => ?active, fun idle => ⟨fun j closed bay last => ?closed, fun none => ?none⟩⟩⟩⟩
  case refused =>
    simp only [exec, execSetIndicator, takeManagement_front front.1 front.2]
    rcases outside with high | high
    · simp only [bayOf_eq_none high, refuse_putManagement]
    · simp only [overrideOf_high high, refuse_putManagement]
      cases bayOf bay <;> rfl
  case taken =>
    subst named
    simp only [exec, execSetIndicator, takeManagement_front front.1 front.2, bayOf_val, overrideOf_low low,
      accept_putManagement, refreshIndicator_override]
    rfl
  case phase =>
    refine ⟨_, rfl, ?_, fun inCycle => ?_⟩
    · rw [State.modPort_port_same]; rfl
    · rw [State.modPort_port_same]; exact nextPhase_phase inCycle
  case empty => exact autoPattern_outside_ready state nofun
  case fast => rcases state with state | state | state <;> exact autoPattern_outside_ready state nofun
  case faulted => exact autoPattern_outside_ready state nofun
  case active =>
    rw [autoPattern_ready ready, shownJob_active (activeJob_eq_some one active bay)]
    exact jobPattern_active active
  case closed =>
    rw [autoPattern_ready ready, shownJob_idle (activeJob_none.mpr idle),
      latestClosed_eq (mem_allJobs j) closed bay last]
    exact jobPattern_closed closed
  case none =>
    rw [autoPattern_ready ready, shownJob_idle (activeJob_none.mpr idle), latestClosed_none.mpr fun j _ => none j]
    rfl

end Sys2Proof.Proofs
end

section
/-! The order of arrival: the capacity wait and the hold queue as two queues of commands that stand apart from one
another, and what keeps them so when a command goes over from either to the other, or leaves (R154, R157, R158; log 6). -/

namespace Sys2Proof.Proofs

open Sys2Proof Sys2Proof.Machine Sys2Proof.Safety

/-! ### Two queues in the order of arrival -/

/-- Two queues in the order of arrival, with no arrival in both and every arrival below `n`. -/
structure InOrder (a b : List PassCommand) (n : Nat) : Prop where
  left : a.Pairwise fun c d => c.arrival < d.arrival
  right : b.Pairwise fun c d => c.arrival < d.arrival
  apart : ∀ c ∈ a, ∀ d ∈ b, c.arrival ≠ d.arrival
  leftBelow : ∀ c ∈ a, c.arrival < n
  rightBelow : ∀ c ∈ b, c.arrival < n

theorem queuesOrdered_iff {s : State} : QueuesOrdered s ↔ InOrder s.wait s.hold s.stamp :=
  ⟨fun ⟨hw, hh, ha, hb, hc⟩ => ⟨hw, hh, ha, hb, hc⟩, fun ⟨hw, hh, ha, hb, hc⟩ => ⟨hw, hh, ha, hb, hc⟩⟩

section
variable {a b cs : List PassCommand} {n : Nat} {c d : PassCommand}

theorem InOrder.swap (h : InOrder a b n) : InOrder b a n where
  left := h.right
  right := h.left
  apart c hc d hd := (h.apart d hd c hc).symm
  leftBelow := h.rightBelow
  rightBelow := h.leftBelow

theorem InOrder.later (h : InOrder a b n) {m : Nat} (hm : n ≤ m) : InOrder a b m :=
  { h with leftBelow := fun c hc => (h.leftBelow c hc).trans_le hm
           rightBelow := fun c hc => (h.rightBelow c hc).trans_le hm }

/-- Commands may leave a queue. -/
theorem InOrder.filter (h : InOrder a b n) (p : PassCommand → Bool) : InOrder (a.filter p) b n :=
  { h with left := h.left.filter p
           apart := fun c hc => h.apart c (List.mem_filter.mp hc).1
           leftBelow := fun c hc => h.leftBelow c (List.mem_filter.mp hc).1 }

/-- A command that arrived as none of those queued may join a queue. -/
theorem InOrder.insert (h : InOrder a b n) (hn : c.arrival < n) (ha : ∀ d ∈ a, d.arrival ≠ c.arrival)
    (hb : ∀ d ∈ b, d.arrival ≠ c.arrival) : InOrder a (insertByArrival c b) n :=
  { h with
    right := pairwise_insertByArrival c b h.right hb
    apart := fun d hd e he => by
      rcases (mem_insertByArrival ..).mp he with rfl | he
      · exact ha d hd
      · exact h.apart d hd e he
    rightBelow := fun d hd => by
      rcases (mem_insertByArrival ..).mp hd with rfl | hd
      · exact hn
      · exact h.rightBelow d hd }

/-- The mark of a hold time that is past moves no command. -/
protected theorem InOrder.markPast (h : InOrder a b n) (x : Tag) : InOrder (a.map (markPast x)) b n := by
  have arrival (c : PassCommand) : (markPast x c).arrival = c.arrival := by
    unfold markPast; split <;> rfl
  refine { h with left := ?_, apart := ?_, leftBelow := ?_ }
  · rw [List.pairwise_map]
    simpa only [arrival] using h.left
  · simpa only [List.forall_mem_map, arrival] using h.apart
  · simpa only [List.forall_mem_map, arrival] using h.leftBelow

/-! ### Commands that are judged one after the other -/

/-- The commands `cs` of queue `a` are still to be judged, one after the other: each of them leaves `a` with its tag,
and may join `b` or be gone. -/
structure Leaving (cs a b : List PassCommand) (n : Nat) : Prop extends InOrder a b n where
  distinct : cs.Pairwise fun c d => c.arrival ≠ d.arrival
  below : ∀ c ∈ cs, c.arrival < n
  own : ∀ c ∈ cs, ∀ d ∈ a, d.arrival = c.arrival → d.tag = c.tag
  strange : ∀ c ∈ cs, ∀ d ∈ b, d.arrival ≠ c.arrival

/-- The commands of a queue arrived at different moments. -/
theorem InOrder.arrival_inj (h : InOrder a b n) (hc : c ∈ a) (hd : d ∈ a) (e : d.arrival = c.arrival) : d = c := by
  have nodup : (a.map PassCommand.arrival).Nodup := List.pairwise_map.mpr (h.left.imp Nat.ne_of_lt)
  exact List.inj_on_of_nodup_map nodup hd hc e

theorem Leaving.of_sublist (h : InOrder a b n) (hs : cs.Sublist a) : Leaving cs a b n :=
  { h with
    distinct := (h.left.sublist hs).imp Nat.ne_of_lt
    below := fun c hc => h.leftBelow c (hs.subset hc)
    own := fun c hc d hd e => by rw [h.arrival_inj (hs.subset hc) hd e]
    strange := fun c hc d hd e => h.apart c (hs.subset hc) d hd e.symm }

/-- A command that is passed over stays where it is. -/
theorem Leaving.tail (h : Leaving (c :: cs) a b n) : Leaving cs a b n :=
  { h with
    distinct := (List.pairwise_cons.mp h.distinct).2
    below := fun d hd => h.below d (List.mem_cons_of_mem _ hd)
    own := fun d hd => h.own d (List.mem_cons_of_mem _ hd)
    strange := fun d hd => h.strange d (List.mem_cons_of_mem _ hd) }

theorem Leaving.later (h : Leaving cs a b n) {m : Nat} (hm : n ≤ m) : Leaving cs a b m :=
  { h with
    toInOrder := h.toInOrder.later hm
    below := fun c hc => (h.below c hc).trans_le hm }

protected theorem Leaving.withoutTag (h : Leaving cs a b n) (x : Tag) : Leaving cs (withoutTag x a) b n :=
  { h with
    toInOrder := h.toInOrder.filter _
    own := fun c hc d hd => h.own c hc d (mem_withoutTag.mp hd).1 }

/-- A command that is judged goes over to the other queue, whatever its hold time becomes. -/
theorem Leaving.over (h : Leaving (c :: cs) a b n) (e : d.arrival = c.arrival) :
    Leaving cs (withoutTag c.tag a) (insertByArrival d b) n := by
  have own := h.own c List.mem_cons_self
  have strange := h.strange c List.mem_cons_self
  have left := h.tail.withoutTag c.tag
  refine { left with toInOrder := left.toInOrder.insert ?_ ?_ ?_, strange := fun f hf g hg => ?_ }
  · rw [e]; exact h.below c List.mem_cons_self
  · rw [e]
    intro g hg eg
    obtain ⟨hg, ht⟩ := mem_withoutTag.mp hg
    exact ht (own g hg eg)
  · rw [e]; exact strange
  · rcases (mem_insertByArrival ..).mp hg with rfl | hg
    · rw [e]; exact (List.pairwise_cons.mp h.distinct).1 f hf
    · exact left.strange f hf g hg
end

/-! ### The two queues of a state -/

/-- A held read that is judged again leaves the hold queue, or stays (R158). -/
theorem leaving_rejudge {s : State} {c : PassCommand} {cs : List PassCommand}
    (h : Leaving (c :: cs) s.hold s.wait s.stamp) :
    Leaving cs (rejudge s c).hold (rejudge s c).wait (rejudge s c).stamp := by
  cases hv : judgeHeld s c with
  | hold => rw [rejudge_hold hv]; exact h.tail
  | answered x => rw [rejudge_answered hv]; exact h.tail.withoutTag _
  | wait => rw [rejudge_wait hv]; exact h.over rfl

theorem queuesOrdered_reevaluate {s : State} (h : QueuesOrdered s) (b : BayId) : QueuesOrdered (reevaluate s b) := by
  have judged : ∀ (cs : List PassCommand) (t : State), Leaving cs t.hold t.wait t.stamp →
      QueuesOrdered (cs.foldl rejudge t) := by
    intro cs
    induction cs with
    | nil => exact fun t ht => queuesOrdered_iff.mpr ht.toInOrder.swap
    | cons c cs ih => exact fun t ht => ih _ (leaving_rejudge ht)
  exact judged _ s (.of_sublist (queuesOrdered_iff.mp h).swap List.filter_sublist)

/-- A waiting command whose grant check does not issue it is answered, or returns to the hold queue (R157). -/
theorem leaving_carryOut {s : State} {c : PassCommand} {cs : List PassCommand} {v : Verdict} (hv : v ≠ .wait)
    (h : Leaving (c :: cs) s.wait s.hold s.stamp) :
    let t := carryOut (s.putWait (withoutTag c.tag s.wait)) c v
    Leaving cs t.wait t.hold t.stamp := by
  cases v with
  | wait => exact absurd rfl hv
  | answered x => simp only [carryOut, answer_eq]; exact h.tail.withoutTag _
  | hold =>
    simp only [carryOut, joinHold_eq, answer_eq]
    split
    · exact h.tail.withoutTag _
    · split
      · exact (h.over (d := { c with holdTime := some (c.holdTime.getD s.stamp) }) rfl).later (Nat.le_succ _)
      · exact h.tail.withoutTag _

theorem queuesOrdered_grantPassthrough (k : SlotId) (cs : List PassCommand) :
    ∀ s : State, Leaving cs s.wait s.hold s.stamp → QueuesOrdered (grantPassthrough k cs s) := by
  induction cs with
  | nil => exact fun s h => queuesOrdered_iff.mpr h.toInOrder
  | cons c cs ih =>
    intro s h
    cases hr : waitingReady s c with
    | false =>
      rw [← List.singleton_append, grantPassthrough_skip (by simpa using hr)]
      exact ih s h.tail
    | true =>
      by_cases hv : judge s c = .wait
      · rw [grantPassthrough_issue hr hv]
        have left : QueuesOrdered (s.putWait (withoutTag c.tag s.wait)) :=
          queuesOrdered_iff.mpr (h.tail.withoutTag _).toInOrder
        unfold issueCommand
        dsimp only
        split
        · exact left
        · rw [send_eq]; exact left
      · rw [grantPassthrough_passOn hr hv]
        exact ih _ (leaving_carryOut hv h)

/-- A command that arrives bears a number that none of those queued bears (R154, R157; log 6). -/
theorem queuesOrdered_takePassthrough {s : State} (h : QueuesOrdered s) (f : CommandFrame) (b : BayId) :
    QueuesOrdered (takePassthrough s f b) := by
  have order := queuesOrdered_iff.mp h
  have bumped : InOrder s.wait s.hold (s.stamp + 1) := order.later (Nat.le_succ _)
  have newest : (arrivingCommand s f b).arrival < s.stamp + 1 := Nat.lt_succ_self _
  have unlikeWait : ∀ d ∈ s.wait, d.arrival ≠ s.stamp := fun d hd => (order.leftBelow d hd).ne
  have unlikeHold : ∀ d ∈ s.hold, d.arrival ≠ s.stamp := fun d hd => (order.rightBelow d hd).ne
  rw [queuesOrdered_iff]
  unfold takePassthrough
  dsimp only
  cases judgeArrival s (arrivingCommand s f b) with
  | wait => exact (bumped.swap.insert newest unlikeHold unlikeWait).swap
  | answered x => simp only [carryOut, answer_eq]; exact bumped
  | hold =>
    simp only [carryOut, joinHold_eq, answer_eq]
    split
    · exact bumped
    · split
      · let c : PassCommand := { arrivingCommand s f b with holdTime := some (s.stamp + 1) }
        exact (bumped.insert (c := c) newest unlikeWait unlikeHold).later (Nat.le_succ _)
      · exact bumped

theorem queuesOrdered_answerLeaving {s : State} (h : QueuesOrdered s) (b : BayId) :
    QueuesOrdered (answerLeaving s b) := by
  have answered (x : ResponseStatus) (c : PassCommand) (t : State) (ht : QueuesOrdered t) :
      QueuesOrdered (answer t c x) := by
    rw [answer_eq]; exact ht
  have allAnswered (x : ResponseStatus) : ∀ (cs : List PassCommand) (t : State), QueuesOrdered t →
      QueuesOrdered (cs.foldl (fun t c => answer t c x) t) := by
    intro cs
    induction cs with
    | nil => exact fun _ ht => ht
    | cons c cs ih => exact fun t ht => ih _ (answered x c t ht)
  refine allAnswered _ _ _ (queuesOrdered_iff.mpr ?_)
  exact (((queuesOrdered_iff.mp h).filter _).swap.filter _).swap

end Sys2Proof.Proofs
end

section
/-! What the bridge's operations leave of the queues and of the slot pool: the bounds and the order of arrival of the
queues, and the two parts of the pool (R121, R154, R157, R171). Each operation is brought under `QueuesKept` once, in
the order of the model. -/

namespace Sys2Proof.Proofs

open Sys2Proof Sys2Proof.Machine Sys2Proof.Safety

/-! ### The relation -/

/-- The bounds of the two queues, the order of arrival and the parts of the slot pool go from `s` over to `t`. -/
structure QueuesKept (s t : State) : Prop where
  management : s.management.length ≤ Config.managementQueueCapacity →
    t.management.length ≤ Config.managementQueueCapacity
  hold : s.hold.length ≤ Config.holdQueueCapacity → t.hold.length ≤ Config.holdQueueCapacity
  ordered : QueuesOrdered s → QueuesOrdered t
  slots : SlotsParted s → SlotsParted t

/-- What `QueuesKept` reads of a state. -/
def queuesAndSlots (s : State) :
    List ManagementCommand × List PassCommand × List PassCommand × Nat × Vector Slot 32 :=
  (s.management, s.wait, s.hold, s.stamp, s.slots)

theorem QueuesKept.refl (s : State) : QueuesKept s s := ⟨id, id, id, id⟩

section
variable {s t u : State}

/-- A state with the same queues, numbering and slots may follow. -/
theorem QueuesKept.same (h : QueuesKept s t) (e : queuesAndSlots u = queuesAndSlots t) : QueuesKept s u := by
  simp only [queuesAndSlots, Prod.mk.injEq] at e
  obtain ⟨management, wait, hold, stamp, slots⟩ := e
  have slot (k : SlotId) : u.slot k = t.slot k := by unfold State.slot; rw [slots]
  refine ⟨fun x => ?_, fun x => ?_, fun x => ?_, fun x k => ?_⟩
  · rw [management]; exact h.management x
  · rw [hold]; exact h.hold x
  · rw [queuesOrdered_iff, wait, hold, stamp]; exact queuesOrdered_iff.mp (h.ordered x)
  · rw [slot]; exact h.slots x k

/-- Inner work that keeps the order of arrival may follow. -/
theorem QueuesKept.inner (h : QueuesKept s t) (hi : Inner t u) (ho : QueuesOrdered t → QueuesOrdered u) :
    QueuesKept s u where
  management x := by rw [hi.management]; exact h.management x
  hold x := hi.hold (h.hold x)
  ordered x := ho (h.ordered x)
  slots x := hi.slots (h.slots x)

/-- Work on one item after the other. -/
theorem QueuesKept.foldl {α : Type} {f : State → α → State} (hf : ∀ t x, QueuesKept s t → QueuesKept s (f t x))
    (h : QueuesKept s t) (xs : List α) : QueuesKept s (xs.foldl f t) := by
  induction xs generalizing t with
  | nil => exact h
  | cons x xs ih => exact ih (hf t x h)
end

section
variable {s t : State} (h : QueuesKept s t) {b : BayId} {j : JobId}
include h

/-! ### Named updates -/

protected theorem QueuesKept.putTables {x : Tables} : QueuesKept s (t.putTables x) := h.same rfl
protected theorem QueuesKept.putClock {x : Word} : QueuesKept s (t.putClock x) := h.same rfl
protected theorem QueuesKept.putRunCounter {x : Word} : QueuesKept s (t.putRunCounter x) := h.same rfl
protected theorem QueuesKept.putLink {x : Link} : QueuesKept s (t.putLink x) := h.same rfl
protected theorem QueuesKept.putTaking {x : Option ManagementCommand} : QueuesKept s (t.putTaking x) := h.same rfl
protected theorem QueuesKept.putTag {x : Tag} {v : Bool} : QueuesKept s (t.putTag x v) := h.same rfl
protected theorem QueuesKept.putAttention {x : AttentionSet} : QueuesKept s (t.putAttention b x) := h.same rfl
protected theorem QueuesKept.putJob {x : Job} : QueuesKept s (t.putJob j x) := h.same rfl
protected theorem QueuesKept.modJob {f : Job → Job} : QueuesKept s (t.modJob j f) := h.same rfl
protected theorem QueuesKept.clearLatch : QueuesKept s (clearLatch t j) := h.same rfl
protected theorem QueuesKept.putContext {x : Option WalkContext} : QueuesKept s (t.putContext b x) := h.same rfl
protected theorem QueuesKept.modContext {f : WalkContext → WalkContext} : QueuesKept s (t.modContext b f) := h.same rfl
protected theorem QueuesKept.recordResume : QueuesKept s (recordResume t j) := h.same rfl
protected theorem QueuesKept.takeResume : QueuesKept s (takeResume t b) := h.same rfl
protected theorem QueuesKept.putList {x : List Entry} : QueuesKept s (t.putList b x) := h.same rfl
protected theorem QueuesKept.updateEntry {n : Nat} {f : Entry → Entry} :
    QueuesKept s (updateEntry t b n f) := h.same rfl
protected theorem QueuesKept.putMap {x : CoverageMap} : QueuesKept s (t.putMap b x) := h.same rfl
protected theorem QueuesKept.putEntries {x : List ZoneEntry} : QueuesKept s (putEntries t b x) := h.same rfl
protected theorem QueuesKept.countExtent {g : Geometry} {x : Extent} {v : Bool} {n : Nat} :
    QueuesKept s (countExtent t j g x v n) := h.same rfl
protected theorem QueuesKept.modPort {f : BayPort → BayPort} : QueuesKept s (t.modPort b f) := h.same rfl
protected theorem QueuesKept.dropRecord {n : Nat} : QueuesKept s (dropRecord t b n) := h.same rfl
protected theorem QueuesKept.signal {x : DriveSignal} : QueuesKept s (t.signal x) := h.same rfl
protected theorem QueuesKept.putGrantPointer : QueuesKept s (t.putGrantPointer b) := h.same rfl
protected theorem QueuesKept.putStore {x : List CertificateRecord} : QueuesKept s (t.putStore x) := h.same rfl
protected theorem QueuesKept.putBuilding {x : List PendingRecord} : QueuesKept s (t.putBuilding x) := h.same rfl

/-! ### Frames, flags, slots and requests -/

protected theorem QueuesKept.send {f : OutFrame} : QueuesKept s (send t f) := by rw [send_eq]; exact h.same rfl

protected theorem QueuesKept.respond {n : Nat} {x : Tag} {o : Byte} {st : ResponseStatus} {sub : Bool} :
    QueuesKept s (respond t n x o st sub) := by rw [respond_eq]; exact h.same rfl

protected theorem QueuesKept.reply {c : ManagementCommand} {d : Disposition} {data : ReplyData} :
    QueuesKept s (reply t c d data) := by rw [reply_eq]; exact h.same rfl

protected theorem QueuesKept.accept {c : ManagementCommand} : QueuesKept s (accept t c) := h.reply

protected theorem QueuesKept.refuse {c : ManagementCommand} {r : Reason} : QueuesKept s (refuse t c r) := h.reply

protected theorem QueuesKept.raise {k : AttentionKind} : QueuesKept s (raise t b k) := by
  rw [raise_frame]; exact h.same rfl

protected theorem QueuesKept.refreshIndicator : QueuesKept s (refreshIndicator t b) := by
  rw [refreshIndicator_frame]; exact h.same rfl

protected theorem QueuesKept.freeSlot {k : Option SlotId} : QueuesKept s (freeSlot t k) :=
  h.inner (inner_freeSlot t k) (by cases k <;> exact id)

protected theorem QueuesKept.issueRequest {o : Origin} {r : Request} {c : Option OpClass} {l : RequestLink}
    {k : Option SlotId} {n : Nat} : QueuesKept s (issueRequest t b o r c l k n) := h.same rfl

/-! ### The command filter and the coverage store -/

protected theorem QueuesKept.reevaluate : QueuesKept s (reevaluate t b) :=
  h.inner (inner_reevaluate t b) fun o => queuesOrdered_reevaluate o b

protected theorem QueuesKept.answerLeaving : QueuesKept s (answerLeaving t b) :=
  h.inner (inner_answerLeaving t b) fun o => queuesOrdered_answerLeaving o b

protected theorem QueuesKept.reportBadZones : QueuesKept s (reportBadZones t b) := by
  unfold reportBadZones
  split
  · exact h.same rfl
  · exact h

protected theorem QueuesKept.changeZone {i : Nat} {f : ZoneEntry → ZoneEntry} : QueuesKept s (changeZone t b i f) := by
  unfold changeZone
  dsimp only
  split <;> split
  · exact h.same rfl
  · exact h.putEntries.reportBadZones
  · exact h.putEntries.reevaluate
  · exact h.putEntries.reportBadZones.reevaluate

protected theorem QueuesKept.changeAllZones {f : ZoneEntry → ZoneEntry} : QueuesKept s (changeAllZones t b f) :=
  h.putEntries.reportBadZones.reevaluate

protected theorem QueuesKept.clearMap : QueuesKept s (clearMap t b) := h.putMap.reevaluate

/-! ### Units and passes -/

protected theorem QueuesKept.startPass {i : Nat} : QueuesKept s (startPass t j i) := by
  unfold startPass
  dsimp only
  split
  · exact h
  · exact h.same rfl

protected theorem QueuesKept.beginUnit : QueuesKept s (beginUnit t j) := by
  unfold beginUnit
  dsimp only
  split
  · exact h.same rfl
  · split <;> exact h.same rfl

protected theorem QueuesKept.recordPassEnd : QueuesKept s (recordPassEnd t j) := h.putJob.raise

/-! ### Changes of job state -/

protected theorem QueuesKept.disown : QueuesKept s (disown t b j) := by
  unfold disown
  split
  · exact h.same rfl
  · exact h

protected theorem QueuesKept.changeJob {x : Job} : QueuesKept s (changeJob t j x) := by
  unfold changeJob
  dsimp only
  split <;> split
  · exact h.putJob.disown
  · exact h.same rfl
  · exact h.putJob.disown.reevaluate.refreshIndicator
  · exact h.putJob.reevaluate.refreshIndicator

protected theorem QueuesKept.setState {st : JobState} : QueuesKept s (setState t j st) := h.changeJob

protected theorem QueuesKept.enterFinishing {o : RunOutcome} : QueuesKept s (enterFinishing t j o) :=
  h.putContext.putBuilding.changeJob

protected theorem QueuesKept.enterHalted {r : HaltReason} : QueuesKept s (enterHalted t j r) := h.changeJob.raise

protected theorem QueuesKept.settleDrain : QueuesKept s (settleDrain t j) := by
  have entered (g : DrainTarget) : QueuesKept s (enterTarget t j g) := by
    cases g with
    | paused => exact h.recordResume.setState
    | halted r => exact h.enterHalted
    | finishing o => exact h.enterFinishing
  unfold settleDrain
  split
  · split
    · exact entered _
    · exact h
  · exact h

protected theorem QueuesKept.enterDraining {g : DrainTarget} : QueuesKept s (enterDraining t j g) :=
  h.setState.settleDrain

protected theorem QueuesKept.haltOrRetarget {r : HaltReason} : QueuesKept s (haltOrRetarget t j r) := by
  unfold haltOrRetarget
  split
  case h_1 | h_2 => exact h.enterHalted
  case h_3 => exact h.enterDraining
  case h_4 | h_5 => exact h.settleDrain
  all_goals exact h

protected theorem QueuesKept.abandonList : QueuesKept s (abandonList t b) := by
  have dropped (t : State) (e : Entry) (h : QueuesKept s t) : QueuesKept s (dropEntry b t e) := by
    unfold dropEntry
    dsimp only
    split
    · exact h.freeSlot.changeZone
    · exact h.freeSlot
  unfold abandonList
  dsimp only
  refine .foldl dropped ?_ _
  split
  · split <;> exact h.same rfl
  · exact h.same rfl

omit h in
theorem queuesKept_beginPass (n : Nat) : ∀ {t : State} {i : Nat}, QueuesKept s t →
    QueuesKept s (beginPass n t j i) := by
  induction n with
  | zero => exact id
  | succ n ih =>
    intro t i h
    unfold beginPass
    dsimp only
    split
    · exact h.startPass.beginUnit
    · have ended := (h.startPass (i := i) (j := j)).recordPassEnd (j := j)
      split
      · exact ended.enterFinishing
      · exact ih ended
      · exact ih ended.clearLatch
      · exact ended.setState

protected theorem QueuesKept.beginPass {n i : Nat} : QueuesKept s (beginPass n t j i) := queuesKept_beginPass n h

protected theorem QueuesKept.followPass : QueuesKept s (followPass t j) := by
  unfold followPass
  split
  · exact h.enterFinishing
  · exact h.beginPass
  · exact h.clearLatch.beginPass
  · exact h.setState

protected theorem QueuesKept.useTrigger : QueuesKept s (useTrigger t j) := by
  unfold useTrigger
  split
  · exact h.beginPass
  · exact h.beginUnit

/-! ### Units, tolerance and retirement -/

protected theorem QueuesKept.passEndWhileDraining {g : DrainTarget} : QueuesKept s (passEndWhileDraining t j g) := by
  unfold passEndWhileDraining
  dsimp only
  split
  · split
    · exact h.recordPassEnd
    · exact h.recordPassEnd.setState
    · exact h.recordPassEnd.setState
  · exact h.recordPassEnd

protected theorem QueuesKept.completeUnit : QueuesKept s (completeUnit t j) := by
  unfold completeUnit
  dsimp only
  split
  · split
    · split
      · exact h.modJob.modContext.clearLatch.beginUnit
      · exact h.modJob.modContext.setState
    · exact h.modJob.modContext.recordPassEnd.followPass
  · split
    · exact h.same rfl
    · exact h.modJob.modContext.passEndWhileDraining
  · exact h.same rfl

protected theorem QueuesKept.judgeUnit : QueuesKept s (judgeUnit t j) := by
  unfold judgeUnit
  dsimp only
  split
  · split
    · exact h.completeUnit
    · exact h
  · exact h

protected theorem QueuesKept.compareTolerance : QueuesKept s (compareTolerance t j) := by
  unfold compareTolerance
  dsimp only
  split
  · split
    · exact h.enterDraining
    · exact h.enterFinishing
    · exact h.setState
    · exact h
  · exact h

protected theorem QueuesKept.retireZone {w : WalkContext} {e : Entry} {g : Bool} :
    QueuesKept s (retireZone t b w e g) := by
  unfold retireZone
  split
  · exact h.changeAllZones
  · exact h.changeZone
  · exact h.changeZone
  · exact h
  · exact h

protected theorem QueuesKept.retireHead {w : WalkContext} {e : Entry} {rest : List Entry} :
    QueuesKept s (retireHead t b j w e rest) := by
  unfold retireHead afterRetirement refreshProgress
  dsimp only
  exact h.putList.modJob.retireZone.modJob.judgeUnit.compareTolerance.settleDrain

omit h in
theorem queuesKept_retireAll (n : Nat) : ∀ {t : State}, QueuesKept s t → QueuesKept s (retireAll n t b) := by
  induction n with
  | zero => exact id
  | succ n ih =>
    intro t h
    unfold retireAll
    split
    · split
      · exact ih h.retireHead
      · exact h
    all_goals exact h

/-! ### Preparation -/

protected theorem QueuesKept.failPreparation {e : StartError} : QueuesKept s (failPreparation t j e) :=
  h.changeJob.raise

protected theorem QueuesKept.advancePreparation : QueuesKept s (advancePreparation t j) := by
  unfold advancePreparation
  dsimp only
  split
  · split
    · exact h
    · split
      · exact h.failPreparation
      · exact h.putMap.putJob.reevaluate
  · exact h

protected theorem QueuesKept.enterPreparing : QueuesKept s (enterPreparing t j) := h.setState.advancePreparation

protected theorem QueuesKept.recheckPreparation : QueuesKept s (recheckPreparation t b) := by
  unfold recheckPreparation
  split
  · exact h.advancePreparation
  · exact h

protected theorem QueuesKept.completeScan : QueuesKept s (completeScan t j) := by
  unfold completeScan beginRun
  dsimp only
  exact h.putEntries.reevaluate.putRunCounter.putMap.changeJob.beginPass

protected theorem QueuesKept.scanStep {n e : Nat} {g : Geometry} : QueuesKept s (scanStep t j n e g) := by
  unfold scanStep
  dsimp only
  split
  · exact h.countExtent.completeScan
  · split
    · exact h.clearMap.failPreparation
    · split
      · exact h.countExtent
      · exact h.countExtent.completeScan

protected theorem QueuesKept.jobLosesBay {r : HaltReason} : QueuesKept s (jobLosesBay t b r) := by
  unfold jobLosesBay
  split
  · split
    · next p _ =>
      cases p with
      | draining => exact h.changeJob
      | scanning n e => exact h.clearMap.changeJob
    · exact h.haltOrRetarget
  · exact h

/-! ### Drive requests and bays -/

protected theorem QueuesKept.completeEntry {r : Record} {g : Bool} : QueuesKept s (completeEntry t b r g) := by
  have failed {t : State} (h : QueuesKept s t) : QueuesKept s (nativeEraseFailed t b) := by
    unfold nativeEraseFailed
    dsimp only
    split
    · exact h.abandonList.haltOrRetarget
    · exact h.abandonList
  have settled {t : State} (h : QueuesKept s t) : QueuesKept s
      (if nativeHeadFailed t b then nativeEraseFailed t b else retireAll (t.list b).length t b) := by
    split
    · exact failed h
    · exact queuesKept_retireAll _ h
  unfold completeEntry
  exact settled h.dropRecord.freeSlot.updateEntry

protected theorem QueuesKept.issueIdentify : QueuesKept s (issueIdentify t b) := h.same rfl

protected theorem QueuesKept.setBayState {st : BayState} : QueuesKept s (setBayState t b st) :=
  h.modPort.refreshIndicator

protected theorem QueuesKept.enterFaulted {r : FaultReason} {d : Option DriveIdentity} :
    QueuesKept s (enterFaulted t b r d) := h.modPort.setBayState.raise

protected theorem QueuesKept.enterReady {d : DriveIdentity} : QueuesKept s (enterReady t b d) := by
  unfold enterReady
  dsimp only
  split
  · exact h.modPort.setBayState.raise
  · split
    · exact h.modPort.setBayState.raise.enterPreparing
    · split
      · exact h.modPort.setBayState.raise
      · exact h.modPort.setBayState.raise.raise
    · exact h.modPort.setBayState.raise

protected theorem QueuesKept.failIdentify : QueuesKept s (failIdentify t b) := by
  unfold failIdentify
  split
  · exact h.issueIdentify
  · exact h.enterFaulted

protected theorem QueuesKept.judgeIdentify {d : DriveIdentity} : QueuesKept s (judgeIdentify t b d) := by
  unfold judgeIdentify
  split
  · exact h.enterReady
  · exact h.enterFaulted

protected theorem QueuesKept.completeCommand {r : Record} {c : PassCommand} {x : Bool} {st : ResponseStatus} :
    QueuesKept s (completeCommand t b r c x st) := by
  unfold completeCommand
  dsimp only
  split
  · exact h.dropRecord.freeSlot.respond.recheckPreparation
  · exact h.dropRecord.freeSlot.recheckPreparation

protected theorem QueuesKept.takeCompletion {r : Record} {st : CompletionStatus} {d : DriveIdentity} :
    QueuesKept s (takeCompletion t b r st d) := by
  unfold takeCompletion
  split
  · exact h.completeEntry
  · dsimp only
    split
    · exact h.dropRecord.judgeIdentify
    · exact h.dropRecord.failIdentify
  · exact h.completeCommand

protected theorem QueuesKept.takeConfirmation {r : Record} : QueuesKept s (takeConfirmation t b r) := by
  unfold takeConfirmation
  split
  · exact h.completeEntry
  · exact h.dropRecord.failIdentify
  · exact h.completeCommand

protected theorem QueuesKept.expireT1 {r : Record} : QueuesKept s (expireT1 t b r) := by
  unfold expireT1
  dsimp only
  split <;> exact h.same rfl

protected theorem QueuesKept.abandonQueue {st : ResponseStatus} : QueuesKept s (abandonQueue t b st) := by
  have answered (t : State) (r : Record) (h : QueuesKept s t) : QueuesKept s (answerAbandoned b st t r) := by
    unfold answerAbandoned
    split
    · split
      · exact h.respond
      · exact h
    · exact h
    · exact h
  have freed {t : State} (h : QueuesKept s t) (rs : List Record) : QueuesKept s (freeSlots t rs) :=
    .foldl (fun _ _ h => h.freeSlot) h rs
  exact .foldl answered (freed h.modPort _).abandonList _

protected theorem QueuesKept.selectiveReset {c : ResetCause} : QueuesKept s (selectiveReset t b c) := by
  unfold selectiveReset
  dsimp only
  exact h.modPort.setBayState.signal.abandonQueue.answerLeaving.modPort.jobLosesBay

protected theorem QueuesKept.removeDrive : QueuesKept s (removeDrive t b) := by
  unfold removeDrive
  dsimp only
  exact h.modPort.setBayState.raise.abandonQueue.answerLeaving.modPort.jobLosesBay

protected theorem QueuesKept.completeInsertion : QueuesKept s (completeInsertion t b) :=
  h.modPort.setBayState.raise.issueIdentify

protected theorem QueuesKept.seat : QueuesKept s (seat t b) := by
  unfold seat
  dsimp only
  split
  · exact h.completeInsertion
  · exact h.modPort.setBayState

/-! ### Grants -/

protected theorem QueuesKept.issueStripe {w : WalkContext} {k : SlotId} {x : Stripe} (hk : k ∈ engineSlots) :
    QueuesKept s (issueStripe t b j w k x) := h.inner (inner_issueStripe t b j w k x hk) id

protected theorem QueuesKept.moveCursor {w : WalkContext} {p : Position} : QueuesKept s (moveCursor t j w p) := by
  unfold moveCursor
  dsimp only
  split <;> exact h.same rfl

protected theorem QueuesKept.grantEngine : QueuesKept s (grantEngine t) := by
  unfold grantEngine
  split
  · next k b hk _ =>
    have engine : k ∈ engineSlots := mem_of_firstFree hk
    dsimp only
    split
    · unfold reissueStripe
      dsimp only
      exact (h.putGrantPointer.issueStripe engine).updateEntry
    · unfold issueNewStripe
      dsimp only
      exact (h.putGrantPointer.issueStripe engine).putList.moveCursor.changeZone
    · exact h.putGrantPointer
  · exact h

protected theorem QueuesKept.nativeEraseStep : QueuesKept s (nativeEraseStep t b) := by
  unfold nativeEraseStep
  dsimp only
  split
  · exact h
  · split
    · split
      · split
        · split
          · exact h.issueRequest.putList.putContext.changeAllZones
          · exact h
        · split
          · exact h.issueRequest.updateEntry.changeAllZones
          · exact h
      · exact h
    · exact h

/-- A command that waits is issued, or leaves the wait, or stays (R126, R154). -/
protected theorem QueuesKept.grantPassthrough {k : SlotId} (hk : k ∈ passthroughSlots) :
    QueuesKept s (grantPassthrough k t.wait t) :=
  h.inner (inner_grantPassthrough k hk t.wait t) fun o =>
    queuesOrdered_grantPassthrough k _ t (.of_sublist (queuesOrdered_iff.mp o) (List.Sublist.refl _))

/-! ### Certificates, resets and the link -/

/-- The numbering goes on (log 6). -/
protected theorem QueuesKept.bumpStamp : QueuesKept s t.bumpStamp :=
  h.inner (inner_bumpStamp t) fun o => queuesOrdered_iff.mpr ((queuesOrdered_iff.mp o).later (Nat.le_succ _))

protected theorem QueuesKept.placeRecord {r : CertificateRecord} : QueuesKept s (placeRecord t r) :=
  h.putStore.putBuilding.changeJob.bumpStamp.raise

protected theorem QueuesKept.fillPlace : QueuesKept s (fillPlace t) := by
  unfold fillPlace
  split
  · exact h.placeRecord
  · exact h

protected theorem QueuesKept.completeBuild : QueuesKept s (completeBuild t j) := by
  unfold completeBuild
  dsimp only
  split
  · exact h.placeRecord
  · exact h.putBuilding.raise

omit h in
/-- A reset empties the queues and frees the slots; what follows is the ports' own work (R179). -/
protected theorem QueuesKept.warmReset : QueuesKept s (warmReset t) := by
  have free (k : SlotId) : (clearOperation t).slot k = Slot.empty := by simp [clearOperation, State.slot]
  have cleared : QueuesKept s (clearOperation t) :=
    ⟨fun _ => Nat.zero_le _, fun _ => Nat.zero_le _, fun _ => ⟨.nil, .nil, nofun, nofun, nofun⟩,
      fun _ k => by rw [free]; rfl⟩
  refine .foldl (fun t b h => ?_) (QueuesKept.foldl (fun _ _ h => h.modPort) cleared _) _
  split
  · exact h.seat
  · exact h

end

end Sys2Proof.Proofs
end

section
/-! Every command keeps the bounds and the order of the queues and the two parts of the slot pool (R121, R154, R157,
R171). -/

namespace Sys2Proof.Proofs

open Sys2Proof Sys2Proof.Machine Sys2Proof.Safety

/-! ### Management commands -/

/-- The command that is taken leaves the management queue; the rest is its effect (R171). -/
theorem QueuesKept.of_takeManagement {i : Instr} {s : State} {effect : ManagementCommand → State → State}
    (h : ∀ c u, QueuesKept s u → QueuesKept s (effect c u)) : QueuesKept s (takeManagement i s effect) := by
  have start := QueuesKept.refl s
  rcases takeManagement_cases i s effect with ⟨c, rest, front, _, e⟩ | ⟨c, _, _, _, _, e⟩ | e <;> rw [e]
  · refine h c _ { start with management := fun bound => ?_ }
    rw [front, List.length_cons] at bound
    exact Nat.le_of_succ_le bound
  · exact h c _ start.putTaking
  · exact start

theorem QueuesKept.of_onSlot {slot : Nat} {c : ManagementCommand} {s t : State} {effect : JobId → State}
    (h : QueuesKept s t) (he : ∀ j, QueuesKept s (effect j)) : QueuesKept s (onSlot slot c t effect) := by
  unfold onSlot
  split
  · exact he _
  · exact h.refuse

section
variable {s t : State}

theorem queuesKept_execLoadClassMap {first count : Nat} {classes : List Nat}
    (h : execLoadClassMap first count classes s = .next t) : QueuesKept s t := by
  cases h
  refine .of_takeManagement fun c u h => ?_
  split
  · exact h.refuse
  · split
    · exact h.refuse
    · exact h.putTables.accept

theorem queuesKept_execLoadPolicy {image : PolicyImage} (h : execLoadPolicy image s = .next t) : QueuesKept s t := by
  cases h
  refine .of_takeManagement fun c u h => ?_
  split
  · exact h.putTables.reply
  · exact h.refuse

theorem queuesKept_execAssignProfile {bay profile : Nat} (h : execAssignProfile bay profile s = .next t) :
    QueuesKept s t := by
  cases h
  refine .of_takeManagement fun c u h => ?_
  split
  · exact h.putTables.accept
  · exact h.refuse

theorem queuesKept_execLoadProgram {program count : Nat} {passes : List PassImage}
    (h : execLoadProgram program count passes s = .next t) : QueuesKept s t := by
  cases h
  refine .of_takeManagement fun c u h => ?_
  split
  · exact h.refuse
  · split
    · exact h.refuse
    · split
      · exact h.refuse
      · exact h.putTables.reply

theorem queuesKept_execLoadExtents {first count : Nat} {words : List ExtentWord}
    (h : execLoadExtents first count words s = .next t) : QueuesKept s t := by
  cases h
  refine .of_takeManagement fun c u h => ?_
  split
  · exact h.refuse
  · split
    · exact h.refuse
    · exact h.putTables.accept

theorem queuesKept_execSetNoticeRouting {channels : List Nat} (h : execSetNoticeRouting channels s = .next t) :
    QueuesKept s t := by
  cases h
  refine .of_takeManagement fun c u h => ?_
  split
  · exact h.putTables.accept
  · exact h.refuse

theorem queuesKept_execSetBayParameters {image : ParameterImage} (h : execSetBayParameters image s = .next t) :
    QueuesKept s t := by
  cases h
  refine .of_takeManagement fun c u h => ?_
  split
  · exact h.refuse
  · split
    · exact h.putTables.accept
    · exact h.refuse

/-! ### Commands on jobs -/

theorem queuesKept_execLoadJob {image : JobImage} (h : execLoadJob image s = .next t) : QueuesKept s t := by
  cases h
  refine .of_takeManagement fun c u h => h.of_onSlot fun j => ?_
  split
  · split
    · exact h.accept.changeJob
    · exact h.refuse
  · exact h.refuse

theorem queuesKept_execStart {slot : Nat} (h : execStart slot s = .next t) : QueuesKept s t := by
  cases h
  refine .of_takeManagement fun c u h => h.of_onSlot fun j => ?_
  split
  · exact h.refuse
  · split
    · exact h.reply
    · unfold startJob
      dsimp only
      split
      · exact h.accept.modJob.enterPreparing
      · exact h.accept.modJob.setState

theorem queuesKept_execTrigger {slot : Nat} (h : execTrigger slot s = .next t) : QueuesKept s t := by
  cases h
  refine .of_takeManagement fun c u h => h.of_onSlot fun j => ?_
  split
  · exact h.accept.setState.useTrigger
  · split
    · split
      · exact h.reply
      · exact h.modJob.accept
    · exact h.refuse

theorem queuesKept_execCancelTrigger {slot : Nat} (h : execCancelTrigger slot s = .next t) : QueuesKept s t := by
  cases h
  refine .of_takeManagement fun c u h => h.of_onSlot fun j => ?_
  split
  · split
    · exact h.clearLatch.accept
    · exact h.refuse
  · exact h.refuse

theorem queuesKept_execPause {slot : Nat} (h : execPause slot s = .next t) : QueuesKept s t := by
  cases h
  refine .of_takeManagement fun c u h => h.of_onSlot fun j => ?_
  split
  · exact h.accept.enterDraining
  · exact h.accept.recordResume.setState
  · exact h.refuse

theorem queuesKept_resumeJob {j : JobId} (h : QueuesKept s t) : QueuesKept s (resumeJob t j) := by
  have halted : QueuesKept s (t.modJob j fun x => { x with haltReason := none }) := h.modJob
  unfold resumeJob
  dsimp only
  split
  · exact halted.setState.takeResume
  · split
    · exact halted.clearLatch.setState.takeResume.useTrigger
    · exact halted.setState

theorem queuesKept_execResume {slot : Nat} (h : execResume slot s = .next t) : QueuesKept s t := by
  cases h
  refine .of_takeManagement fun c u h => h.of_onSlot fun j => ?_
  split
  · split
    · exact h.refuse
    · exact queuesKept_resumeJob h.accept
  · exact h.refuse

theorem queuesKept_execCancel {slot : Nat} (h : execCancel slot s = .next t) : QueuesKept s t := by
  cases h
  refine .of_takeManagement fun c u h => h.of_onSlot fun j => ?_
  have freed {v : State} (k : QueuesKept s v) : QueuesKept s (freeJob v j) := k.changeJob
  split
  case h_1 | h_2 | h_3 => exact freed h.accept
  case h_4 => exact freed h.accept.clearMap
  case h_5 | h_6 | h_7 => exact h.accept.enterDraining
  case h_9 | h_10 | h_11 => exact h.accept.enterFinishing
  all_goals exact h.refuse

theorem queuesKept_execRelease {slot : Nat} (h : execRelease slot s = .next t) : QueuesKept s t := by
  cases h
  refine .of_takeManagement fun c u h => h.of_onSlot fun j => ?_
  split
  · exact h.accept.changeJob
  · exact h.refuse

/-! ### Commands that read, and commands on bays -/

theorem queuesKept_execReadJobStatus {slot : Nat} (h : execReadJobStatus slot s = .next t) : QueuesKept s t := by
  cases h
  refine .of_takeManagement fun c u h => ?_
  split
  · exact h.reply
  · exact h.refuse

theorem queuesKept_execReadBayStatus {bay : Nat} (h : execReadBayStatus bay s = .next t) : QueuesKept s t := by
  cases h
  refine .of_takeManagement fun c u h => ?_
  split
  · exact h.reply
  · exact h.refuse

theorem queuesKept_execReadCoverage {bay first count : Nat} (h : execReadCoverage bay first count s = .next t) :
    QueuesKept s t := by
  cases h
  refine .of_takeManagement fun c u h => ?_
  split
  · exact h.refuse
  · split
    · exact h.refuse
    · exact h.reply

theorem queuesKept_execReadCertificate {selector : Nat} {run : Word}
    (h : execReadCertificate selector run s = .next t) : QueuesKept s t := by
  cases h
  refine .of_takeManagement fun c u h => ?_
  split
  · exact h.reply
  · exact h.refuse

theorem queuesKept_execDiscardCertificate {run : Word} (h : execDiscardCertificate run s = .next t) :
    QueuesKept s t := by
  cases h
  refine .of_takeManagement fun c u h => ?_
  split
  · exact h.accept.putStore.fillPlace
  · exact h.refuse

theorem queuesKept_execClearAttention {bay : Nat} {mask : BitVec 16} (h : execClearAttention bay mask s = .next t) :
    QueuesKept s t := by
  cases h
  refine .of_takeManagement fun c u h => ?_
  split
  · exact h.refuse
  · split
    · exact h.putAttention.reply
    · exact h.refuse

theorem queuesKept_execSetIndicator {bay pattern : Nat} (h : execSetIndicator bay pattern s = .next t) :
    QueuesKept s t := by
  cases h
  refine .of_takeManagement fun c u h => ?_
  split
  · exact h.accept.modPort.refreshIndicator
  · exact h.refuse

theorem queuesKept_execResetBay {bay : Nat} (h : execResetBay bay s = .next t) : QueuesKept s t := by
  cases h
  refine .of_takeManagement fun c u h => ?_
  split
  · exact h.refuse
  · split
    case h_1 | h_2 => exact h.reply
    case h_3 => exact h.accept.modPort
    all_goals exact h.accept.modPort.selectiveReset

/-! ### The link and the frames -/

theorem queuesKept_linkReset : QueuesKept s (linkReset s) := by
  have emptied : QueuesKept s
      ((((((s.putTaking s.management.head?).putLink .down).freeAllTags).putManagement []).putHold []).putWait []) :=
    ⟨fun _ => Nat.zero_le _, fun _ => Nat.zero_le _, fun _ => ⟨.nil, .nil, nofun, nofun, nofun⟩, id⟩
  exact .foldl (fun _ _ h => h.modPort) emptied _

theorem queuesKept_bringUp : QueuesKept s (bringUp s) := by
  have noticed (u : State) (b : BayId) (h : QueuesKept s u) : QueuesKept s (linkUpNotice u b) := by
    unfold linkUpNotice
    split
    · exact h.send
    · exact h
  exact .foldl noticed (QueuesKept.refl s).putLink.putTaking _

/-- A management command joins its queue only below 8 (R171). -/
protected theorem QueuesKept.queueManagement {f : CommandFrame} (h : QueuesKept s t) :
    QueuesKept s (queueManagement t f) := by
  unfold queueManagement
  dsimp only
  split
  · next room =>
    refine ⟨fun _ => ?_, h.hold, h.ordered, h.slots⟩
    rw [State.putManagement_management, List.length_append]
    exact room
  · exact h.reply

/-- A passthrough command that arrives joins neither queue, or one of them behind those that arrived before it
(R154, R157). -/
protected theorem QueuesKept.takePassthrough {f : CommandFrame} {b : BayId} (h : QueuesKept s t) :
    QueuesKept s (takePassthrough t f b) :=
  h.inner ((inner_bumpStamp t).trans (inner_carryOut ..)) fun o => queuesOrdered_takePassthrough o f b

theorem queuesKept_execCommandFrame {bytes : List Byte} (h : execCommandFrame bytes s = .next t) : QueuesKept s t := by
  have start := QueuesKept.refl s
  have routed (f : CommandFrame) : QueuesKept s (routeFrame s f) := by
    have tagged : QueuesKept s (s.putTag f.tag true) := start.putTag
    unfold routeFrame
    dsimp only
    split
    · exact tagged.takePassthrough
    · split
      · exact tagged.queueManagement
      · exact tagged.respond
  cases h
  split
  · split
    · unfold takeFrame
      split
      · exact start.send
      · exact routed _
    · exact start
  · exact start

theorem queuesKept_execDataFrame {bytes : List Byte} (h : execDataFrame bytes s = .next t) : QueuesKept s t := by
  have start := QueuesKept.refl s
  cases h
  split
  · exact start
  · split
    · split
      · split
        · exact start.inner (inner_modSlot _ _ _ rfl) id
        · exact start
      · exact start
    · exact start

/-! ### The events at a bay and the answers of a drive -/

theorem queuesKept_execPresenceAsserted {b : BayId} (h : execPresenceAsserted b s = .next t) : QueuesKept s t := by
  have start := QueuesKept.refl s
  have asserted : QueuesKept s (setPresence s b true) := start.modPort
  cases h
  split
  · exact start
  · split
    case h_1 => exact asserted.seat
    case h_2 => exact asserted
    all_goals exact asserted.modPort

theorem queuesKept_execPresenceDropped {b : BayId} (h : execPresenceDropped b s = .next t) : QueuesKept s t := by
  have start := QueuesKept.refl s
  have dropped : QueuesKept s (setPresence s b false) := start.modPort
  have stopped : QueuesKept s (stopDebounce (setPresence s b false) b) := dropped.modPort
  have removing : QueuesKept s (beginRemoval (setPresence s b false) b) := by
    unfold beginRemoval
    dsimp only
    split
    · exact dropped.removeDrive
    · exact dropped.modPort
  cases h
  split
  · split
    case h_1 => exact dropped
    case h_2 => exact stopped.setBayState
    all_goals exact removing
  · exact start

theorem queuesKept_execDebounceExpiry {b : BayId} (h : execDebounceExpiry b s = .next t) : QueuesKept s t := by
  have start := QueuesKept.refl s
  have removed : QueuesKept s (endRemoval s b) := by
    unfold endRemoval
    split
    · exact start
    · exact start.removeDrive
  cases h
  split
  · split
    case h_1 => exact start
    case h_2 =>
      split
      · exact start.completeInsertion
      · exact start
    all_goals exact removed
  · exact start

theorem queuesKept_execDeviceFaultIndication {b : BayId} (h : execDeviceFaultIndication b s = .next t) :
    QueuesKept s t := by
  have start := QueuesKept.refl s
  cases h
  split
  case h_3 | h_4 => exact start.selectiveReset
  all_goals exact start

theorem queuesKept_execResetTimerExpiry {b : BayId} (h : execResetTimerExpiry b s = .next t) : QueuesKept s t := by
  have start := QueuesKept.refl s
  cases h
  split
  · unfold endReset
    dsimp only
    split
    · exact start.modPort.setBayState.issueIdentify
    · exact start.modPort.enterFaulted
  · exact start

theorem queuesKept_execRequestCompletion {b : BayId} {id : Nat} {status : CompletionStatus} {d : DriveIdentity}
    (h : execRequestCompletion b id status d s = .next t) : QueuesKept s t := by
  cases h
  split
  · exact (QueuesKept.refl s).takeCompletion
  · exact .refl s

theorem queuesKept_execAbortConfirmation {b : BayId} {id : Nat} (h : execAbortConfirmation b id s = .next t) :
    QueuesKept s t := by
  cases h
  split
  · split
    · exact (QueuesKept.refl s).takeConfirmation
    · exact .refl s
  · exact .refl s

theorem queuesKept_execT1Expiry {b : BayId} {id : Nat} (h : execT1Expiry b id s = .next t) : QueuesKept s t := by
  cases h
  split
  · split
    · exact (QueuesKept.refl s).expireT1
    · exact .refl s
  · exact .refl s

theorem queuesKept_execT2Expiry {b : BayId} {id : Nat} (h : execT2Expiry b id s = .next t) : QueuesKept s t := by
  cases h
  split
  · split
    · exact (QueuesKept.refl s).selectiveReset
    · exact .refl s
  · exact .refl s

theorem queuesKept_execDriveDataIn {b : BayId} {id : Nat} {bs : List Byte} (h : execDriveDataIn b id bs s = .next t) :
    QueuesKept s t := by
  have start := QueuesKept.refl s
  have moved (k : SlotId) (f : Slot → Slot) (hf : (f (s.slot k)).owner = (s.slot k).owner) :
      QueuesKept s (s.modSlot k f) := start.inner (inner_modSlot s k f hf) fun o => o
  cases h
  split
  · split
    · next k _ =>
      unfold takeDataIn
      split
      · split
        · exact moved k _ (owner_compareBytes bs _)
        · exact start
      · exact start
      · have passed := moved k (passIn bs.length) (owner_passIn _ _)
        dsimp only
        split
        · exact .foldl (fun _ _ h => h.send) passed _
        · exact passed
    · exact start
  · exact start

theorem queuesKept_execDriveDataOut {b : BayId} {id n : Nat} (h : execDriveDataOut b id n s = .next t) :
    QueuesKept s t := by
  have start := QueuesKept.refl s
  cases h
  split
  · next r _ =>
    split
    · next k _ =>
      have taken : QueuesKept s (s.putSlot k (slotOutput r n (s.slot k)).2) :=
        start.inner (inner_putSlot s k _ fun parted => by rw [owner_slotOutput]; exact parted k) fun o => o
      exact taken.signal
    · exact start
  · exact start

/-! ### The bridge's own steps -/

theorem queuesKept_execExtentScanWord {b : BayId} (h : execExtentScanWord b s = .next t) : QueuesKept s t := by
  cases h
  split
  · split
    · exact (QueuesKept.refl s).scanStep
    · exact .refl s
  · exact .refl s

theorem queuesKept_execPassthroughGrant (h : execPassthroughGrant s = .next t) : QueuesKept s t := by
  cases h
  split
  · next k hk => exact (QueuesKept.refl s).grantPassthrough (mem_of_firstFree hk)
  · exact .refl s

theorem queuesKept_execHoldExpiry {tag : Tag} (h : execHoldExpiry tag s = .next t) : QueuesKept s t := by
  have start := QueuesKept.refl s
  refine start.inner (inner_execHoldExpiry h) fun o => queuesOrdered_iff.mpr ?_
  have order := queuesOrdered_iff.mp o
  cases h
  split
  · rw [answer_eq]
    exact (order.swap.filter _).swap
  · exact order.markPast tag

theorem queuesKept_execBuildComplete {j : JobId} (h : execBuildComplete j s = .next t) : QueuesKept s t := by
  cases h
  split
  · exact (QueuesKept.refl s).completeBuild
  · exact .refl s

/-! ### Every command, and every step -/

theorem queuesKept_exec {i : Instr} (h : exec i s = .next t) : QueuesKept s t := by
  have start := QueuesKept.refl s
  cases i with
  | coldReset =>
    obtain rfl : coldReset s = t := Host.Outcome.next.inj h
    exact .warmReset
  | upstreamLinkReset =>
    obtain rfl : linkReset s = t := Host.Outcome.next.inj h
    exact queuesKept_linkReset
  | linkUp =>
    obtain rfl : (if s.link = .down then bringUp s else s) = t := Host.Outcome.next.inj h
    split
    · exact queuesKept_bringUp
    · exact start
  | commandFrame bytes => exact queuesKept_execCommandFrame h
  | invalidFrame bytes => cases h; exact start
  | dataFrame bytes => exact queuesKept_execDataFrame h
  | identifyBridge => cases h; exact .of_takeManagement fun _ _ h => h.reply
  | setClock value => cases h; exact .of_takeManagement fun _ _ h => h.putClock.accept
  | loadClassMap first count classes => exact queuesKept_execLoadClassMap h
  | loadPolicy image => exact queuesKept_execLoadPolicy h
  | assignProfile bay profile => exact queuesKept_execAssignProfile h
  | loadProgram program count passes => exact queuesKept_execLoadProgram h
  | loadExtents first count words => exact queuesKept_execLoadExtents h
  | loadJob image => exact queuesKept_execLoadJob h
  | start slot => exact queuesKept_execStart h
  | trigger slot => exact queuesKept_execTrigger h
  | cancelTrigger slot => exact queuesKept_execCancelTrigger h
  | pause slot => exact queuesKept_execPause h
  | resume slot => exact queuesKept_execResume h
  | cancel slot => exact queuesKept_execCancel h
  | release slot => exact queuesKept_execRelease h
  | readJobStatus slot => exact queuesKept_execReadJobStatus h
  | readBayStatus bay => exact queuesKept_execReadBayStatus h
  | readCoverage bay first count => exact queuesKept_execReadCoverage h
  | readCertificate selector run => exact queuesKept_execReadCertificate h
  | discardCertificate run => exact queuesKept_execDiscardCertificate h
  | clearAttention bay mask => exact queuesKept_execClearAttention h
  | setNoticeRouting channels => exact queuesKept_execSetNoticeRouting h
  | setIndicator bay pattern => exact queuesKept_execSetIndicator h
  | setBayParameters image => exact queuesKept_execSetBayParameters h
  | resetBay bay => exact queuesKept_execResetBay h
  | resetBridge => cases h; exact .of_takeManagement fun _ _ _ => .warmReset
  | unknownCommand code payload => cases h; exact .of_takeManagement fun _ _ h => h.refuse
  | presenceAsserted bay => exact queuesKept_execPresenceAsserted h
  | presenceDropped bay => exact queuesKept_execPresenceDropped h
  | debounceExpiry bay => exact queuesKept_execDebounceExpiry h
  | deviceFaultIndication bay => exact queuesKept_execDeviceFaultIndication h
  | resetTimerExpiry bay => exact queuesKept_execResetTimerExpiry h
  | requestCompletion bay request status identity => exact queuesKept_execRequestCompletion h
  | abortConfirmation bay request => exact queuesKept_execAbortConfirmation h
  | abortRefusal bay request => cases h; exact start
  | t1Expiry bay request => exact queuesKept_execT1Expiry h
  | t2Expiry bay request => exact queuesKept_execT2Expiry h
  | driveDataIn bay request bytes => exact queuesKept_execDriveDataIn h
  | driveDataOut bay request count => exact queuesKept_execDriveDataOut h
  | extentScanWord bay => exact queuesKept_execExtentScanWord h
  | engineGrant => cases h; exact start.grantEngine
  | nativeEraseIssue bay => cases h; exact start.nativeEraseStep
  | passthroughGrant => exact queuesKept_execPassthroughGrant h
  | holdExpiry tag => exact queuesKept_execHoldExpiry h
  | buildComplete slot => exact queuesKept_execBuildComplete h
  | indicatorPhase bay => cases h; exact start.modPort
  | clockSecond => cases h; exact start.putClock

theorem queuesKept_step (h : step s = .next t) : QueuesKept s t := by
  unfold step at h
  split at h
  · cases h
    exact .refl s
  · next c rest _ =>
    have kept : QueuesKept (s.putPending rest) t := queuesKept_exec h
    exact ⟨kept.management, kept.hold, kept.ordered, kept.slots⟩

end

/-- Settles O5: every operation is brought under `QueuesKept`; a command that goes over to another queue arrived as none
of those queued (`Leaving`), and each part of the slot pool is granted to its own kind of owner alone. -/
theorem queuesAndSlotsStayInBounds : Obligations.QueuesAndSlotsStayInBounds := by
  unfold Obligations.QueuesAndSlotsStayInBounds
  intro s t h
  obtain ⟨management, hold, ordered, slots⟩ := queuesKept_step h
  exact ⟨fun ⟨m, k⟩ => ⟨management m, hold k⟩, ordered, slots⟩

end Sys2Proof.Proofs
end

section
/-! The judgement of a passthrough command, stage by stage: the fence, the address stage, and the verdicts at arrival, at
a re-evaluation and when the hold time has passed (R147 to R159). -/

namespace Sys2Proof.Proofs

open Sys2Proof Sys2Proof.Machine Sys2Proof.Safety

/-! ### The stages -/

/-- The zones that refuse a fenced read (R156). -/
theorem exposing_iff {z : ZoneState} : z.exposing = true ↔ z = .untouched ∨ z = .failed ∨ z = .mismatched := by
  cases z <;> simp [ZoneState.exposing]

/-- The classes whose range is checked (R153). -/
theorem addressed_iff {cls : OpClass} : cls.addressed = true ↔ cls = .read ∨ cls = .write ∨ cls = .trim := by
  cases cls <;> simp [OpClass.addressed]

/-- A zone that a fenced read touches refuses it (R156, test 1). -/
abbrev Exposed (s : State) (b : BayId) (lba count : Nat) : Prop :=
  ∃ i ∈ zonesTouched (s.map b).z lba count,
    (zoneAnswer s b i).1 = .untouched ∨ (zoneAnswer s b i).1 = .failed ∨ (zoneAnswer s b i).1 = .mismatched

/-- A zone that a fenced read touches is being written, or has entries out (R156, test 2). -/
abbrev BeingWritten (s : State) (b : BayId) (lba count : Nat) : Prop :=
  ∃ i ∈ zonesTouched (s.map b).z lba count, (zoneAnswer s b i).1 = .writing ∨ 0 < (zoneAnswer s b i).2

/-- The two tests of the fence, in their order (R156). -/
theorem fence_eq (s : State) (b : BayId) (lba count : Nat) : fence s b lba count =
    if Exposed s b lba count then .exposed else if BeingWritten s b lba count then .held else .passes := by
  have first : (((zonesTouched (s.map b).z lba count).map (zoneAnswer s b)).any fun a => a.1.exposing) = true ↔
      Exposed s b lba count := by simp [exposing_iff]
  have second : (((zonesTouched (s.map b).z lba count).map (zoneAnswer s b)).any fun a =>
      decide (a.1 = .writing) || decide (0 < a.2)) = true ↔ BeingWritten s b lba count := by simp
  unfold fence
  simp only [first, second]

/-- The command reaches beyond the drive under a class whose range is checked (R153). -/
abbrev OutOfRange (s : State) (c : PassCommand) : Prop :=
  (opcodeClass s c.opcode = .read ∨ opcodeClass s c.opcode = .write ∨ opcodeClass s c.opcode = .trim) ∧
    bayCapacity s c.bay < c.lba + c.count

theorem addressStage_eq (s : State) (c : PassCommand) :
    addressStage s c = if OutOfRange s c then .answered .address else .wait := by
  unfold addressStage
  simp only [addressed_iff]

section
variable {s : State} {c : PassCommand}

/-- What the class, action and address stages make of a command, action by action (R150, R152, R153, R156). -/
theorem judge_of_refuse (h : actionFor s c.bay (opcodeClass s c.opcode) = .refuse) : judge s c = .answered .policy := by
  unfold judge; rw [h]

theorem judge_of_substitute {cls : SubstituteClass}
    (h : actionFor s c.bay (opcodeClass s c.opcode) = .substitute cls) : judge s c = .wait := by
  unfold judge; rw [h]

theorem judge_of_pass (h : actionFor s c.bay (opcodeClass s c.opcode) = .pass) :
    judge s c = if OutOfRange s c then .answered .address else .wait := by
  unfold judge; rw [h]; exact addressStage_eq s c

theorem judge_of_fence (h : actionFor s c.bay (opcodeClass s c.opcode) = .fence) : judge s c =
    if Exposed s c.bay c.lba c.count then .answered .exposed
    else if BeingWritten s c.bay c.lba c.count then .hold
    else if OutOfRange s c then .answered .address else .wait := by
  unfold judge
  rw [h, fence_eq, addressStage_eq]
  by_cases exposed : Exposed s c.bay c.lba c.count
  · simp only [if_pos exposed]
  · by_cases written : BeingWritten s c.bay c.lba c.count
    · simp only [if_neg exposed, if_pos written]
    · simp only [if_neg exposed, if_neg written]

/-! ### The verdict at arrival and at a re-evaluation -/

/-- The target and key stages come first (R147, R148). -/
theorem judgeArrival_eq (s : State) (c : PassCommand) : judgeArrival s c =
    if (s.port c.bay).state ≠ .ready then .answered .bayAbsent
    else if c.key ≠ bayKey s c.bay then .answered .key
    else judge s c := by
  unfold judgeArrival bayReady
  simp only [decide_eq_false_iff_not, ne_eq]

/-- A held read is judged by its bay's state and by its key while the bay is ACTIVE, then as at its arrival (R148,
R158). -/
theorem judgeHeld_eq (s : State) (c : PassCommand) : judgeHeld s c =
    if (s.port c.bay).state = .resetting then .answered .bayReset
    else if (s.port c.bay).state ≠ .ready then .answered .bayAbsent
    else if activeJob s c.bay ≠ none ∧ c.key ≠ bayKey s c.bay then .answered .key
    else judge s c := by
  unfold judgeHeld bayReady leavingStatus bayActive
  by_cases resetting : (s.port c.bay).state = .resetting
  · simp [resetting]
  · by_cases ready : (s.port c.bay).state = .ready
    · simp [ready, Option.isSome_iff_ne_none]
    · simp [resetting, ready]
end

/-! ### The hold time -/

/-- A read in the hold queue is answered when its hold time has passed (R159). -/
theorem exec_holdExpiry_held {s : State} {x : Tag} {c : PassCommand}
    (h : s.hold.find? (fun c => decide (c.tag = x)) = some c) : exec (.holdExpiry x) s = .next { s with
      hold := s.hold.filter fun d => decide (d.tag ≠ x), tags := put s.tags x false
      sent := if s.link = .up then s.sent ++ [.response c.bay.val x c.opcode .holdExpired false] else s.sent } := by
  have tag : c.tag = x := by simpa using List.find?_some h
  simp only [exec, execHoldExpiry, h, answer_eq, tag]
  rfl

/-- A read that has left it is marked where it waits (R157, R159; log 6). -/
theorem exec_holdExpiry_gone {s : State} {x : Tag} (h : ∀ c ∈ s.hold, c.tag ≠ x) :
    exec (.holdExpiry x) s = .next { s with wait := s.wait.map (markPast x) } := by
  have none : s.hold.find? (fun c => decide (c.tag = x)) = none :=
    List.find?_eq_none.mpr fun c hc => by simpa using h c hc
  simp only [exec, execHoldExpiry, none]
  rfl

/-- Settles O55: the stages of `judgeHeld` in their order, what a re-evaluation moves, and the two cases of the
expiry. -/
theorem holdTimeExpires : Obligations.HoldTimeExpires := by
  unfold Obligations.HoldTimeExpires
  refine ⟨fun s c => ?judged, fun s b => ?again, fun s x => ⟨fun c => exec_holdExpiry_held, exec_holdExpiry_gone⟩⟩
  case judged =>
    dsimp only
    rw [judgeHeld_eq]
    cases action : actionFor s c.bay (opcodeClass s c.opcode) with
    | refuse => rw [judge_of_refuse action]
    | substitute cls => rw [judge_of_substitute action]
    | pass => rw [judge_of_pass action]
    | fence => rw [judge_of_fence action]
  case again =>
    have moved := pathMoved_reevaluate s b
    exact ⟨reevaluate_frame s b, moved.sent, moved.waits, moved.hold, moved.others, judgedAgain_reevaluate s b⟩

end Sys2Proof.Proofs
end

section
/-! The frames of the server: a command frame is judged by its tag and its target, a passthrough command in five stages,
and the payload of a data frame goes to the slot of the command that asked for it (R146 to R157, R171, R178, R180). -/

namespace Sys2Proof.Proofs

open Sys2Proof Sys2Proof.Machine Sys2Proof.Safety

/-! ### A command frame -/

section
variable {s : State} {bytes : List Byte} {f : CommandFrame}

/-- A frame that arrives under a FREE tag is routed (R146). -/
theorem exec_commandFrame (hf : commandFrameOf bytes = some f) (up : s.link = .up) (free : s.tagInUse f.tag = false) :
    exec (.commandFrame bytes) s = .next (routeFrame s f) := by
  simp [exec, execCommandFrame, hf, up, takeFrame, free]

/-- A tag that was FREE, taken and freed again leaves the tags as they were. -/
theorem put_put_of_free {t : Tag} (free : s.tagInUse t = false) (x : Bool) : put (put s.tags t x) t false = s.tags := by
  have : s.tags[t] = false := free
  rw [put_put, ← this, put_self]

/-- What is routed to the management target (R171). -/
theorem routeFrame_management (up : s.link = .up) (free : s.tagInUse f.tag = false) (target : f.target = 31) :
    routeFrame s f = if s.management.length < 8 then { s with
        tags := put s.tags f.tag true
        management := s.management ++ [{ tag := f.tag, code := f.header.opcode, payload := f.payload }] }
      else { s with sent := s.sent ++ [.reply f.tag f.header.opcode .busy .nothing] } := by
  have no_bay : bayOf f.target = none := bayOf_eq_none (by omega)
  have queued : routeFrame s f = queueManagement (s.putTag f.tag true) f := by
    simp only [routeFrame, no_bay]
    exact if_pos target
  rw [queued, queueManagement]
  by_cases room : s.management.length < 8
  · rw [if_pos room]
    exact if_pos room
  · rw [if_neg room]
    refine (if_neg room).trans ?_
    simp only [reply_eq, State.putTag, up, if_true, put_put_of_free free]

/-- Targets 16 to 30 name nothing (R146). -/
theorem routeFrame_nothing (up : s.link = .up) (free : s.tagInUse f.tag = false) (no_management : f.target ≠ 31)
    (no_bay : 16 ≤ f.target) :
    routeFrame s f = { s with sent := s.sent ++ [.response f.target f.tag f.header.opcode .absent false] } := by
  simp only [routeFrame, bayOf_eq_none no_bay, managementTarget, no_management, if_false, respond_eq]
  simp only [State.putTag, up, if_true, put_put_of_free free]

end

/-- Settles O15: by the link, the tag and the target, in the order of `takeFrame` and `routeFrame`. -/
theorem commandFramesAreRouted : Obligations.CommandFramesAreRouted := by
  unfold Obligations.CommandFramesAreRouted
  refine fun s bytes => ⟨fun none => ?malformed, fun f hf => ⟨fun down => ?down, fun up => ?up⟩⟩
  case malformed => simp [exec, execCommandFrame, none]
  case down => simp [exec, execCommandFrame, hf, down]
  case up =>
    by_cases inUse : s.tagInUse f.tag = true
    · rw [if_pos inUse]
      simp [exec, execCommandFrame, hf, up, takeFrame, inUse, send_eq]
    · have free : s.tagInUse f.tag = false := by simpa using inUse
      rw [if_neg inUse, exec_commandFrame hf up free]
      by_cases management : f.target = 31
      · rw [if_pos management, routeFrame_management up free management]
        split <;> rfl
      · rw [if_neg management]
        by_cases nothing : 16 ≤ f.target
        · rw [if_pos nothing, routeFrame_nothing up free management nothing]
        · rw [if_neg nothing]
          exact ⟨_, rfl⟩

/-! ### A passthrough command at its arrival -/

section
variable {s : State} {bytes : List Byte} {f : CommandFrame} {b : BayId}

/-- A frame for a bay is judged as it arrives, its tag taken and its number counted (R147; log 6). -/
theorem exec_commandFrame_bay (hf : commandFrameOf bytes = some f) (target : f.target = b.val) (up : s.link = .up)
    (free : s.tagInUse f.tag = false) : exec (.commandFrame bytes) s =
      .next (carryOut (s.putTag f.tag true).bumpStamp (arrivingCommand s f b)
        (judgeArrival s (arrivingCommand s f b))) := by
  rw [exec_commandFrame hf up free]
  simp only [routeFrame, target, bayOf_val]
  rfl

/-- A refusal at arrival is answered at once and frees the tag (R147). -/
theorem carryOut_arriving_answered (up : s.link = .up) (free : s.tagInUse f.tag = false) (x : ResponseStatus) :
    carryOut (s.putTag f.tag true).bumpStamp (arrivingCommand s f b) (.answered x) = { s with
      sent := s.sent ++ [.response b.val f.tag f.header.opcode x false], stamp := s.stamp + 1 } := by
  simp only [carryOut, answer_eq, State.putTag, State.bumpStamp, up, if_true]
  simp only [arrivingCommand, put_put_of_free free]

/-- A read that the fence holds joins the hold queue, or is answered BUSY (R157). -/
theorem carryOut_arriving_hold (up : s.link = .up) (free : s.tagInUse f.tag = false) :
    carryOut (s.putTag f.tag true).bumpStamp (arrivingCommand s f b) .hold =
      if s.hold.length < 16 then { s with
        tags := put s.tags f.tag true, stamp := s.stamp + 2
        hold := insertByArrival { arrivingCommand s f b with holdTime := some (s.stamp + 1) } s.hold }
      else { s with
        sent := s.sent ++ [.response b.val f.tag f.header.opcode .busy false], stamp := s.stamp + 1 } := by
  rw [← carryOut_arriving_answered up free]
  rfl

end

/-- Settles O16: the verdict of `judgeArrival` stage by stage, and what is made of each verdict. -/
theorem passthroughIsJudgedInFiveStages : Obligations.PassthroughIsJudgedInFiveStages := by
  unfold Obligations.PassthroughIsJudgedInFiveStages
  intro s bytes f b hf target up free c answered waits cls checked zones
  have routed : exec (.commandFrame bytes) s = .next (carryOut (s.putTag f.tag true).bumpStamp c (judgeArrival s c)) :=
    exec_commandFrame_bay hf target up free
  have refused (x : ResponseStatus) :
      .next (carryOut (s.putTag f.tag true).bumpStamp c (.answered x)) = answered x :=
    congrArg _ (carryOut_arriving_answered up free x)
  have address : checked (.next (carryOut (s.putTag f.tag true).bumpStamp c
      (if OutOfRange s c then .answered .address else .wait))) := by
    by_cases beyond : OutOfRange s c
    · exact (if_pos beyond).mpr (by rw [if_pos beyond]; exact refused .address)
    · exact (if_neg beyond).mpr (by rw [if_neg beyond]; rfl)
  rw [routed, judgeArrival_eq]
  by_cases ready : (s.port b).state ≠ .ready
  · rw [if_pos ready, if_pos ready]
    exact refused .bayAbsent
  rw [if_neg ready, if_neg ready]
  by_cases key : f.header.key ≠ bayKey s b
  · rw [if_pos key, if_pos key]
    exact refused .key
  rw [if_neg key, if_neg key]
  cases action : actionFor s b cls with
  | refuse => rw [judge_of_refuse action]; exact refused .policy
  | substitute sub => rw [judge_of_substitute action]; rfl
  | pass => rw [judge_of_pass action]; exact address
  | fence =>
    rw [judge_of_fence action]
    by_cases exposed : Exposed s b f.header.lba f.header.count
    · rw [if_pos exposed]
      exact (if_pos exposed).mpr (refused .exposed)
    rw [if_neg exposed]
    refine (if_neg exposed).mpr ?_
    by_cases written : BeingWritten s b f.header.lba f.header.count
    · have held : carryOut (s.putTag f.tag true).bumpStamp c .hold = _ := carryOut_arriving_hold up free
      rw [if_pos written, if_pos written, held]
      split <;> rfl
    · rw [if_neg written, if_neg written]
      exact address

/-! ### A data frame -/

section
variable {s : State} {t : Tag}

/-- No record asked for payload on the tag. -/
theorem payloadRecord_eq_none : payloadRecord s t = none ↔ ∀ b, ∀ r ∈ (s.port b).queue, awaitsPayload t r = false := by
  simp [payloadRecord, List.findSome?_eq_none_iff, List.find?_eq_none, mem_allBays]

/-- What `payloadRecord` finds is a record that asked for payload on the tag, in some bay's queue. -/
theorem payloadRecord_spec {r : Record} (h : payloadRecord s t = some r) :
    ∃ b, r ∈ (s.port b).queue ∧ awaitsPayload t r = true := by
  obtain ⟨b, -, found⟩ := List.exists_of_findSome?_eq_some h
  exact ⟨b, List.mem_of_find?_eq_some found, List.find?_some found⟩

/-- Where one record alone asked for payload on the tag, it is the one found. -/
theorem payloadRecord_of_unique {b : BayId} {r : Record} (hr : r ∈ (s.port b).queue) (awaits : awaitsPayload t r = true)
    (unique : ∀ d, ∀ q ∈ (s.port d).queue, awaitsPayload t q = true → d = b ∧ q = r) : payloadRecord s t = some r := by
  cases found : payloadRecord s t with
  | none => exact absurd (payloadRecord_eq_none.mp found b r hr) (by simp [awaits])
  | some q =>
    obtain ⟨d, hq, asked⟩ := payloadRecord_spec found
    rw [(unique d q hq asked).2]

end

/-- Settles O17: by the link and by the record that `payloadRecord` finds. -/
theorem dataFramesFillTheirSlot : Obligations.DataFramesFillTheirSlot := by
  unfold Obligations.DataFramesFillTheirSlot
  refine fun s bytes => ⟨rfl, fun _ _ => rfl, fun none => ?malformed, fun f hf => ⟨fun down => ?down, fun idle => ?idle,
    fun b r k up hr awaits slot unique => ?fills⟩⟩
  case malformed => simp [exec, execDataFrame, none]
  case down => simp [exec, execDataFrame, hf, down]
  case idle => simp [exec, execDataFrame, hf, payloadRecord_eq_none.mpr idle]
  case fills =>
    simp only [exec, execDataFrame, hf, up, if_true, payloadRecord_of_unique hr awaits unique, slot]
    rfl

end Sys2Proof.Proofs
end

section
/-! The commands that load the class map, the policy and the settings of the bays: what a list of numbers names, what is
written from an index on, and the three tables they replace (R141, R149 to R151, R174, R176). -/

namespace Sys2Proof.Proofs

open Sys2Proof Sys2Proof.Machine Sys2Proof.Safety

/-! ### Lists of numbers and what they name -/

section
variable {α β : Type} {f : α → Option β} {xs : List α} {ys : List β}

/-- What every member of a list names, or nothing where one names none: the recursion that `classesOf`, `actionsOf` and
`channelsOf` share. -/
def allOf (f : α → Option β) : List α → Option (List β)
  | [] => some []
  | x :: xs => (f x).bind fun y => (allOf f xs).map fun ys => y :: ys

theorem classesOf_eq : ∀ ns, classesOf ns = allOf classOf ns
  | [] => rfl
  | n :: ns => by rw [classesOf, allOf, classesOf_eq ns]; cases classOf n <;> cases allOf classOf ns <;> rfl

theorem actionsOf_eq : ∀ as, actionsOf as = allOf actionOf as
  | [] => rfl
  | a :: as => by rw [actionsOf, allOf, actionsOf_eq as]; cases actionOf a <;> cases allOf actionOf as <;> rfl

theorem channelsOf_eq : ∀ ns, channelsOf ns = allOf channelOf ns
  | [] => rfl
  | n :: ns => by rw [channelsOf, allOf, channelsOf_eq ns]; cases channelOf n <;> cases allOf channelOf ns <;> rfl

theorem allOf_eq_some : ∀ {xs : List α} {ys : List β}, allOf f xs = some ys ↔ xs.map f = ys.map some
  | [], ys => by cases ys <;> simp [allOf]
  | x :: xs, ys => by
    simp only [allOf, Option.bind_eq_some_iff, Option.map_eq_some_iff, allOf_eq_some]
    cases ys with
    | nil => simp
    | cons y ys => simp

/-- Nothing where a member is not among those that name something. -/
theorem allOf_eq_none {p : α → Prop} (legal : ∀ x, f x = none ↔ ¬ p x) :
    ∀ {xs : List α}, allOf f xs = none ↔ ¬ ∀ x ∈ xs, p x
  | [] => by simp [allOf]
  | x :: xs => by
    have ih := allOf_eq_none legal (xs := xs)
    rw [List.forall_mem_cons, not_and_or, ← legal, ← ih]
    cases named : f x with
    | none => simp [allOf, named]
    | some y => simp [allOf, named]

theorem length_of_allOf (h : allOf f xs = some ys) : ys.length = xs.length := by
  simpa using (congrArg List.length (allOf_eq_some.mp h)).symm

/-- Each member of the result is what the member in its place names. -/
theorem getElem?_bind_of_allOf (h : allOf f xs = some ys) (k : Nat) : xs[k]?.bind f = ys[k]? := by
  have at_k : xs[k]?.map f = ys[k]?.map some := by
    simpa using congrArg (·[k]?) (allOf_eq_some.mp h)
  simpa [Option.bind_map, Function.comp_def] using congrArg (Option.bind · id) at_k

theorem exists_allOf {p : α → Prop} (legal : ∀ x, f x = none ↔ ¬ p x) (h : ∀ x ∈ xs, p x) :
    ∃ ys, allOf f xs = some ys :=
  Option.ne_none_iff_exists'.mp fun none => (allOf_eq_none legal).mp none h

end

theorem classOf_eq_none (n : Nat) : classOf n = none ↔ ¬ n < 12 := List.getElem?_eq_none_iff.trans Nat.not_lt.symm

/-- A class stands in the place of its number (R149, R181). -/
theorem number_of_classOf {n : Nat} {cls : OpClass} (h : classOf n = some cls) : cls.number.val = n := by
  have numbers : ∀ k : Fin 12, (allClasses[k.val]).number = k := by decide
  obtain ⟨low, rfl⟩ := List.getElem?_eq_some_iff.mp h
  exact congrArg Fin.val (numbers ⟨n, low⟩)

theorem channelOf_eq_none (n : Nat) : channelOf n = none ↔ ¬ n ≤ 7 := by
  simp [channelOf]; omega

theorem val_of_channelOf {n : Nat} {c : Fin 8} (h : channelOf n = some c) : c.val = n := by
  unfold channelOf at h
  split at h
  · cases h; rfl
  · cases h

@[simp] theorem profileOf_val (p : Fin 4) : profileOf p.val = some p := by simp [profileOf]

theorem profileOf_eq_none {n : Nat} (h : 4 ≤ n) : profileOf n = none := by simp [profileOf]; omega

/-- The substitute classes are IDENTIFY, HEALTH and FLUSH (R151). -/
theorem substituteOf_eq_none {n : Nat} : substituteOf n = none ↔ ¬ (2 ≤ n ∧ n ≤ 4) := by
  match n with
  | 0 => simp [substituteOf]
  | 1 => simp [substituteOf]
  | 2 => simp [substituteOf]
  | 3 => simp [substituteOf]
  | 4 => simp [substituteOf]
  | n + 5 => simp [substituteOf]

/-- The entries that name an action (R151, R181). -/
theorem actionOf_eq_none (a : ActionImage) :
    actionOf a = none ↔ ¬ (a.action < 4 ∧ (a.action = 2 → 2 ≤ a.substitute ∧ a.substitute ≤ 4)) := by
  obtain ⟨action, substitute⟩ := a
  match action with
  | 0 => simp [actionOf]
  | 1 => simp [actionOf]
  | 2 => simp [actionOf, substituteOf_eq_none]
  | 3 => simp [actionOf]
  | n + 4 => simp [actionOf]

/-! ### Entries written from an index on -/

section
variable {α : Type} {n : Nat}

/-- Entries written from an index on: the recursion that `writeClasses` and `writeRouting` share. -/
def writeFrom (v : Vector α n) (i : Nat) : List α → Vector α n
  | [] => v
  | x :: xs => writeFrom (if h : i < n then put v ⟨i, h⟩ x else v) (i + 1) xs

theorem writeClasses_eq (cs : List OpClass) : ∀ v i, writeClasses v i cs = writeFrom v i cs := by
  induction cs with
  | nil => exact fun _ _ => rfl
  | cons c cs ih => exact fun v i => ih _ _

theorem writeRouting_eq (cs : List (Fin 8)) : ∀ v i, writeRouting v i cs = writeFrom v i cs := by
  induction cs with
  | nil => exact fun _ _ => rfl
  | cons c cs ih => exact fun v i => ih _ _

/-- The entries that were carried, in their places; every other entry stays. -/
theorem writeFrom_get (xs : List α) : ∀ (v : Vector α n) (i : Nat) (k : Fin n),
    (writeFrom v i xs)[k] = if i ≤ k.val then xs[k.val - i]?.getD v[k] else v[k] := by
  induction xs with
  | nil => simp [writeFrom]
  | cons x xs ih =>
    intro v i k
    have kept (other : k.val ≠ i) : (if h : i < n then put v ⟨i, h⟩ x else v)[k] = v[k] := by
      split
      · exact put_other _ _ fun same => other (congrArg Fin.val same)
      · rfl
    rw [writeFrom, ih]
    rcases Nat.lt_trichotomy k.val i with before | here | behind
    · rw [if_neg (by omega), if_neg (by omega), kept (by omega)]
    · have low : i < n := here ▸ k.isLt
      have same : k = ⟨i, low⟩ := Fin.ext here
      rw [if_neg (by omega), if_pos (by omega), dif_pos low, same, put_same]
      simp
    · rw [if_pos (by omega), if_pos (by omega), kept (by omega), show k.val - i = (k.val - (i + 1)) + 1 by omega,
        List.getElem?_cons_succ]

/-- One value written into several entries. -/
theorem foldl_put_get (is : List (Fin n)) (x : α) : ∀ (v : Vector α n) (k : Fin n),
    (is.foldl (fun v i => put v i x) v)[k] = if k ∈ is then x else v[k] := by
  induction is with
  | nil => simp
  | cons i is ih =>
    intro v k
    rw [List.foldl_cons, ih, put_get]
    by_cases last : k ∈ is
    · simp [last]
    · simp [last]

end

/-! ### What a payload carries -/

/-- The lists of a class map, a policy and a notice routing are as long as the command announces or calls for (R181). -/
def CarriesItsCounts : Instr → Prop
  | .loadClassMap _ count classes => classes.length = count
  | .loadPolicy image => image.actions.length = 24
  | .setNoticeRouting channels => channels.length = 10
  | _ => True

theorem length_readActions (n : Nat) : ∀ bs, (readActions n bs).length = n := by
  induction n with
  | zero => exact fun _ => rfl
  | succ n ih => exact fun bs => by simp [readActions, ih]

theorem length_readBytes {n : Nat} {bs : List Byte} (h : n ≤ bs.length) : (readBytes n bs).length = n := by
  simpa [readBytes] using h

theorem carriesItsCounts_managementInstr (code : Byte) (p : List Byte) : CarriesItsCounts (managementInstr code p) := by
  unfold managementInstr
  dsimp only
  split
  case h_3 =>
    split
    · trivial
    · exact length_readBytes (by rw [List.length_drop]; omega)
  case h_4 =>
    split
    · exact length_readActions _ _
    · trivial
  case h_22 =>
    split
    · next exactly => exact length_readBytes exactly.ge
    · trivial
  all_goals (repeat' split) <;> trivial

section
variable {s : State} {c : ManagementCommand} {rest : List ManagementCommand}

theorem carriesItsCounts_of_atFront {i : Instr} (front : AtFront s c rest i) : CarriesItsCounts i :=
  front.2 ▸ carriesItsCounts_managementInstr c.code c.payload

/-! ### LOAD CLASS MAP -/

theorem exec_loadClassMap {first count : Nat} {classes : List Nat} {cs : List OpClass}
    (front : AtFront s c rest (.loadClassMap first count classes))
    (inside : first ≤ 255 ∧ 1 ≤ count ∧ first + count ≤ 256)
    (named : allOf classOf classes = some cs) : exec (.loadClassMap first count classes) s = .next (accepted
      { s with tables := { s.tables with classMap := writeFrom s.tables.classMap first cs } } c rest) := by
  rw [← writeClasses_eq]
  rw [← classesOf_eq] at named
  simp only [exec, execLoadClassMap, takeManagement_front front.1 front.2, named]
  rw [if_neg (by omega)]
  exact congrArg Host.Outcome.next (accept_putManagement (s := s.putTables _) ..)

theorem exec_loadClassMap_refused {first count : Nat} {classes : List Nat}
    (front : AtFront s c rest (.loadClassMap first count classes))
    (outside : ¬ (first ≤ 255 ∧ 1 ≤ count ∧ first + count ≤ 256) ∨ allOf classOf classes = none) :
    exec (.loadClassMap first count classes) s = refusal s c rest .range := by
  rw [← classesOf_eq] at outside
  simp only [exec, execLoadClassMap, takeManagement_front front.1 front.2]
  by_cases inside : first ≤ 255 ∧ 1 ≤ count ∧ first + count ≤ 256
  · rw [if_neg (by omega), outside.resolve_left (not_not_intro inside), refuse_putManagement]
  · rw [if_pos (by omega), refuse_putManagement]

end

/-- Settles O20: as many classes are written as the command announces, each that of its number, and no other entry. -/
theorem loadClassMapReplacesItsEntries : Obligations.LoadClassMapReplacesItsEntries := by
  unfold Obligations.LoadClassMapReplacesItsEntries
  intro s c rest first count classes front
  have carried : classes.length = count := carriesItsCounts_of_atFront front
  split
  · next inside =>
    obtain ⟨hfirst, hcount, hlast, legal⟩ := inside
    obtain ⟨cs, named⟩ := exists_allOf classOf_eq_none legal
    refine ⟨_, exec_loadClassMap front ⟨hfirst, hcount, hlast⟩ named, fun o => ?_⟩
    have total := length_of_allOf named
    have entry := getElem?_bind_of_allOf named (o.val - first)
    rw [writeFrom_get]
    split
    · next written =>
      have carries : o.val - first < cs.length := by omega
      rw [List.getElem?_eq_getElem carries, Option.bind_eq_some_iff] at entry
      obtain ⟨n, carried_n, n_names⟩ := entry
      rw [if_pos written.1, carried_n, List.getElem?_eq_getElem carries, Option.getD_some, number_of_classOf n_names]
    · next kept =>
      split
      · rw [List.getElem?_eq_none (by omega), Option.getD_none]
      · rfl
  · next outside =>
    refine exec_loadClassMap_refused front ?_
    rw [allOf_eq_none classOf_eq_none, ← not_and_or]
    exact fun ⟨⟨hfirst, hcount, hlast⟩, legal⟩ => outside ⟨hfirst, hcount, hlast, legal⟩

/-! ### LOAD POLICY -/


end Sys2Proof.Proofs
end

section
/-! LOAD POLICY with its clamps, and the commands that assign a profile, route the notices and set the parameters of the
bays (R141, R150, R151, R174, R176). -/

namespace Sys2Proof.Proofs

open Sys2Proof Sys2Proof.Machine Sys2Proof.Safety

/-! ### The clamps of a policy -/

/-- The clamp of the IDLE column (R151). -/
theorem clampAction_false (cls : OpClass) (a : Action) :
    clampAction cls false a = if a = .fence then (if cls = .read then .pass else .refuse) else a := by
  cases a with
  | fence => by_cases read : cls = .read <;> simp [clampAction, read]
  | pass => rfl
  | substitute sub => rfl
  | refuse => rfl

/-- The clamp of the ACTIVE column (R151). -/
theorem clampAction_true (cls : OpClass) (a : Action) : clampAction cls true a =
    if cls.writeClass = true ∨ (a = .fence ∧ cls ≠ .read) then .refuse else a := by
  by_cases write : cls.writeClass = true
  · rw [if_pos (.inl write), clampAction_writeClass write]
  · cases a with
    | fence => simp [clampAction, write]
    | pass => simp [clampAction, write]
    | substitute sub => simp [clampAction, write]
    | refuse => simp [clampAction]

section
variable {actions : List Action}

/-- An entry is noted where its clamp is another action than the one sent. -/
theorem mem_clampNoteOf {cls : OpClass} {active : Bool} {e : ClampedAction} : e ∈ clampNoteOf actions cls active ↔
    (e.cls = cls ∧ e.active = active) ∧ e.action = clampAction cls active (sentAction actions cls active) ∧
      e.action ≠ sentAction actions cls active := by
  obtain ⟨ecls, eactive, eaction⟩ := e
  unfold clampNoteOf
  dsimp only
  split
  · next kept => simp [kept]
  · next clamped =>
    simp only [List.mem_singleton, ClampedAction.mk.injEq, and_assoc]
    exact and_congr_right fun _ => and_congr_right fun _ => ⟨fun h => ⟨h, h ▸ clamped⟩, And.left⟩

theorem mem_allClasses (cls : OpClass) : cls ∈ allClasses := by cases cls <;> simp [allClasses]

/-- The clamp note holds the clamped entries of both columns and no other (R151). -/
theorem mem_clampedActions {e : ClampedAction} : e ∈ clampedActions actions ↔
    e.action = clampAction e.cls e.active (sentAction actions e.cls e.active) ∧
      e.action ≠ sentAction actions e.cls e.active := by
  simp only [clampedActions, List.mem_flatMap, List.mem_append, mem_clampNoteOf]
  constructor
  · rintro ⟨cls, -, ⟨⟨rfl, hactive⟩, clamped⟩ | ⟨⟨rfl, hactive⟩, clamped⟩⟩
    · rwa [hactive]
    · rwa [hactive]
  · intro clamped
    refine ⟨e.cls, mem_allClasses _, ?_⟩
    cases active : e.active with
    | false => exact .inl ⟨⟨rfl, rfl⟩, active ▸ clamped⟩
    | true => exact .inr ⟨⟨rfl, rfl⟩, active ▸ clamped⟩

theorem clampedActionsNote_eq (es : List ClampedAction) :
    clampedActionsNote es = if es = [] then .nothing else .clampedActions es := by
  simp only [clampedActionsNote, List.isEmpty_iff]

/-- The entry a class and a condition call for stands in the list of 24 (R181). -/
theorem bind_actionOf {as : List ActionImage} (named : allOf actionOf as = some actions) (full : as.length = 24)
    (cls : OpClass) (active : Bool) :
    (as[2 * cls.number.val + if active then 1 else 0]?).bind actionOf = some (sentAction actions cls active) := by
  have length : actions.length = 24 := (length_of_allOf named).trans full
  have low : (2 * cls.number.val + if active then 1 else 0) < actions.length := by
    have := cls.number.isLt
    split <;> omega
  rw [getElem?_bind_of_allOf named, sentAction, List.getElem?_eq_getElem low, List.getD_eq_getElem _ _ low]

end

/-! ### LOAD POLICY -/

section
variable {s : State} {c : ManagementCommand} {rest : List ManagementCommand}

theorem exec_loadPolicy {image : PolicyImage} {n : Fin 4} {actions : List Action}
    (front : AtFront s c rest (.loadPolicy image)) (profile : n.val = image.profile)
    (named : allOf actionOf image.actions = some actions) : exec (.loadPolicy image) s = .next (replied
      { s with tables := { s.tables with profiles := put s.tables.profiles n (storedProfile image actions) } } c rest
      .accepted (clampedActionsNote (clampedActions actions))) := by
  rw [← actionsOf_eq] at named
  simp only [exec, execLoadPolicy, takeManagement_front front.1 front.2, named, ← profile, profileOf_val]
  exact congrArg Host.Outcome.next (reply_putManagement (s := s.putTables _) ..)

theorem exec_loadPolicy_refused {image : PolicyImage} (front : AtFront s c rest (.loadPolicy image))
    (outside : 4 ≤ image.profile ∨ allOf actionOf image.actions = none) :
    exec (.loadPolicy image) s = refusal s c rest .range := by
  rw [← actionsOf_eq] at outside
  simp only [exec, execLoadPolicy, takeManagement_front front.1 front.2]
  obtain profile | unnamed := outside
  · simp only [profileOf_eq_none profile, refuse_putManagement]
  · cases profileOf image.profile <;> simp only [unnamed, refuse_putManagement]

end

/-- Settles O21: the profile stored is the clamp of the one sent, and the note lists where the two differ. -/
theorem loadPolicyClampsAndReplaces : Obligations.LoadPolicyClampsAndReplaces := by
  unfold Obligations.LoadPolicyClampsAndReplaces
  refine fun s c rest image front => ⟨fun outside => ?refused, fun n profile legal => ?stored⟩
  case refused =>
    refine exec_loadPolicy_refused front ?_
    rwa [allOf_eq_none actionOf_eq_none, ← Nat.not_lt, ← not_and_or]
  case stored =>
    obtain ⟨actions, named⟩ := exists_allOf actionOf_eq_none legal
    have idle (cls : OpClass) : (storedProfile image actions).idle[cls.number] = _ := storedColumn_get actions false cls
    have active (cls : OpClass) : (storedProfile image actions).active[cls.number] = _ :=
      storedColumn_get actions true cls
    refine ⟨storedProfile image actions, sentAction actions, clampedActions actions, ?_, rfl, rfl, rfl,
      bind_actionOf named (carriesItsCounts_of_atFront front), fun cls => ?_, fun cls => ?_, fun e => ?_⟩
    · rw [exec_loadPolicy front profile named, clampedActionsNote_eq]
    · rw [idle, clampAction_false]
    · rw [active, clampAction_true]
    · rw [mem_clampedActions, idle, active]
      cases e.active <;> rfl

/-! ### ASSIGN PROFILE -/

section
variable {s : State} {c : ManagementCommand} {rest : List ManagementCommand}

theorem exec_assignProfile {b : BayId} {p : Fin 4} (front : AtFront s c rest (.assignProfile b.val p.val)) :
    exec (.assignProfile b.val p.val) s = .next (accepted
      { s with tables := { s.tables with assignment := put s.tables.assignment b p } } c rest) := by
  simp only [exec, execAssignProfile, takeManagement_front front.1 front.2, bayOf_val, profileOf_val]
  exact congrArg Host.Outcome.next (accept_putManagement (s := s.putTables _) ..)

theorem exec_assignProfile_refused {bay profile : Nat} (front : AtFront s c rest (.assignProfile bay profile))
    (outside : 16 ≤ bay ∨ 4 ≤ profile) : exec (.assignProfile bay profile) s = refusal s c rest .range := by
  simp only [exec, execAssignProfile, takeManagement_front front.1 front.2]
  obtain bay | profile := outside
  · simp only [bayOf_eq_none bay, refuse_putManagement]
  · cases bayOf bay <;> simp only [profileOf_eq_none profile, refuse_putManagement]

/-! ### SET NOTICE ROUTING -/

theorem exec_setNoticeRouting {channels : List Nat} {cs : List (Fin 8)}
    (front : AtFront s c rest (.setNoticeRouting channels)) (named : allOf channelOf channels = some cs) :
    exec (.setNoticeRouting channels) s = .next (accepted
      { s with tables := { s.tables with routing := writeFrom s.tables.routing 0 cs } } c rest) := by
  rw [← writeRouting_eq]
  rw [← channelsOf_eq] at named
  simp only [exec, execSetNoticeRouting, takeManagement_front front.1 front.2, named]
  exact congrArg Host.Outcome.next (accept_putManagement (s := s.putTables _) ..)

theorem exec_setNoticeRouting_refused {channels : List Nat} (front : AtFront s c rest (.setNoticeRouting channels))
    (unnamed : allOf channelOf channels = none) : exec (.setNoticeRouting channels) s = refusal s c rest .range := by
  rw [← channelsOf_eq] at unnamed
  simp only [exec, execSetNoticeRouting, takeManagement_front front.1 front.2, unnamed, refuse_putManagement]

/-- Ten channels fill the routing table, each in the place of its kind. -/
theorem writeFrom_routing {channels : List Nat} {cs : List (Fin 8)} (full : channels.length = 10)
    (named : allOf channelOf channels = some cs) (v : Vector (Fin 8) 10) (k : Fin 10) :
    channels[k.val]? = some (writeFrom v 0 cs)[k].val := by
  have length : cs.length = 10 := (length_of_allOf named).trans full
  have carries : k.val < cs.length := by omega
  have entry := getElem?_bind_of_allOf named k.val
  rw [List.getElem?_eq_getElem carries, Option.bind_eq_some_iff] at entry
  obtain ⟨n, carried, names⟩ := entry
  rw [writeFrom_get, if_pos (Nat.zero_le _), Nat.sub_zero, List.getElem?_eq_getElem carries, Option.getD_some,
    val_of_channelOf names, carried]

/-! ### SET BAY PARAMETERS -/

theorem parametersInRange_iff {p : ParameterImage} : parametersInRange p = true ↔
    (1 ≤ p.depth ∧ p.depth ≤ 4) ∧ (500 ≤ p.dataT1 ∧ p.dataT1 ≤ 60000) ∧ (1 ≤ p.nativeT1 ∧ p.nativeT1 ≤ 1440) ∧
      (500 ≤ p.t2 ∧ p.t2 ≤ 60000) ∧ p.debounce ∈ [0, 16, 64, 256] := by
  simp [parametersInRange, debounceAllowed, and_assoc, or_assoc]

theorem namedBays_eq_none {n : Nat} : namedBays n = none ↔ ¬ (n < 16 ∨ n = 255) := by
  by_cases all : n = 255
  · simp [namedBays, all]
  · simp [namedBays, all, bayOf]

/-- The bays a number names: that bay, or every bay for ALL (R174, R181). -/
theorem mem_of_namedBays {n : Nat} {bays : List BayId} (h : namedBays n = some bays) (b : BayId) :
    b ∈ bays ↔ n = 255 ∨ b.val = n := by
  unfold namedBays at h
  split at h
  · next all =>
    cases h
    exact iff_of_true (mem_allBays b) (.inl all)
  · next single =>
    obtain ⟨d, hd, rfl⟩ := Option.map_eq_some_iff.mp h
    unfold bayOf at hd
    split at hd
    · cases hd
      simp [single, Fin.ext_iff]
    · cases hd

/-- The parameters written into the named bays, bay by bay (R174). -/
theorem writeParameters_eq {t : Tables} {p : ParameterImage} {bays : List BayId} (named : namedBays p.bay = some bays) :
    writeParameters t bays p = { t with
      debounceTime := p.debounce
      parameters := Vector.ofFn fun b : BayId =>
        if p.bay = 255 ∨ b.val = p.bay then
          { depth := p.depth, dataT1 := p.dataT1, nativeT1 := p.nativeT1, t2 := p.t2 }
        else t.parameters[b] } := by
  refine congrArg (fun v => { t with parameters := v, debounceTime := p.debounce }) (Vector.ext fun i hi => ?_)
  rw [Vector.getElem_ofFn]
  refine (foldl_put_get bays _ t.parameters ⟨i, hi⟩).trans ?_
  simp only [mem_of_namedBays named]

theorem exec_setBayParameters {p : ParameterImage} {bays : List BayId}
    (front : AtFront s c rest (.setBayParameters p)) (named : namedBays p.bay = some bays) :
    exec (.setBayParameters p) s = if parametersInRange p = true then
        .next (accepted { s with tables := writeParameters s.tables bays p } c rest)
      else refusal s c rest .range := by
  simp only [exec, execSetBayParameters, takeManagement_front front.1 front.2, named]
  split
  · exact congrArg Host.Outcome.next (accept_putManagement (s := s.putTables _) ..)
  · rw [refuse_putManagement]

theorem exec_setBayParameters_unnamed {p : ParameterImage} (front : AtFront s c rest (.setBayParameters p))
    (unnamed : namedBays p.bay = none) : exec (.setBayParameters p) s = refusal s c rest .range := by
  simp only [exec, execSetBayParameters, takeManagement_front front.1 front.2, unnamed, refuse_putManagement]

end

/-- Settles O22: each command's numbers are checked first, and what they name is written. -/
theorem settingsOfTheBays : Obligations.SettingsOfTheBays := by
  unfold Obligations.SettingsOfTheBays
  refine fun s c rest => ⟨fun b p => exec_assignProfile, fun bay profile => exec_assignProfile_refused,
    fun channels front => ?routing, fun p front => ?parameters⟩
  case routing =>
    by_cases legal : ∀ n ∈ channels, n ≤ 7
    · rw [if_pos legal]
      obtain ⟨cs, named⟩ := exists_allOf channelOf_eq_none legal
      exact ⟨_, writeFrom_routing (carriesItsCounts_of_atFront front) named _, exec_setNoticeRouting front named⟩
    · rw [if_neg legal]
      exact exec_setNoticeRouting_refused front ((allOf_eq_none channelOf_eq_none).mpr legal)
  case parameters =>
    cases named : namedBays p.bay with
    | none =>
      rw [if_neg fun inside => namedBays_eq_none.mp named inside.1, exec_setBayParameters_unnamed front named]
    | some bays =>
      have bay : p.bay < 16 ∨ p.bay = 255 := by
        by_contra outside
        simp [namedBays_eq_none.mpr outside] at named
      rw [exec_setBayParameters front named, writeParameters_eq named]
      by_cases inside : parametersInRange p = true
      · rw [if_pos ⟨bay, parametersInRange_iff.mp inside⟩, if_pos inside]
      · rw [if_neg fun h => inside (parametersInRange_iff.mpr h.2), if_neg inside]

end Sys2Proof.Proofs
end

section
/-! The certificate store below the certificate unit: no other operation touches it (R168). Each operation is said to
leave it once, in the order of the model. -/

namespace Sys2Proof.Proofs

open Sys2Proof Sys2Proof.Machine Sys2Proof.Safety

/-- Operations that leave the store leave it when they are carried out one after the other. -/
theorem foldl_store {α : Type} {f : State → α → State} (h : ∀ s x, (f s x).store = s.store) (xs : List α) :
    ∀ s, (xs.foldl f s).store = s.store := by
  induction xs with
  | nil => exact fun _ => rfl
  | cons x xs ih => exact fun s => (ih _).trans (h s x)

section
variable (s : State) (b : BayId) (j : JobId)

/-! ### Frames, flags, slots and requests -/

@[simp] theorem send_store (f : OutFrame) : (send s f).store = s.store := by rw [send_eq]

@[simp] theorem respond_store (n : Nat) (t : Tag) (o : Byte) (st : ResponseStatus) (x : Bool) :
    (respond s n t o st x).store = s.store := by rw [respond_eq]

@[simp] theorem answer_store (c : PassCommand) (st : ResponseStatus) : (answer s c st).store = s.store :=
  respond_store ..

@[simp] theorem reply_store (c : ManagementCommand) (d : Disposition) (data : ReplyData) :
    (reply s c d data).store = s.store := by rw [reply_eq]

@[simp] theorem accept_store (c : ManagementCommand) : (accept s c).store = s.store := reply_store ..

@[simp] theorem refuse_store (c : ManagementCommand) (r : Reason) : (refuse s c r).store = s.store := reply_store ..

@[simp] theorem raise_store (k : AttentionKind) : (raise s b k).store = s.store := by rw [raise_frame]

@[simp] theorem refreshIndicator_store : (refreshIndicator s b).store = s.store := by rw [refreshIndicator_frame]

@[simp] theorem freeSlot_store (k : Option SlotId) : (freeSlot s k).store = s.store := by rw [freeSlot_frame]

@[simp] theorem freeSlots_store (rs : List Record) : (freeSlots s rs).store = s.store := by rw [freeSlots_frame]

@[simp] theorem dropRecord_store (n : Nat) : (dropRecord s b n).store = s.store := rfl

@[simp] theorem issueRequest_store (o : Origin) (r : Request) (c : Option OpClass) (l : RequestLink)
    (k : Option SlotId) (n : Nat) : (issueRequest s b o r c l k n).store = s.store := rfl

/-! ### The command filter -/

@[simp] theorem joinHold_store (c : PassCommand) : (joinHold s c).store = s.store := by
  unfold joinHold
  split
  · simp
  · split <;> simp

@[simp] theorem carryOut_store (c : PassCommand) (v : Verdict) : (carryOut s c v).store = s.store := by
  cases v with
  | wait => rfl
  | hold => exact joinHold_store ..
  | answered st => exact answer_store ..

@[simp] theorem answerLeaving_store : (answerLeaving s b).store = s.store :=
  foldl_store (fun _ _ => answer_store ..) _ _

@[simp] theorem issueCommand_store (c : PassCommand) (k : SlotId) : (issueCommand s c k).store = s.store := by
  unfold issueCommand
  dsimp only
  split <;> simp

theorem grantPassthrough_store (k : SlotId) (cs : List PassCommand) :
    ∀ s, (grantPassthrough k cs s).store = s.store := by
  induction cs with
  | nil => exact fun _ => rfl
  | cons c cs ih =>
    intro s
    unfold grantPassthrough
    split
    · dsimp only
      split <;> simp [ih]
    · exact ih s

/-! ### The coverage store -/

@[simp] theorem putEntries_store (es : List ZoneEntry) : (putEntries s b es).store = s.store := rfl

@[simp] theorem changeZone_store (i : Nat) (f : ZoneEntry → ZoneEntry) : (changeZone s b i f).store = s.store := by
  rw [changeZone_frame]

@[simp] theorem changeAllZones_store (f : ZoneEntry → ZoneEntry) : (changeAllZones s b f).store = s.store := by
  rw [changeAllZones_frame]

@[simp] theorem clearMap_store : (clearMap s b).store = s.store := by simp [clearMap]

/-! ### Units and passes -/

@[simp] theorem startPass_store (i : Nat) : (startPass s j i).store = s.store := by
  unfold startPass
  dsimp only
  split <;> simp

@[simp] theorem beginUnit_store : (beginUnit s j).store = s.store := by rw [beginUnit_frame]; rfl

@[simp] theorem recordResume_store : (recordResume s j).store = s.store := rfl

@[simp] theorem takeResume_store : (takeResume s b).store = s.store := rfl

@[simp] theorem recordPassEnd_store : (recordPassEnd s j).store = s.store := by simp [recordPassEnd]

@[simp] theorem clearLatch_store : (clearLatch s j).store = s.store := rfl

/-! ### Changes of job state -/

@[simp] theorem changeJob_store (x : Job) : (changeJob s j x).store = s.store := by
  have disowned (u : State) (b : BayId) : (disown u b j).store = u.store := by unfold disown; split <;> rfl
  unfold changeJob
  dsimp only
  split <;> split <;> simp [disowned]

@[simp] theorem enterFinishing_store (o : RunOutcome) : (enterFinishing s j o).store = s.store := by
  simp [enterFinishing]

@[simp] theorem enterHalted_store (r : HaltReason) : (enterHalted s j r).store = s.store := by simp [enterHalted]

@[simp] theorem settleDrain_store : (settleDrain s j).store = s.store := by
  have entered (t : DrainTarget) : (enterTarget s j t).store = s.store := by cases t <;> simp [enterTarget]
  unfold settleDrain
  split
  · split <;> simp [entered]
  · rfl

@[simp] theorem enterDraining_store (t : DrainTarget) : (enterDraining s j t).store = s.store := by
  simp [enterDraining]

@[simp] theorem haltOrRetarget_store (r : HaltReason) : (haltOrRetarget s j r).store = s.store := by
  unfold haltOrRetarget
  split <;> simp

@[simp] theorem abandonList_store : (abandonList s b).store = s.store := by
  have dropped (u : State) (e : Entry) : (dropEntry b u e).store = u.store := by
    unfold dropEntry
    dsimp only
    split <;> simp
  unfold abandonList
  dsimp only
  rw [foldl_store dropped]
  split
  · split <;> simp
  · simp

theorem beginPass_store (n : Nat) : ∀ (s : State) (i : Nat), (beginPass n s j i).store = s.store := by
  induction n with
  | zero => exact fun _ _ => rfl
  | succ n ih =>
    intro s i
    unfold beginPass
    dsimp only
    split
    · simp
    · split <;> simp [ih]

@[simp] theorem useTrigger_store : (useTrigger s j).store = s.store := by
  unfold useTrigger
  split <;> simp [beginPass_store]

/-! ### Units, tolerance and retirement -/

@[simp] theorem completeUnit_store : (completeUnit s j).store = s.store := by
  have followed (u : State) : (followPass u j).store = u.store := by
    unfold followPass
    split <;> simp [beginPass_store]
  have drained (u : State) (t : DrainTarget) : (passEndWhileDraining u j t).store = u.store := by
    unfold passEndWhileDraining
    dsimp only
    split
    · split <;> simp
    · simp
  unfold completeUnit
  dsimp only
  split
  · split
    · split <;> simp
    · simp [followed]
  · split <;> simp [drained]
  · simp

@[simp] theorem afterRetirement_store : (afterRetirement s j).store = s.store := by
  have judged (u : State) : (judgeUnit u j).store = u.store := by
    unfold judgeUnit
    dsimp only
    split
    · split <;> simp
    · rfl
  have compared (u : State) : (compareTolerance u j).store = u.store := by
    unfold compareTolerance
    dsimp only
    split
    · split <;> simp
    · rfl
  simp [afterRetirement, judged, compared]

@[simp] theorem retireHead_store (w : WalkContext) (e : Entry) (rest : List Entry) :
    (retireHead s b j w e rest).store = s.store := by
  have retired (u : State) (g : Bool) : (retireZone u b w e g).store = u.store := by
    unfold retireZone
    split <;> simp
  simp [retireHead, refreshProgress, retired]

theorem retireAll_store (n : Nat) : ∀ s, (retireAll n s b).store = s.store := by
  induction n with
  | zero => exact fun _ => rfl
  | succ n ih =>
    intro s
    unfold retireAll
    split
    · split
      · exact (ih _).trans (retireHead_store ..)
      · rfl
    all_goals rfl

/-! ### Preparation -/

@[simp] theorem failPreparation_store (e : StartError) : (failPreparation s j e).store = s.store := by
  simp [failPreparation]

@[simp] theorem advancePreparation_store : (advancePreparation s j).store = s.store := by
  unfold advancePreparation
  dsimp only
  split
  · split
    · rfl
    · split <;> simp [beginScan]
  · rfl

@[simp] theorem enterPreparing_store : (enterPreparing s j).store = s.store := by simp [enterPreparing]

@[simp] theorem recheckPreparation_store : (recheckPreparation s b).store = s.store := by
  unfold recheckPreparation
  split <;> simp

@[simp] theorem jobLosesBay_store (r : HaltReason) : (jobLosesBay s b r).store = s.store := by
  have returned (j : JobId) (p : Preparation) : (returnToWaiting s j p).store = s.store := by
    unfold returnToWaiting
    dsimp only
    split <;> simp
  unfold jobLosesBay
  split
  · split <;> simp [returned]
  · rfl

@[simp] theorem scanStep_store (n e : Nat) (g : Geometry) : (scanStep s j n e g).store = s.store := by
  have counted (x : Extent) (c : Bool) (n : Nat) : (countExtent s j g x c n).store = s.store := rfl
  have completed (u : State) : (completeScan u j).store = u.store := by
    simp [completeScan, beginRun, beginPass_store]
  unfold scanStep
  dsimp only
  split
  · simp [completed, counted]
  · split
    · simp
    · split <;> simp [completed, counted]

/-! ### Drive requests and bays -/

@[simp] theorem updateEntry_store (n : Nat) (f : Entry → Entry) : (updateEntry s b n f).store = s.store := rfl

@[simp] theorem completeEntry_store (r : Record) (g : Bool) : (completeEntry s b r g).store = s.store := by
  have failed (u : State) : (nativeEraseFailed u b).store = u.store := by
    unfold nativeEraseFailed
    dsimp only
    split <;> simp
  have settled (u : State) :
      (if nativeHeadFailed u b then nativeEraseFailed u b else retireAll (u.list b).length u b).store = u.store := by
    split
    · exact failed u
    · exact retireAll_store ..
  unfold completeEntry
  dsimp only
  rw [settled]
  simp

@[simp] theorem issueIdentify_store : (issueIdentify s b).store = s.store := rfl

@[simp] theorem setBayState_store (st : BayState) : (setBayState s b st).store = s.store := by simp [setBayState]

@[simp] theorem enterFaulted_store (r : FaultReason) (d : Option DriveIdentity) :
    (enterFaulted s b r d).store = s.store := by simp [enterFaulted]

@[simp] theorem failIdentify_store : (failIdentify s b).store = s.store := by
  unfold failIdentify
  split <;> simp

@[simp] theorem judgeIdentify_store (d : DriveIdentity) : (judgeIdentify s b d).store = s.store := by
  have readied : (enterReady s b d).store = s.store := by
    unfold enterReady
    dsimp only
    split
    · simp
    · split
      · simp
      · split <;> simp
      · simp
  unfold judgeIdentify
  split <;> simp [readied]

@[simp] theorem completeCommand_store (r : Record) (c : PassCommand) (x : Bool) (st : ResponseStatus) :
    (completeCommand s b r c x st).store = s.store := by
  unfold completeCommand
  dsimp only
  split <;> simp

@[simp] theorem takeCompletion_store (r : Record) (st : CompletionStatus) (d : DriveIdentity) :
    (takeCompletion s b r st d).store = s.store := by
  unfold takeCompletion
  split
  · simp
  · dsimp only
    split <;> simp
  · simp

@[simp] theorem takeConfirmation_store (r : Record) : (takeConfirmation s b r).store = s.store := by
  unfold takeConfirmation
  split <;> simp

@[simp] theorem expireT1_store (r : Record) : (expireT1 s b r).store = s.store := by
  unfold expireT1
  dsimp only
  split <;> rfl

@[simp] theorem abandonQueue_store (st : ResponseStatus) : (abandonQueue s b st).store = s.store := by
  have answered (u : State) (r : Record) : (answerAbandoned b st u r).store = u.store := by
    unfold answerAbandoned
    split
    · split <;> simp
    · rfl
    · rfl
  unfold abandonQueue
  dsimp only
  rw [foldl_store answered]
  simp

@[simp] theorem selectiveReset_store (c : ResetCause) : (selectiveReset s b c).store = s.store := by
  simp [selectiveReset]

@[simp] theorem removeDrive_store : (removeDrive s b).store = s.store := by simp [removeDrive]

@[simp] theorem completeInsertion_store : (completeInsertion s b).store = s.store := by simp [completeInsertion]

@[simp] theorem seat_store : (seat s b).store = s.store := by
  unfold seat
  dsimp only
  split <;> simp

/-! ### Grants -/

@[simp] theorem grantEngine_store : (grantEngine s).store = s.store := by
  have issued (u : State) (b : BayId) (j : JobId) (w : WalkContext) (k : SlotId) (x : Stripe) :
      (issueStripe u b j w k x).store = u.store := rfl
  have moved (u : State) (j : JobId) (w : WalkContext) (p : Position) : (moveCursor u j w p).store = u.store := by
    unfold moveCursor
    dsimp only
    split <;> rfl
  unfold grantEngine
  split
  · dsimp only
    split <;> simp [issueNewStripe, reissueStripe, issued, moved]
  · rfl

@[simp] theorem nativeEraseStep_store : (nativeEraseStep s b).store = s.store := by
  have sent (u : State) (w : WalkContext) : (sendNativeErase u b w).store = u.store := rfl
  unfold nativeEraseStep
  dsimp only
  split
  · rfl
  · split
    · split
      · split
        · split <;> simp [issueNativeErase, sent]
        · split <;> simp [reissueNativeErase, sent]
      · rfl
    · rfl

/-! ### Resets and the link -/

/-- A warm reset keeps the certificates (R179). -/
@[simp] theorem warmReset_store : (warmReset s).store = s.store := by
  have sampled (u : State) (b : BayId) : (if (u.port b).presence then seat u b else u).store = u.store := by
    split <;> simp
  unfold warmReset samplePresence resetPorts
  rw [foldl_store sampled, foldl_store fun _ _ => State.modPort_store ..]
  rfl

/-- A cold reset empties the store (R179). -/
theorem coldReset_store : (coldReset s).store = [] := warmReset_store _

theorem linkReset_store : (linkReset s).store = s.store := by
  unfold linkReset
  dsimp only
  rw [foldl_store (f := unwantResults) fun _ _ => State.modPort_store ..]
  rfl

theorem bringUp_store : (bringUp s).store = s.store := by
  have noticed (u : State) (b : BayId) : (linkUpNotice u b).store = u.store := by
    unfold linkUpNotice
    split <;> simp
  unfold bringUp
  rw [foldl_store noticed]
  rfl

end

end Sys2Proof.Proofs
end

section
/-! Only the certificate unit and a cold reset write the certificate store: what every other command leaves of it
(R167, R168, R170). -/

namespace Sys2Proof.Proofs

open Sys2Proof Sys2Proof.Machine Sys2Proof.Safety

/-! ### The parts of a command's effect -/

/-- A management command leaves the store where its effect does. -/
theorem takeManagement_store {i : Instr} {s : State} {effect : ManagementCommand → State → State}
    (h : ∀ c u, (effect c u).store = u.store) : (takeManagement i s effect).store = s.store := by
  rcases takeManagement_cases i s effect with ⟨c, rest, _, _, e⟩ | ⟨c, _, _, _, _, e⟩ | e <;> rw [e]
  · exact h c _
  · exact h c _

theorem onSlot_store {slot : Nat} {c : ManagementCommand} {s : State} {effect : JobId → State}
    (h : ∀ j, (effect j).store = s.store) : (onSlot slot c s effect).store = s.store := by
  unfold onSlot
  split
  · exact h _
  · exact refuse_store ..

section
variable (s : State) (b : BayId) (j : JobId)

@[simp] theorem startJob_store : (startJob s j).store = s.store := by
  unfold startJob
  dsimp only
  split <;> simp

@[simp] theorem resumeJob_store : (resumeJob s j).store = s.store := by
  unfold resumeJob
  dsimp only
  split
  · simp
  · split <;> simp

@[simp] theorem freeJob_store : (freeJob s j).store = s.store := changeJob_store ..

@[simp] theorem takeFrame_store (f : CommandFrame) : (takeFrame s f).store = s.store := by
  have queued (u : State) : (queueManagement u f).store = u.store := by
    unfold queueManagement
    dsimp only
    split <;> simp
  have routed : (routeFrame s f).store = s.store := by
    unfold routeFrame takePassthrough
    dsimp only
    split
    · simp
    · split <;> simp [queued]
  unfold takeFrame
  split <;> simp [routed]

@[simp] theorem setPresence_store (level : Bool) : (setPresence s b level).store = s.store := rfl

@[simp] theorem stopDebounce_store : (stopDebounce s b).store = s.store := rfl

@[simp] theorem beginRemoval_store : (beginRemoval s b).store = s.store := by
  unfold beginRemoval
  dsimp only
  split <;> simp

@[simp] theorem endRemoval_store : (endRemoval s b).store = s.store := by
  unfold endRemoval
  split <;> simp

@[simp] theorem endReset_store : (endReset s b).store = s.store := by
  unfold endReset
  dsimp only
  split <;> simp

@[simp] theorem takeDataIn_store (r : Record) (k : SlotId) (bs : List Byte) :
    (takeDataIn s b r k bs).store = s.store := by
  have passed (u : State) (t : Tag) : (sendData b t bs u).store = u.store := foldl_store (fun _ _ => send_store ..) _ _
  unfold takeDataIn
  split
  · split <;> rfl
  · rfl
  · dsimp only
    split <;> simp [passed]

@[simp] theorem takeDataOut_store (r : Record) (k : SlotId) (n : Nat) : (takeDataOut s b r k n).store = s.store := rfl

end

/-! ### Every command but three -/

/-- No command but a cold reset, DISCARD CERTIFICATE and the end of a build touches the store. -/
theorem exec_store_cases {i : Instr} {s t : State} (h : exec i s = .next t) :
    t.store = s.store ∨ i = .coldReset ∨ (∃ n, i = .discardCertificate n) ∨ ∃ j, i = .buildComplete j := by
  cases i with
  | coldReset | discardCertificate | buildComplete => simp
  | upstreamLinkReset =>
    obtain rfl : linkReset s = t := Host.Outcome.next.inj h
    exact .inl (linkReset_store s)
  | linkUp =>
    obtain rfl : (if s.link = .down then bringUp s else s) = t := Host.Outcome.next.inj h
    left
    split <;> simp [bringUp_store]
  | setClock | loadClassMap | loadPolicy | assignProfile | loadProgram | loadExtents | setNoticeRouting
  | setBayParameters | identifyBridge | readJobStatus | readBayStatus | readCoverage | readCertificate | clearAttention
  | setIndicator | resetBay | resetBridge | unknownCommand =>
    cases h
    refine .inl (takeManagement_store fun c u => ?_)
    (repeat' split) <;> simp
  | loadJob | start | trigger | cancelTrigger | pause | resume | cancel | release =>
    cases h
    refine .inl (takeManagement_store fun c u => onSlot_store fun j => ?_)
    (repeat' split) <;> simp
  | commandFrame | dataFrame | presenceAsserted | presenceDropped | debounceExpiry | deviceFaultIndication
  | resetTimerExpiry | requestCompletion | abortConfirmation | t1Expiry | t2Expiry | driveDataIn | driveDataOut
  | extentScanWord | holdExpiry =>
    cases h
    left
    (repeat' split) <;> simp
  | passthroughGrant =>
    cases h
    left
    split <;> simp [grantPassthrough_store]
  | engineGrant => cases h; exact .inl (grantEngine_store s)
  | nativeEraseIssue => cases h; exact .inl (nativeEraseStep_store ..)
  | invalidFrame | abortRefusal | indicatorPhase | clockSecond => cases h; exact .inl rfl

end Sys2Proof.Proofs
end

section
/-! The certificate unit: what placing a record writes, what a DISCARD frees, and the store through every step (R167,
R168, R170). -/

namespace Sys2Proof.Proofs

open Sys2Proof Sys2Proof.Machine Sys2Proof.Safety

/-! ### The store as a list -/

/-- Room for a run number: fewer than 32 records, none of which bears it (R167). -/
theorem storeHasRoom_iff {store : List CertificateRecord} {run : Word} :
    storeHasRoom store run = true ↔ store.length < 32 ∧ ∀ q ∈ store, q.run ≠ run := by
  simp only [storeHasRoom, storeBears, Bool.and_eq_true, Bool.not_eq_true', List.any_eq_false, decide_eq_true_eq]
  rfl

theorem storeBears_iff {store : List CertificateRecord} {run : Word} :
    storeBears store run = true ↔ ∃ r ∈ store, r.run = run := by simp [storeBears]

theorem insertRecord_perm (r : CertificateRecord) (qs : List CertificateRecord) :
    (insertRecord r qs).Perm (r :: qs) := by
  induction qs with
  | nil => exact .refl _
  | cons q qs ih =>
    unfold insertRecord
    split
    · exact .refl _
    · exact (ih.cons q).trans (.swap r q qs)

theorem removeRecord_ordered {run : Word} {store : List CertificateRecord} (h : StoreOrdered store) :
    StoreOrdered (removeRecord run store) :=
  ⟨(List.length_filter_le _ _).trans h.1, h.2.sublist List.filter_sublist⟩

theorem mem_waitingRecords {s : State} {r : CertificateRecord} :
    r ∈ waitingRecords s ↔ ∃ p ∈ s.building, p.record = some r := List.mem_filterMap

/-! ### A record is placed -/

section
variable (s : State) (r : CertificateRecord)

@[simp] theorem placeRecord_store :
    (placeRecord s r).store = insertRecord { r with closeTime := some s.clock } s.store := by simp [placeRecord]

@[simp] theorem placeRecord_building :
    (placeRecord s r).building = s.building.filter fun p => decide (p.slot ≠ r.slot) := by simp [placeRecord]

/-- The job of a placed record is CLOSED, and no other job changes (R167). -/
theorem placeRecord_job (j : JobId) : (placeRecord s r).job j = if j = r.slot then
    { s.job j with state := .closed, closeTime := some s.clock, permille := 1000, closeOrder := s.stamp }
    else s.job j := by
  simp only [placeRecord, raise_job, State.bumpStamp_job, job_changeJob]
  split
  · next e => rw [e]; rfl
  · rfl

theorem kindPresent_placeRecord :
    kindPresent ((placeRecord s r).attentionOf (s.job r.slot).bay) .jobClosed = true := kindPresent_raise ..

end

/-! ### The place that a DISCARD frees -/

/-- The freed place goes to the lowest run number among those waiting that the store does not bear, or to nobody
(R170). -/
theorem fillPlace_cases (s : State) :
    ((∀ r ∈ waitingRecords s, storeHasRoom s.store r.run = false) ∧ fillPlace s = s) ∨
    ∃ r ∈ waitingRecords s, storeHasRoom s.store r.run = true ∧ fillPlace s = placeRecord s r ∧
      ∀ q ∈ waitingRecords s, storeHasRoom s.store q.run = true → r.run.toNat ≤ q.run.toNat := by
  by_cases none : (waitingRecords s).filter (fun r => storeHasRoom s.store r.run) = []
  · refine .inl ⟨fun r hr => ?_, by simp only [fillPlace, none, lowestRun]⟩
    simpa using List.filter_eq_nil_iff.mp none r hr
  · obtain ⟨r, hr, lowest⟩ := lowestRun_spec none
    obtain ⟨waits, room⟩ := List.mem_filter.mp (lowestRun_mem hr)
    refine .inr ⟨r, waits, room, by simp only [fillPlace, hr], fun q hq fits => ?_⟩
    exact lowest q (List.mem_filter.mpr ⟨hq, fits⟩)

theorem mem_fillPlace_store {s : State} {q : CertificateRecord} (h : q ∈ s.store) : q ∈ (fillPlace s).store := by
  obtain ⟨-, e⟩ | ⟨r, -, -, e, -⟩ := fillPlace_cases s <;> rw [e]
  · exact h
  · rw [placeRecord_store]
    exact mem_insertRecord.mpr (.inr h)

/-- What DISCARD CERTIFICATE leaves in the store: all of it, or what stands without the record and with the place that
it frees filled (R170; log 32). -/
theorem exec_discardCertificate_store {run : Word} {s t : State} (h : exec (.discardCertificate run) s = .next t) :
    t.store = s.store ∨ ∃ u, u.store = removeRecord run s.store ∧ t = fillPlace u := by
  have effect (c : ManagementCommand) (u : State) (hu : u.store = s.store) :
      let v := if storeBears u.store run then fillPlace ((accept u c).putStore (removeRecord run (accept u c).store))
        else refuse u c .range
      v.store = s.store ∨ ∃ w, w.store = removeRecord run s.store ∧ v = fillPlace w := by
    dsimp only
    split
    · exact .inr ⟨_, by simp [hu], rfl⟩
    · exact .inl (by simp [hu])
  cases h
  rcases takeManagement_cases (.discardCertificate run) s _ with ⟨c, _, _, _, e⟩ | ⟨c, _, _, _, _, e⟩ | e <;> rw [e]
  · exact effect c _ rfl
  · exact effect c _ rfl
  · exact .inl rfl

/-- No record leaves the store at the end of a build (R167). -/
theorem mem_exec_buildComplete {j : JobId} {s t : State} (h : exec (.buildComplete j) s = .next t)
    {q : CertificateRecord} (hq : q ∈ s.store) : q ∈ t.store := by
  cases h
  split
  · unfold completeBuild
    dsimp only
    split
    · rw [placeRecord_store]
      exact mem_insertRecord.mpr (.inr hq)
    · rwa [raise_store]
  · exact hq

/-! ### Settled: no certificate is lost, and the store stays ordered -/

/-- Settles O3: three commands write the store; DISCARD filters out its run number and may add one, the end of a build
adds alone, and a cold reset leaves nothing. -/
theorem certificatesAreNeverLost : Obligations.CertificatesAreNeverLost := by
  unfold Obligations.CertificatesAreNeverLost
  intro i s t r h
  obtain same | rfl | ⟨n, rfl⟩ | ⟨j, rfl⟩ := exec_store_cases h
  · rw [same]
    exact ⟨fun stood gone => absurd stood gone, fun came away => absurd came away⟩
  · obtain rfl : coldReset s = t := Host.Outcome.next.inj h
    rw [coldReset_store]
    exact ⟨fun _ _ => .inl rfl, nofun⟩
  · refine ⟨fun stood gone => .inr ?_, fun _ _ => .inr ⟨n, rfl⟩⟩
    obtain same | ⟨u, kept, rfl⟩ := exec_discardCertificate_store h
    · exact absurd (same ▸ stood) gone
    · by_contra other
      have stays : r ∈ u.store := by
        rw [kept]
        exact List.mem_filter.mpr ⟨stood, decide_eq_true fun e => other (by rw [e])⟩
      exact gone (mem_fillPlace_store stays)
  · exact ⟨fun stood gone => absurd (mem_exec_buildComplete h stood) gone, fun _ _ => .inl ⟨j, rfl⟩⟩

theorem storeOrdered_exec {i : Instr} {s t : State} (h : exec i s = .next t) (ordered : StoreOrdered s.store) :
    StoreOrdered t.store := by
  obtain same | rfl | ⟨n, rfl⟩ | ⟨j, rfl⟩ := exec_store_cases h
  · rwa [same]
  · obtain rfl : coldReset s = t := Host.Outcome.next.inj h
    rw [coldReset_store]
    exact ⟨Nat.zero_le _, .nil⟩
  · obtain same | ⟨u, kept, rfl⟩ := exec_discardCertificate_store h
    · rwa [same]
    · exact (inner_fillPlace u).store (kept ▸ removeRecord_ordered ordered)
  · exact (inner_execBuildComplete h).store ordered

/-- Settles O7: a record is inserted only where there is room for it, at the position its run number gives. -/
theorem storeStaysOrdered : Obligations.StoreStaysOrdered := by
  unfold Obligations.StoreStaysOrdered
  intro s t h
  unfold step at h
  split at h
  · cases h; exact id
  · next c rest _ => exact storeOrdered_exec (s := s.putPending rest) h

end Sys2Proof.Proofs
end

section
/-! DISCARD CERTIFICATE: the record that leaves the store, and the waiting record that takes its place (R167, R168,
R170). -/

namespace Sys2Proof.Proofs

open Sys2Proof Sys2Proof.Machine Sys2Proof.Safety

/-- The state behind the reply to DISCARD CERTIFICATE, with the record out of the store. -/
abbrev discarded (s : State) (c : ManagementCommand) (rest : List ManagementCommand) (run : Word) : State :=
  (accepted s c rest).putStore (removeRecord run s.store)

section
variable {s : State} {c : ManagementCommand} {rest : List ManagementCommand} {run : Word}
  (front : AtFront s c rest (.discardCertificate run))
include front

theorem exec_discardCertificate : exec (.discardCertificate run) s =
    if storeBears s.store run then .next (fillPlace (discarded s c rest run)) else refusal s c rest .range := by
  simp only [exec, execDiscardCertificate, takeManagement_front front.1 front.2, State.putManagement_store,
    accept_putManagement, refuse_putManagement]
  split <;> rfl

theorem exec_discardCertificate_borne (borne : ∃ r ∈ s.store, r.run = run) :
    exec (.discardCertificate run) s = .next (fillPlace (discarded s c rest run)) :=
  (exec_discardCertificate front).trans (if_pos (storeBears_iff.mpr borne))

end

/-- Settles O35: the place goes to the lowest run number among the waiting records that the kept store has room for. -/
theorem discardFreesAPlace : Obligations.DiscardFreesAPlace := by
  unfold Obligations.DiscardFreesAPlace
  intro s c rest run front kept fits
  refine ⟨fun unborne => ?refused, fun borne unfit => ?unfilled, fun borne ⟨w, hw⟩ room => ?filled⟩
  case refused =>
    refine (exec_discardCertificate front).trans (if_neg fun borne => ?_)
    obtain ⟨r, hr, bears⟩ := storeBears_iff.mp borne
    exact unborne r hr bears
  case unfilled =>
    rw [exec_discardCertificate_borne front borne]
    obtain ⟨-, stands⟩ | ⟨r, hr, room, -⟩ := fillPlace_cases (discarded s c rest run)
    · rw [stands]; rfl
    · exact absurd ⟨mem_waitingRecords.mp hr, (storeHasRoom_iff.mp room).2⟩ (unfit r)
  case filled =>
    have room_of_fits {q : CertificateRecord} (hq : fits q) : storeHasRoom kept q.run = true :=
      storeHasRoom_iff.mpr ⟨room, hq.2⟩
    obtain ⟨full, -⟩ | ⟨r, hr, hroom, placed, lowest⟩ := fillPlace_cases (discarded s c rest run)
    · exact absurd ((full w (mem_waitingRecords.mpr hw.1)).symm.trans (room_of_fits hw)) Bool.false_ne_true
    · refine ⟨placeRecord (discarded s c rest run) r, r,
        (exec_discardCertificate_borne front borne).trans (congrArg _ placed),
        ⟨mem_waitingRecords.mp hr, (storeHasRoom_iff.mp hroom).2⟩,
        fun q hq => lowest q (mem_waitingRecords.mpr hq.1) (room_of_fits hq), ?_, placeRecord_building ..,
        placeRecord_job (discarded s c rest run) r, kindPresent_placeRecord .., (inner_placeRecord _ r hroom).sent⟩
      rw [placeRecord_store]
      exact insertRecord_perm ..

end Sys2Proof.Proofs
end

section
/-! The digest of a certificate: the CRC-32 bit by bit, and five bytes a zone (R165). -/

namespace Sys2Proof.Proofs

open Sys2Proof Sys2Proof.Machine Sys2Proof.Safety

/-! ### The CRC-32 bit by bit -/

/-- One bit goes into the CRC register: it is shifted, and the polynomial is added where the bit that falls out and the
bit that comes in differ (R165). -/
def crcStep (r : Word) (bit : Bool) : Word := if r.getLsbD 0 = bit then r >>> 1 else (r >>> 1) ^^^ 0xEDB88320

/-- The bits of a word that has been added to the register go in one by one, the lowest first. -/
theorem crcShift_xor (r v : Word) : crcShift (r ^^^ v) = crcStep r (v.getLsbD 0) ^^^ (v >>> 1) := by
  have swap (a b c : Word) : a ^^^ b ^^^ c = a ^^^ c ^^^ b := by ac_rfl
  unfold crcShift crcStep
  rw [BitVec.getLsbD_xor, BitVec.ushiftRight_xor_distrib]
  cases r.getLsbD 0 <;> cases v.getLsbD 0
  case false.false | true.true => rfl
  case false.true | true.false => exact swap ..

theorem crcShifts_xor (n : Nat) : ∀ r v : Word,
    crcShifts n (r ^^^ v) = ((List.range n).map v.getLsbD).foldl crcStep r ^^^ (v >>> n) := by
  induction n with
  | zero => intro r v; simp [crcShifts]
  | succ n ih =>
    intro r v
    have later : (List.range n).map (v >>> 1).getLsbD = (List.range n).map (v.getLsbD ∘ Nat.succ) :=
      List.map_congr_left fun k _ => by simp [Nat.add_comm]
    rw [crcShifts, crcShift_xor, ih, later, List.range_succ_eq_map, List.map_cons, List.foldl_cons, List.map_map,
      ← BitVec.shiftRight_add, Nat.add_comm 1]

/-- A byte goes into the register bit by bit, least significant first (R165). -/
theorem crcByte_eq (r : Word) (b : Byte) : crcByte r b = ((List.range 8).map b.getLsbD).foldl crcStep r := by
  have bits : (List.range 8).map (b.setWidth 32).getLsbD = (List.range 8).map b.getLsbD :=
    List.map_congr_left fun k hk => by
      have := List.mem_range.mp hk
      rw [BitVec.getLsbD_setWidth, decide_eq_true (by omega), Bool.true_and]
  have spent : b.setWidth 32 >>> 8 = 0 := by
    apply BitVec.eq_of_toNat_eq
    simp
    omega
  rw [crcByte, crcShifts_xor, bits, spent]
  simp

theorem crc32_eq (bytes : List Byte) :
    crc32 bytes = ~~~ ((bytes.flatMap fun b => (List.range 8).map b.getLsbD).foldl crcStep 0xFFFFFFFF) := by
  have fold (bs : List Byte) : ∀ r : Word,
      bs.foldl crcByte r = (bs.flatMap fun b => (List.range 8).map b.getLsbD).foldl crcStep r := by
    induction bs with
    | nil => exact fun _ => rfl
    | cons b bs ih =>
      intro r
      rw [List.foldl_cons, ih, crcByte_eq, List.flatMap_cons, List.foldl_append]
  rw [crc32, fold]

/-! ### Five bytes a zone -/

theorem length_zoneDigestBytes (i : Nat) (z : ZoneEntry) : (zoneDigestBytes i z).length = 5 := by
  simp [zoneDigestBytes]

theorem length_mapDigestBytes (zs : List ZoneEntry) : ∀ n, (mapDigestBytes n zs).length = 5 * zs.length := by
  induction zs with
  | nil => exact fun _ => rfl
  | cons z zs ih =>
    intro n
    rw [mapDigestBytes, List.length_append, length_zoneDigestBytes, ih, List.length_cons]
    omega

/-- The bytes of a zone stand at five times its place. -/
theorem mapDigestBytes_zone {zs : List ZoneEntry} : ∀ {n i : Nat} {z : ZoneEntry}, zs[i]? = some z →
    ((mapDigestBytes n zs).drop (5 * i)).take 5 = zoneDigestBytes (n + i) z := by
  induction zs with
  | nil => exact nofun
  | cons a zs ih =>
    intro n i z h
    have five := length_zoneDigestBytes n a
    cases i with
    | zero =>
      obtain rfl : a = z := by simpa using h
      exact List.take_left' five
    | succ i =>
      have here : (mapDigestBytes n (a :: zs)).drop (5 * (i + 1)) = (mapDigestBytes (n + 1) zs).drop (5 * i) := by
        rw [Nat.mul_succ, Nat.add_comm, ← List.drop_drop, mapDigestBytes, List.drop_left' five]
      rw [here, ih (by simpa using h), Nat.add_right_comm, Nat.add_assoc]

theorem zoneDigestBytes_eq (i : Nat) (z : ZoneEntry) : zoneDigestBytes i z =
    [BitVec.ofNat 8 (i % 256), BitVec.ofNat 8 (i / 256), BitVec.ofNat 8 z.state.code,
      BitVec.ofNat 8 (z.pass.getD 0xFF), BitVec.ofNat 8 z.mismatch] := by
  have low : BitVec.ofNat 8 (i % 256) = BitVec.ofNat 8 i := by
    apply BitVec.eq_of_toNat_eq
    simp
  rw [low]
  rfl

end Sys2Proof.Proofs
end

section
/-! The end of a build: the record that stands complete, and whether it is placed or waits (R163 to R167). -/

namespace Sys2Proof.Proofs

open Sys2Proof Sys2Proof.Machine Sys2Proof.Safety

/-! ### The pass entries -/

theorem length_passRecords (ends : List (Option Word)) (ps : List PassImage) :
    ∀ n, (passRecords ends n ps).length = ps.length := by
  induction ps with
  | nil => exact fun _ => rfl
  | cons p ps ih => exact fun n => congrArg Nat.succ (ih _)

theorem getElem?_passRecords (ends : List (Option Word)) {ps : List PassImage} : ∀ {n i : Nat} {p : PassImage},
    ps[i]? = some p → (passRecords ends n ps)[i]? = some (passRecord p (ends.getD (n + i) none)) := by
  induction ps with
  | nil => exact nofun
  | cons a ps ih =>
    intro n i p h
    cases i with
    | zero =>
      obtain rfl : a = p := by simpa using h
      rfl
    | succ i =>
      rw [passRecords, List.getElem?_cons_succ, ih (by simpa using h), Nat.add_right_comm, Nat.add_assoc]

/-- The code and the parameter recorded of a pattern (R164, R182; log 21). -/
theorem recordedPattern_eq (x : Pattern) : (x.code, recordedParameter x) = match x with
    | .zero => (0, 0)
    | .ones => (1, 0)
    | .byte v => (2, v.setWidth 32)
    | .location seed => (3, seed) := by cases x <;> rfl

/-- A pass entry holds the fields its kind uses, and 0 for the others (R28, R164). -/
theorem passRecord_fields (p : PassImage) (e : Option Word) :
    (passRecord p e).kind = kindOfPass p ∧ (passRecord p e).endTime = e ∧
    (passRecord p e).direction =
      (if kindOfPass p ≠ .nativeErase ∧ directionOfPass p = .descending then 1 else 0) ∧
    (passRecord p e).density = (if kindOfPass p = .verify then p.density else 0) ∧
    ((passRecord p e).pattern, (passRecord p e).parameter) =
      if kindOfPass p = .verify then (0, 0) else ((patternOfPass p).code, recordedParameter (patternOfPass p)) := by
  have coded : (directionOfPass p).code = if directionOfPass p = .descending then 1 else 0 := by
    cases directionOfPass p <;> rfl
  unfold passRecord
  cases kindOfPass p <;> simp [coded]

/-! ### The record that is built -/

/-- The record of a job as the end of its build leaves it: with its close time where it is placed (R167). -/
def builtRecord (s : State) (j : JobId) : CertificateRecord :=
  let r := buildRecord s j
  { r with closeTime := if storeHasRoom s.store r.run then some s.clock else none }

theorem eq_map_getD {α : Type} (o : Option α) (d : α) : o = o.map fun _ => o.getD d := by cases o <;> rfl

theorem isBuilding_iff {s : State} {j : JobId} :
    isBuilding s j = true ↔ { slot := j, record := none } ∈ s.building := by
  simp only [isBuilding, List.any_eq_true, Bool.and_eq_true, decide_eq_true_eq, Option.isNone_iff_eq_none]
  constructor
  · rintro ⟨⟨_, _⟩, hp, rfl, rfl⟩
    exact hp
  · exact fun h => ⟨_, h, rfl, rfl⟩

section
variable {s : State} {j : JobId}

theorem exec_buildComplete_of_none (built : ∀ p ∈ s.building, p.slot = j → p.record ≠ none) :
    exec (.buildComplete j) s = .next s :=
  congrArg Host.Outcome.next (if_neg fun h => built _ (isBuilding_iff.mp h) rfl rfl)

theorem exec_buildComplete (building : { slot := j, record := none } ∈ s.building) :
    exec (.buildComplete j) s = .next (completeBuild s j) :=
  congrArg Host.Outcome.next (if_pos (isBuilding_iff.mpr building))

theorem builtRecord_placed (room : storeHasRoom s.store (builtRecord s j).run = true) :
    builtRecord s j = { buildRecord s j with closeTime := some s.clock } := by
  simp only [builtRecord, show storeHasRoom s.store (buildRecord s j).run = true from room, if_true]

theorem builtRecord_waits (full : storeHasRoom s.store (builtRecord s j).run = false) :
    builtRecord s j = buildRecord s j := by
  simp only [builtRecord, show storeHasRoom s.store (buildRecord s j).run = false from full]
  rfl

theorem completeBuild_placed (room : storeHasRoom s.store (builtRecord s j).run = true) :
    completeBuild s j = placeRecord s (buildRecord s j) := if_pos room

/-- A record that finds no place waits in its pending record, and CERT_PENDING is raised (R167). -/
theorem completeBuild_waits (full : storeHasRoom s.store (builtRecord s j).run = false) :
    completeBuild s j = raise (s.putBuilding (s.building.map fun p =>
      if p.slot = j then { p with record := some (builtRecord s j) } else p)) (s.job j).bay .certPending := by
  rw [builtRecord_waits full]
  exact if_neg (ne_true_of_eq_false full)

end

/-- Settles O36: the register takes a byte bit by bit, the digest's bytes are read zone by zone, and the record that
`builtRecord` says is inserted where the store has room for it. -/
theorem buildCompletePlacesTheRecord : Obligations.BuildCompletePlacesTheRecord := by
  unfold Obligations.BuildCompletePlacesTheRecord
  refine ⟨crc32_eq, fun zones => ⟨length_mapDigestBytes zones 0, fun i z h _ => ?digest⟩, fun s j =>
    ⟨exec_buildComplete_of_none, fun building => ⟨completeBuild s j, builtRecord s j, exec_buildComplete building,
      ⟨rfl, rfl, rfl, rfl, rfl, rfl, rfl, rfl, rfl, eq_map_getD .., eq_map_getD .., eq_map_getD .., ?identity,
        ?geometry, length_passRecords .., fun i p h => ?passes, rfl, rfl⟩,
      (inner_completeBuild s j).sent, ?place⟩⟩⟩
  case digest =>
    rw [mapDigestBytes_zone h, Nat.zero_add, zoneDigestBytes_eq]
  case identity => exact eq_map_getD (s.job j).identity { serial := [], capacity := 0, sectorSize := 0 }
  case geometry => exact eq_map_getD (s.job j).geometry { sEff := 0, z := 0, zn := 0 }
  case passes =>
    obtain ⟨kind, endTime, direction, density, pattern⟩ :=
      passRecord_fields p ((s.job j).passEnds.getD (0 + i) none)
    refine ⟨_, getElem?_passRecords (s.job j).passEnds h, kind, endTime.trans (by rw [Nat.zero_add]), direction,
      density, pattern.trans (congrArg _ (recordedPattern_eq _))⟩
  case place =>
    cases room : storeHasRoom s.store (builtRecord s j).run with
    | true =>
      rw [if_pos (storeHasRoom_iff.mp room), completeBuild_placed room]
      refine ⟨if_pos room, ?_, placeRecord_building .., fun k => ?_, kindPresent_placeRecord ..⟩
      · rw [placeRecord_store, builtRecord_placed room]
        exact insertRecord_perm ..
      · exact (placeRecord_job ..).trans (ite_congr rfl (fun e : k = j => by rw [e]) fun _ => rfl)
    | false =>
      rw [if_neg fun h => Bool.false_ne_true (room.symm.trans (storeHasRoom_iff.mpr h)), completeBuild_waits room]
      exact ⟨raise_frame .., kindPresent_raise ..⟩

end Sys2Proof.Proofs
end

section
/-! The clock and the identity of the bridge, and the command that spells nothing (R172, R173). -/

namespace Sys2Proof.Proofs

open Sys2Proof Sys2Proof.Machine Sys2Proof.Safety

section
variable {s : State} {c : ManagementCommand} {rest : List ManagementCommand}

theorem exec_setClock {v : Word} (front : AtFront s c rest (.setClock v)) :
    exec (.setClock v) s = .next (accepted { s with clock := v } c rest) := by
  simp only [exec, execSetClock, takeManagement_front front.1 front.2]
  exact congrArg Host.Outcome.next (accept_putManagement (s := s.putClock v) ..)

theorem exec_identifyBridge (front : AtFront s c rest .identifyBridge) :
    exec .identifyBridge s = .next (replied s c rest .accepted (.bridge (bridgeReport s))) := by
  simp only [exec, execIdentifyBridge, takeManagement_front front.1 front.2]
  exact congrArg Host.Outcome.next (reply_putManagement (s := s) ..)

theorem exec_unknownCommand {code : Byte} {payload : List Byte}
    (front : AtFront s c rest (.unknownCommand code payload)) :
    exec (.unknownCommand code payload) s = refusal s c rest .range := by
  simp only [exec, execUnknownCommand, takeManagement_front front.1 front.2, refuse_putManagement]

end

/-- The clock of 32 bits wraps behind its highest reading (R173). -/
theorem toNat_clock_succ (v : Word) : (v + 1).toNat = if v.toNat = 2 ^ 32 - 1 then 0 else v.toNat + 1 := by
  have small := v.isLt
  rw [BitVec.toNat_add, show (1 : Word).toNat = 1 from rfl]
  split <;> omega

/-- Settles O19: one equation for each of the three commands, and the wrap of the clock. -/
theorem clockAndIdentityCommands : Obligations.ClockAndIdentityCommands := by
  unfold Obligations.ClockAndIdentityCommands
  exact fun s c rest => ⟨fun v => exec_setClock, ⟨_, rfl, rfl, toNat_clock_succ s.clock⟩, exec_identifyBridge,
    fun code payload => exec_unknownCommand⟩

end Sys2Proof.Proofs
end

section
/-! The attention kinds of a bay: how a kind joins its set and leaves it, and the notices that go out as the link comes
UP (R175, R177). -/

namespace Sys2Proof.Proofs

open Sys2Proof Sys2Proof.Machine Sys2Proof.Safety

/-! ### Attention sets -/

/-- The ten kinds in the order of their numbers (R175). -/
def allKinds : List AttentionKind :=
  [.inserted, .removed, .ready, .faulted, .passDone, .jobHalted, .startRefused, .jobClosed, .foreignDrive, .certPending]

theorem allKinds_number (k : AttentionKind) : allKinds[k.number]? = some k := by cases k <;> rfl

theorem mem_allKinds (k : AttentionKind) : k ∈ allKinds := List.mem_of_getElem? (allKinds_number k)

theorem number_injective : Function.Injective AttentionKind.number := fun k l same =>
  Option.some.inj (by rw [← allKinds_number k, same, allKinds_number])

/-- The set of one kind holds that kind alone. -/
theorem kindPresent_kindMask (k l : AttentionKind) : kindPresent (kindMask k) l = decide (l = k) := by
  have low := k.number.isLt
  have same : k.number.val = l.number.val ↔ l = k :=
    Fin.val_inj.trans (number_injective.eq_iff.trans eq_comm)
  rw [kindPresent, kindMask, ← BitVec.twoPow_eq, BitVec.getLsbD_twoPow]
  simp [low, same]

/-- A kind that joins a set is the only new one in it (R175). -/
theorem kindPresent_or_kindMask (set : AttentionSet) (k l : AttentionKind) :
    kindPresent (set ||| kindMask k) l = true ↔ kindPresent set l = true ∨ l = k := by
  have either : kindPresent (set ||| kindMask k) l = (kindPresent set l || kindPresent (kindMask k) l) :=
    BitVec.getLsbD_or
  rw [either, kindPresent_kindMask, Bool.or_eq_true, decide_eq_true_eq]

/-- A set loses the kinds of a mask and no other (R175). -/
theorem kindPresent_clearedSet (set : AttentionSet) (mask : BitVec 16) (l : AttentionKind) :
    kindPresent (clearedSet set mask) l = (kindPresent set l && !mask.getLsbD l.number.val) := by
  have low := l.number.isLt
  simp [kindPresent, clearedSet, low]

theorem raise_of_present {s : State} {b : BayId} {k : AttentionKind}
    (present : kindPresent (s.attentionOf b) k = true) : raise s b k = s := if_pos present

/-- A kind that is absent joins the set, and is announced where it is routed (R175). -/
theorem raise_of_absent {s : State} {b : BayId} {k : AttentionKind}
    (absent : kindPresent (s.attentionOf b) k = false) : raise s b k = { s with
      attention := put s.attention b (s.attentionOf b ||| kindMask k)
      sent := if channel s k ≠ 0 ∧ s.link = .up then
          s.sent ++ [.notice b (channel s k) (s.attentionOf b ||| kindMask k)] else s.sent } := by
  have joined (set : AttentionSet) : channel (s.putAttention b set) k = channel s k := rfl
  unfold raise
  rw [if_neg (ne_true_of_eq_false absent)]
  simp only [joined, send_eq]
  by_cases silent : channel s k = 0
  · rw [if_pos silent, if_neg fun routed => routed.1 silent]
    rfl
  · simp only [silent, ne_eq, not_false_eq_true, true_and, if_false]
    rfl

section
variable {s : State} {c : ManagementCommand} {rest : List ManagementCommand}

theorem exec_clearAttention_refused {bay : Nat} {mask : BitVec 16} (front : AtFront s c rest (.clearAttention bay mask))
    (outside : 16 ≤ bay ∨ 1024 ≤ mask.toNat) : exec (.clearAttention bay mask) s = refusal s c rest .range := by
  simp only [exec, execClearAttention, takeManagement_front front.1 front.2]
  obtain noBay | noKind := outside
  · simp only [bayOf_eq_none noBay, refuse_putManagement]
  · have foreign : maskNamesKinds mask = false := decide_eq_false noKind.not_gt
    cases bayOf bay <;> simp only [foreign, Bool.false_eq_true, if_false, refuse_putManagement]

theorem exec_clearAttention {b : BayId} {mask : BitVec 16} (front : AtFront s c rest (.clearAttention b.val mask))
    (kinds : mask.toNat < 1024) : exec (.clearAttention b.val mask) s = .next (replied
      { s with attention := put s.attention b (clearedSet (s.attentionOf b) mask) } c rest .accepted
      (.attention (clearedSet (s.attentionOf b) mask))) := by
  have named : maskNamesKinds mask = true := decide_eq_true kinds
  simp only [exec, execClearAttention, takeManagement_front front.1 front.2, bayOf_val, named, if_true]
  exact congrArg Host.Outcome.next (reply_putManagement (s := s.putAttention b _) ..)

end

/-- Settles O37: `raise` by whether the kind is present, CLEAR ATTENTION by its range checks. -/
theorem attentionKindsAreRaisedAndCleared : Obligations.AttentionKindsAreRaisedAndCleared := by
  unfold Obligations.AttentionKindsAreRaisedAndCleared
  refine fun s => ⟨fun b k => raise_of_present, fun b k absent => ⟨_, kindPresent_or_kindMask _ k,
    raise_of_absent absent⟩, fun c rest bay mask front => ⟨exec_clearAttention_refused front, fun b hb kinds => ?_⟩⟩
  subst hb
  exact ⟨_, kindPresent_clearedSet _ mask, exec_clearAttention front kinds⟩

/-! ### The notices of the link's coming UP -/

/-- In a list that rises by `m`, the first member with a property is its lowest. -/
theorem find?_eq_some_iff_lowest {α : Type} {m : α → Nat} {p : α → Bool} {xs : List α}
    (rising : xs.Pairwise fun x y => m x < m y) {x : α} :
    xs.find? p = some x ↔ x ∈ xs ∧ p x = true ∧ ∀ y ∈ xs, p y = true → m x ≤ m y := by
  induction xs with
  | nil => simp
  | cons a xs ih =>
    obtain ⟨above, rising⟩ := List.pairwise_cons.mp rising
    cases ha : p a with
    | true =>
      have least : ∀ y ∈ a :: xs, m a ≤ m y := List.forall_mem_cons.mpr ⟨le_rfl, fun y hy => (above y hy).le⟩
      rw [List.find?_cons_of_pos ha, Option.some.injEq]
      constructor
      · rintro rfl
        exact ⟨List.mem_cons_self, ha, fun y hy _ => least y hy⟩
      · rintro ⟨mem, -, lowest⟩
        obtain rfl | behind := List.mem_cons.mp mem
        · rfl
        · exact absurd (lowest a List.mem_cons_self ha) (above x behind).not_ge
    | false =>
      have other : p x = true → x ≠ a := by rintro hx rfl; simp [ha] at hx
      rw [List.find?_cons_of_neg (by simp [ha]), ih rising]
      simp +contextual [ha, other]

/-- The lowest-numbered kind of a bay's set that is routed to a channel from 1 to 7 (R177). -/
def announcedKind (s : State) (b : BayId) : Option AttentionKind :=
  allKinds.find? fun k => kindPresent (s.attentionOf b) k && decide (channel s k ≠ 0)

theorem announcedKind_eq_some {s : State} {b : BayId} {k : AttentionKind} : announcedKind s b = some k ↔
    kindPresent (s.attentionOf b) k = true ∧ channel s k ≠ 0 ∧
      ∀ l, kindPresent (s.attentionOf b) l = true → channel s l ≠ 0 → k.number ≤ l.number := by
  have rising : allKinds.Pairwise fun k l => k.number.val < l.number.val := by decide
  rw [announcedKind, find?_eq_some_iff_lowest rising]
  simp [mem_allKinds, and_assoc]

/-- The channel of a bay's notice is that of its lowest routed kind (R177). -/
theorem linkUpChannel_eq (s : State) (b : BayId) : linkUpChannel s b = (announcedKind s b).map (channel s) := by
  have numbers : List.range 10 = allKinds.map fun k => k.number.val := by decide
  have routed (k : AttentionKind) : (s.tables.routing[k.number.val]?.getD 0).val = channel s k := by
    rw [Vector.getElem?_eq_getElem k.number.isLt]
    rfl
  unfold linkUpChannel announcedKind
  rw [numbers, List.filterMap_map, List.head?_filterMap, List.find?_eq_findSome?_guard, List.map_findSome?]
  congr 1
  funext k
  have seen : (s.attentionOf b).getLsbD k.number.val = kindPresent (s.attentionOf b) k := rfl
  simp only [Function.comp_apply, routed, seen, Option.guard]
  by_cases present : kindPresent (s.attentionOf b) k = true
  · by_cases silent : channel s k = 0 <;> simp [present, silent]
  · simp [present]

/-- A bay's notice as the link comes UP, or none (R177). -/
def linkUpFrame (s : State) (b : BayId) : Option OutFrame :=
  (announcedKind s b).map fun k => .notice b (channel s k) (s.attentionOf b)

theorem linkUpNotice_eq {s : State} (up : s.link = .up) (b : BayId) :
    linkUpNotice s b = { s with sent := s.sent ++ (linkUpFrame s b).toList } := by
  unfold linkUpNotice linkUpFrame
  rw [linkUpChannel_eq]
  cases announcedKind s b with
  | none => simp
  | some k => simp [send_eq, up]

/-- A frame that is sent announces nothing and leaves what other bays announce. -/
theorem foldl_linkUpNotice {s : State} (up : s.link = .up) (bs : List BayId) :
    bs.foldl linkUpNotice s = { s with sent := s.sent ++ bs.filterMap (linkUpFrame s) } := by
  induction bs generalizing s with
  | nil => simp
  | cons b bs ih =>
    have rest : linkUpFrame { s with sent := s.sent ++ (linkUpFrame s b).toList } = linkUpFrame s := rfl
    rw [List.foldl_cons, linkUpNotice_eq up, ih (s := { s with sent := s.sent ++ (linkUpFrame s b).toList }) up, rest]
    cases h : linkUpFrame s b <;> simp [h]

theorem bringUp_eq (s : State) : bringUp s = { s with
    link := .up, taking := none, sent := s.sent ++ allBays.filterMap (linkUpFrame s) } :=
  foldl_linkUpNotice (s := (s.putLink .up).putTaking none) rfl allBays

/-- Settles O13: the kind chosen for a bay is `announcedKind`, and the bays are announced one after another. -/
theorem linkUpSendsOneNoticePerBay : Obligations.LinkUpSendsOneNoticePerBay := by
  unfold Obligations.LinkUpSendsOneNoticePerBay
  refine fun s => ⟨fun up => ?_, fun down => ⟨announcedKind s, fun b k => announcedKind_eq_some, ?_⟩⟩
  · exact congrArg Host.Outcome.next (if_neg (by rw [up]; decide))
  · exact congrArg Host.Outcome.next ((if_pos down).trans (bringUp_eq s))

end Sys2Proof.Proofs
end

section
/-! Layouts read back: the numbers, bytes and words that stand in the fields of a layout, and the items of a table that
a reader takes from its front (R180, R181). -/

namespace Sys2Proof.Proofs

open Sys2Proof Sys2Proof.Machine Sys2Proof.Safety

/-! ### Layouts made and taken apart -/

theorem LaidOut.single {b : List Byte} {n : Nat} (hb : b.length = n) : LaidOut b [b] [n] :=
  ⟨(List.append_nil b).symm, congrArg (fun m => [m]) hb⟩

/-- One more field behind a layout. -/
theorem LaidOut.append {bytes b : List Byte} {fields : List (List Byte)} {sizes : List Nat} {n : Nat}
    (h : LaidOut bytes fields sizes) (hb : b.length = n) : LaidOut (bytes ++ b) (fields ++ [b]) (sizes ++ [n]) where
  joined := by rw [h.joined, List.flatten_append, List.flatten_singleton]
  sized := by rw [List.map_append, h.sized, List.map_singleton, hb]

/-- A table of items of one size behind a layout. -/
theorem LaidOut.appendTable {α : Type} {f : α → List Byte} {k : Nat} {bytes : List Byte} {fields : List (List Byte)}
    {sizes : List Nat} (h : LaidOut bytes fields sizes) (size : ∀ x, (f x).length = k) (xs : List α) :
    LaidOut (bytes ++ xs.flatMap f) (fields ++ [xs.flatMap f]) (sizes ++ [k * xs.length]) :=
  h.append (Laws.length_flatMap_const f k size xs)

section
variable {bytes : List Byte} {fields : List (List Byte)} {sizes : List Nat} (h : LaidOut bytes fields sizes)
include h

/-- From a field on stand that field and those behind it. -/
theorem LaidOut.drop_eq (i : Nat) : bytes.drop (sizes.take i).sum = (fields.drop i).flatten := by
  rw [h.joined, ← h.sized, List.drop_sum_flatten]

theorem LaidOut.leNat_eq (i : Nat) {b : List Byte} {n : Nat} (hb : fields[i]? = some b) (hn : sizes[i]? = some n) :
    field bytes (sizes.take i).sum n = leNat b := by
  have size : b.length = n := by simpa [← h.sized, hb] using hn
  rw [field, take_eq_of_prefix (h.prefix_drop i hb) size]

theorem LaidOut.byteAt_eq (i k : Nat) {b : List Byte} {x : Byte} (hb : fields[i]? = some b) (hx : b[k]? = some x) :
    byteAt bytes ((sizes.take i).sum + k) = x := by
  obtain ⟨behind, stands⟩ := h.prefix_drop i hb
  have found : bytes[(sizes.take i).sum + k]? = some x := by
    rw [← List.getElem?_drop, ← stands, List.getElem?_append_left (List.getElem?_eq_some_iff.mp hx).1, hx]
  rw [byteAt, List.getD_eq_getElem?_getD, found, Option.getD_some]

theorem LaidOut.wordAt_eq (i : Nat) {v : Word} (hi : fields[i]? = some (leBytes 4 v.toNat)) :
    wordAt bytes (sizes.take i).sum = v := by
  rw [wordAt, h.field_eq i hi v.isLt, BitVec.ofNat_toNat, BitVec.setWidth_eq]
end

/-! ### Tables read item by item -/

/-- A reader that takes one item of `k` bytes after another reads back what is written item by item. -/
theorem readItems_of_prefix {α : Type} {read : Nat → List Byte → List α} {item : List Byte → α}
    {write : α → List Byte} {k : Nat} (empty : ∀ bs, read 0 bs = [])
    (more : ∀ n bs, read (n + 1) bs = item bs :: read n (bs.drop k))
    (size : ∀ x, (write x).length = k) {xs : List α} (back : ∀ x ∈ xs, ∀ t, item (write x ++ t) = x)
    {bs : List Byte} (h : xs.flatMap write <+: bs) : read xs.length bs = xs := by
  obtain ⟨t, rfl⟩ := h
  induction xs with
  | nil => exact empty _
  | cons x xs ih =>
    obtain ⟨first, others⟩ := List.forall_mem_cons.mp back
    rw [List.flatMap_cons, List.append_assoc, List.length_cons, more, first, List.drop_left' (size x), ih others]

/-- Numbers that fit a byte are read back byte by byte. -/
theorem map_toNat_flatMap_leBytes {ns : List Nat} (small : ∀ n ∈ ns, n < 256) :
    (ns.flatMap (leBytes 1)).map BitVec.toNat = ns := by
  induction ns with
  | nil => rfl
  | cons n ns ih =>
    obtain ⟨first, others⟩ := List.forall_mem_cons.mp small
    rw [List.flatMap_cons, List.map_append, ih others]
    exact congrArg (· :: ns) (Nat.mod_eq_of_lt first)

theorem readBytes_of_prefix {ns : List Nat} (small : ∀ n ∈ ns, n < 256) {bs : List Byte}
    (h : ns.flatMap (leBytes 1) <+: bs) : readBytes ns.length bs = ns := by
  have size : (ns.flatMap (leBytes 1)).length = ns.length :=
    (Laws.length_flatMap_const _ 1 (Laws.length_leBytes 1) ns).trans (Nat.one_mul _)
  have front : bs.take ns.length = ns.flatMap (leBytes 1) := take_eq_of_prefix (o := 0) h size
  rw [readBytes, front, map_toNat_flatMap_leBytes small]

/-- The fields of an action entry (R181). -/
theorem laidOut_actionBytes (a : ActionImage) :
    LaidOut (actionBytes a) [leBytes 1 a.action, leBytes 1 a.substitute] [1, 1] := ⟨rfl, rfl⟩

/-- The fields of an extent word (R181). -/
theorem laidOut_extentBytes (x : ExtentWord) :
    LaidOut (extentBytes x) [leBytes 6 x.start, leBytes 4 x.length] [6, 4] := ⟨rfl, rfl⟩

/-- The fields of a loaded pass entry (R181, R182). -/
theorem laidOut_passBytes (p : PassImage) : LaidOut (passBytes p)
    [leBytes 1 p.kind, leBytes 1 p.pattern, leBytes 1 p.direction, leBytes 1 p.density, leBytes 4 p.parameter.toNat,
      leBytes 1 p.retry, leBytes 1 p.reference, leBytes 1 p.grain, leBytes 1 p.chain]
    [1, 1, 1, 1, 4, 1, 1, 1, 1] := ⟨rfl, rfl⟩

theorem readActions_of_prefix {as : List ActionImage} (w : as.all ActionImage.wellFormed = true) {bs : List Byte}
    (h : as.flatMap actionBytes <+: bs) : readActions as.length bs = as := by
  refine readItems_of_prefix (fun _ => rfl) (fun _ _ => rfl) Laws.length_actionBytes (fun a ha t => ?_) h
  have small := List.all_eq_true.mp w a ha
  simp only [ActionImage.wellFormed, isByte, Bool.and_eq_true, decide_eq_true_eq] at small
  obtain ⟨action, substitute⟩ := small
  have layout := (laidOut_actionBytes a).append (b := t) rfl
  exact (ActionImage.mk.injEq ..).mpr ⟨layout.field_eq 0 rfl action, layout.field_eq 1 rfl substitute⟩

theorem readExtents_of_prefix {xs : List ExtentWord} (w : xs.all ExtentWord.wellFormed = true) {bs : List Byte}
    (h : xs.flatMap extentBytes <+: bs) : readExtents xs.length bs = xs := by
  refine readItems_of_prefix (fun _ => rfl) (fun _ _ => rfl) Laws.length_extentBytes (fun x hx t => ?_) h
  have small := List.all_eq_true.mp w x hx
  simp only [ExtentWord.wellFormed, isLba, isFour, Bool.and_eq_true, decide_eq_true_eq] at small
  obtain ⟨start, length⟩ := small
  have layout := (laidOut_extentBytes x).append (b := t) rfl
  exact (ExtentWord.mk.injEq ..).mpr ⟨layout.field_eq 0 rfl start, layout.field_eq 1 rfl length⟩

theorem readPasses_of_prefix {ps : List PassImage} (w : ps.all PassImage.wellFormed = true) {bs : List Byte}
    (h : ps.flatMap passBytes <+: bs) : readPasses ps.length bs = ps := by
  refine readItems_of_prefix (fun _ => rfl) (fun _ _ => rfl) Laws.length_passBytes (fun p hp t => ?_) h
  have small := List.all_eq_true.mp w p hp
  simp only [PassImage.wellFormed, isByte, Bool.and_eq_true, decide_eq_true_eq, and_assoc] at small
  obtain ⟨kind, pattern, direction, density, retry, reference, grain, chain⟩ := small
  have layout := (laidOut_passBytes p).append (b := t) rfl
  exact (PassImage.mk.injEq ..).mpr ⟨layout.field_eq 0 rfl kind, layout.field_eq 1 rfl pattern,
    layout.field_eq 2 rfl direction, layout.field_eq 3 rfl density, layout.wordAt_eq 4 rfl, layout.field_eq 5 rfl retry,
    layout.field_eq 6 rfl reference, layout.field_eq 7 rfl grain, layout.field_eq 8 rfl chain⟩

end Sys2Proof.Proofs
end

section
/-! Management commands decoded and encoded: a payload that is laid out as R181 says spells its command. -/

namespace Sys2Proof.Proofs

open Sys2Proof Sys2Proof.Machine Sys2Proof.Safety

/-! ### Payloads of a fixed size -/

/-- The number that a payload of one byte carries. -/
theorem field_leBytes_one {n : Nat} (w : isByte n = true) : field (leBytes 1 n) 0 1 = n :=
  (LaidOut.single (b := leBytes 1 n) rfl).field_eq 0 rfl (of_decide_eq_true w)

section
variable {p : List Byte}

theorem managementInstr_setClock {value : Word} (layout : LaidOut p [leBytes 4 value.toNat] [4]) :
    managementInstr 0x02 p = .setClock value :=
  (if_pos layout.length_eq).trans (congrArg Instr.setClock (layout.wordAt_eq 0 rfl))

theorem managementInstr_loadPolicy {image : PolicyImage} (w : image.wellFormed = true)
    (layout : LaidOut p [leBytes 1 image.profile, image.actions.flatMap actionBytes,
      [image.identifyOpcode, image.healthOpcode, image.flushOpcode]] [1, 2 * image.actions.length, 3]) :
    managementInstr 0x04 p = .loadPolicy image := by
  simp only [PolicyImage.wellFormed, isByte, Bool.and_eq_true, decide_eq_true_eq] at w
  obtain ⟨⟨profile, count⟩, actions⟩ := w
  rw [count] at layout
  have carried : readActions 24 (p.drop 1) = image.actions := by
    rw [← count]
    exact readActions_of_prefix actions (layout.prefix_drop 1 rfl)
  exact (if_pos layout.length_eq).trans (congrArg Instr.loadPolicy ((PolicyImage.mk.injEq ..).mpr
    ⟨layout.field_eq 0 rfl profile, carried, layout.byteAt_eq 2 0 rfl rfl, layout.byteAt_eq 2 1 rfl rfl,
      layout.byteAt_eq 2 2 rfl rfl⟩))

theorem managementInstr_assignProfile {bay profile : Nat} (w : (Instr.assignProfile bay profile).wellFormed = true)
    (layout : LaidOut p [leBytes 1 bay, leBytes 1 profile] [1, 1]) :
    managementInstr 0x05 p = .assignProfile bay profile := by
  simp only [Instr.wellFormed, isByte, Bool.and_eq_true, decide_eq_true_eq] at w
  exact (if_pos layout.length_eq).trans ((Instr.assignProfile.injEq ..).mpr
    ⟨layout.field_eq 0 rfl w.1, layout.field_eq 1 rfl w.2⟩)

theorem managementInstr_loadJob {image : JobImage} (w : image.wellFormed = true)
    (layout : LaidOut p [leBytes 1 image.slot, leBytes 1 image.bay, leBytes 1 image.key, leBytes 1 image.program,
      leBytes 2 image.extentFirst, leBytes 2 image.extentCount, leBytes 2 image.stripeRequest,
      leBytes 2 image.tolerance, leBytes 1 image.labelLength, image.label]
      [1, 1, 1, 1, 2, 2, 2, 2, 1, image.label.length]) :
    managementInstr 0x08 p = .loadJob image := by
  simp only [JobImage.wellFormed, isByte, isHalf, Bool.and_eq_true, decide_eq_true_eq, and_assoc] at w
  obtain ⟨slot, bay, key, program, extentFirst, extentCount, stripeRequest, tolerance, labelLength, label⟩ := w
  rw [label] at layout
  exact (if_pos layout.length_eq).trans (congrArg Instr.loadJob ((JobImage.mk.injEq ..).mpr
    ⟨layout.field_eq 0 rfl slot, layout.field_eq 1 rfl bay, layout.field_eq 2 rfl key, layout.field_eq 3 rfl program,
      layout.field_eq 4 rfl extentFirst, layout.field_eq 5 rfl extentCount, layout.field_eq 6 rfl stripeRequest,
      layout.field_eq 7 rfl tolerance, layout.field_eq 8 rfl labelLength,
      (layout.drop_eq 9).trans (List.append_nil _)⟩))

theorem managementInstr_readCoverage {bay first count : Nat}
    (w : (Instr.readCoverage bay first count).wellFormed = true)
    (layout : LaidOut p [leBytes 1 bay, leBytes 2 first, leBytes 1 count] [1, 2, 1]) :
    managementInstr 0x22 p = .readCoverage bay first count := by
  simp only [Instr.wellFormed, isByte, isHalf, Bool.and_eq_true, decide_eq_true_eq, and_assoc] at w
  obtain ⟨bay, first, count⟩ := w
  exact (if_pos layout.length_eq).trans ((Instr.readCoverage.injEq ..).mpr
    ⟨layout.field_eq 0 rfl bay, layout.field_eq 1 rfl first, layout.field_eq 2 rfl count⟩)

theorem managementInstr_readCertificate {selector : Nat} {run : Word} (w : isByte selector = true)
    (layout : LaidOut p [leBytes 1 selector, leBytes 4 run.toNat] [1, 4]) :
    managementInstr 0x28 p = .readCertificate selector run :=
  (if_pos layout.length_eq).trans ((Instr.readCertificate.injEq ..).mpr
    ⟨layout.field_eq 0 rfl (of_decide_eq_true w), layout.wordAt_eq 1 rfl⟩)

theorem managementInstr_discardCertificate {run : Word} (layout : LaidOut p [leBytes 4 run.toNat] [4]) :
    managementInstr 0x29 p = .discardCertificate run :=
  (if_pos layout.length_eq).trans (congrArg Instr.discardCertificate (layout.wordAt_eq 0 rfl))

theorem managementInstr_clearAttention {bay : Nat} {mask : BitVec 16} (w : isByte bay = true)
    (layout : LaidOut p [leBytes 1 bay, leBytes 2 mask.toNat] [1, 2]) :
    managementInstr 0x30 p = .clearAttention bay mask := by
  have kinds : BitVec.ofNat 16 (field p 1 2) = mask := by
    have spelled : field p 1 2 = mask.toNat := layout.field_eq 1 rfl mask.isLt
    rw [spelled, BitVec.ofNat_toNat, BitVec.setWidth_eq]
  exact (if_pos layout.length_eq).trans ((Instr.clearAttention.injEq ..).mpr
    ⟨layout.field_eq 0 rfl (of_decide_eq_true w), kinds⟩)

theorem managementInstr_setNoticeRouting {channels : List Nat}
    (w : (Instr.setNoticeRouting channels).wellFormed = true)
    (layout : LaidOut p [channels.flatMap (leBytes 1)] [1 * channels.length]) :
    managementInstr 0x31 p = .setNoticeRouting channels := by
  simp only [Instr.wellFormed, isByte, Bool.and_eq_true, decide_eq_true_eq, List.all_eq_true] at w
  obtain ⟨count, small⟩ := w
  rw [count] at layout
  have carried : readBytes 10 p = channels := by
    rw [← count]
    exact readBytes_of_prefix small (layout.prefix_drop 0 rfl)
  exact (if_pos layout.length_eq).trans (congrArg Instr.setNoticeRouting carried)

theorem managementInstr_setIndicator {bay pattern : Nat} (w : (Instr.setIndicator bay pattern).wellFormed = true)
    (layout : LaidOut p [leBytes 1 bay, leBytes 1 pattern] [1, 1]) :
    managementInstr 0x32 p = .setIndicator bay pattern := by
  simp only [Instr.wellFormed, isByte, Bool.and_eq_true, decide_eq_true_eq] at w
  exact (if_pos layout.length_eq).trans ((Instr.setIndicator.injEq ..).mpr
    ⟨layout.field_eq 0 rfl w.1, layout.field_eq 1 rfl w.2⟩)

theorem managementInstr_setBayParameters {image : ParameterImage} (w : image.wellFormed = true)
    (layout : LaidOut p [leBytes 1 image.bay, leBytes 1 image.depth, leBytes 2 image.dataT1, leBytes 2 image.nativeT1,
      leBytes 2 image.t2, leBytes 2 image.debounce] [1, 1, 2, 2, 2, 2]) :
    managementInstr 0x33 p = .setBayParameters image := by
  simp only [ParameterImage.wellFormed, isByte, isHalf, Bool.and_eq_true, decide_eq_true_eq, and_assoc] at w
  obtain ⟨bay, depth, dataT1, nativeT1, t2, debounce⟩ := w
  exact (if_pos layout.length_eq).trans (congrArg Instr.setBayParameters ((ParameterImage.mk.injEq ..).mpr
    ⟨layout.field_eq 0 rfl bay, layout.field_eq 1 rfl depth, layout.field_eq 2 rfl dataT1,
      layout.field_eq 3 rfl nativeT1, layout.field_eq 4 rfl t2, layout.field_eq 5 rfl debounce⟩))

/-! ### Payloads that count their items -/

theorem managementInstr_loadClassMap {first count : Nat} {classes : List Nat}
    (w : (Instr.loadClassMap first count classes).wellFormed = true)
    (layout : LaidOut p [leBytes 1 first, leBytes 2 count, classes.flatMap (leBytes 1)] [1, 2, 1 * classes.length]) :
    managementInstr 0x03 p = .loadClassMap first count classes := by
  simp only [Instr.wellFormed, isByte, isHalf, Bool.and_eq_true, decide_eq_true_eq, List.all_eq_true, and_assoc] at w
  obtain ⟨low, half, rfl, small⟩ := w
  have counted : field p 1 2 = classes.length := layout.field_eq 1 rfl half
  have long : ¬ p.length < 3 + field p 1 2 := by
    rw [counted, layout.length_eq]
    simp only [List.sum_cons, List.sum_nil]
    omega
  have carried : readBytes (field p 1 2) (p.drop 3) = classes := by
    rw [counted]
    exact readBytes_of_prefix small (layout.prefix_drop 2 rfl)
  exact (if_neg long).trans ((Instr.loadClassMap.injEq ..).mpr ⟨layout.field_eq 0 rfl low, counted, carried⟩)

theorem managementInstr_loadProgram {program count : Nat} {passes : List PassImage}
    (w : (Instr.loadProgram program count passes).wellFormed = true)
    (layout : LaidOut p [leBytes 1 program, leBytes 1 count, passes.flatMap passBytes] [1, 1, 12 * passes.length]) :
    managementInstr 0x06 p = .loadProgram program count passes := by
  simp only [Instr.wellFormed, isByte, Bool.and_eq_true, decide_eq_true_eq, and_assoc] at w
  obtain ⟨low, small, rfl, formed⟩ := w
  have counted : field p 1 1 = passes.length := layout.field_eq 1 rfl small
  have long : ¬ p.length < 2 + 12 * field p 1 1 := by
    rw [counted, layout.length_eq]
    simp only [List.sum_cons, List.sum_nil]
    omega
  have carried : readPasses (field p 1 1) (p.drop 2) = passes := by
    rw [counted]
    exact readPasses_of_prefix formed (layout.prefix_drop 2 rfl)
  exact (if_neg long).trans ((Instr.loadProgram.injEq ..).mpr ⟨layout.field_eq 0 rfl low, counted, carried⟩)

theorem managementInstr_loadExtents {first count : Nat} {words : List ExtentWord}
    (w : (Instr.loadExtents first count words).wellFormed = true)
    (layout : LaidOut p [leBytes 2 first, leBytes 2 count, words.flatMap extentBytes] [2, 2, 10 * words.length]) :
    managementInstr 0x07 p = .loadExtents first count words := by
  simp only [Instr.wellFormed, isHalf, Bool.and_eq_true, decide_eq_true_eq, and_assoc] at w
  obtain ⟨low, small, rfl, formed⟩ := w
  have counted : field p 2 2 = words.length := layout.field_eq 1 rfl small
  have long : ¬ p.length < 4 + 10 * field p 2 2 := by
    rw [counted, layout.length_eq]
    simp only [List.sum_cons, List.sum_nil]
    omega
  have carried : readExtents (field p 2 2) (p.drop 4) = words := by
    rw [counted]
    exact readExtents_of_prefix formed (layout.prefix_drop 2 rfl)
  exact (if_neg long).trans ((Instr.loadExtents.injEq ..).mpr ⟨layout.field_eq 0 rfl low, counted, carried⟩)

end

/-! ### Every command -/

/-- The command that is encoded is decoded (R180, R181). -/
theorem managementInstr_of_encodeManagement {i : Instr} {code : Byte} {payload : List Byte}
    (w : i.wellFormed = true) (e : encodeManagement i = some (code, payload)) : managementInstr code payload = i := by
  cases i with
  | identifyBridge => cases e; rfl
  | setClock value => cases e; exact managementInstr_setClock (.single rfl)
  | loadClassMap first count classes =>
    cases e
    exact managementInstr_loadClassMap w (((LaidOut.single rfl).append rfl).appendTable (Laws.length_leBytes 1) _)
  | loadPolicy image =>
    cases e
    exact managementInstr_loadPolicy w (((LaidOut.single rfl).appendTable Laws.length_actionBytes _).append rfl)
  | assignProfile bay profile => cases e; exact managementInstr_assignProfile w ⟨rfl, rfl⟩
  | loadProgram program count passes =>
    cases e
    exact managementInstr_loadProgram w (((LaidOut.single rfl).append rfl).appendTable Laws.length_passBytes _)
  | loadExtents first count words =>
    cases e
    exact managementInstr_loadExtents w (((LaidOut.single rfl).append rfl).appendTable Laws.length_extentBytes _)
  | loadJob image =>
    cases e
    exact managementInstr_loadJob w ⟨by
      simp only [List.flatten_cons, List.flatten_nil, List.append_nil, List.append_assoc], rfl⟩
  | start slot => cases e; exact congrArg Instr.start (field_leBytes_one w)
  | trigger slot => cases e; exact congrArg Instr.trigger (field_leBytes_one w)
  | cancelTrigger slot => cases e; exact congrArg Instr.cancelTrigger (field_leBytes_one w)
  | pause slot => cases e; exact congrArg Instr.pause (field_leBytes_one w)
  | resume slot => cases e; exact congrArg Instr.resume (field_leBytes_one w)
  | cancel slot => cases e; exact congrArg Instr.cancel (field_leBytes_one w)
  | release slot => cases e; exact congrArg Instr.release (field_leBytes_one w)
  | readJobStatus slot => cases e; exact congrArg Instr.readJobStatus (field_leBytes_one w)
  | readBayStatus bay => cases e; exact congrArg Instr.readBayStatus (field_leBytes_one w)
  | readCoverage bay first count => cases e; exact managementInstr_readCoverage w ⟨rfl, rfl⟩
  | readCertificate selector run => cases e; exact managementInstr_readCertificate w ⟨rfl, rfl⟩
  | discardCertificate run => cases e; exact managementInstr_discardCertificate ⟨rfl, rfl⟩
  | clearAttention bay mask => cases e; exact managementInstr_clearAttention w ⟨rfl, rfl⟩
  | setNoticeRouting channels =>
    cases e
    exact managementInstr_setNoticeRouting w (.single (Laws.length_flatMap_const _ _ (Laws.length_leBytes 1) _))
  | setIndicator bay pattern => cases e; exact managementInstr_setIndicator w ⟨rfl, rfl⟩
  | setBayParameters image => cases e; exact managementInstr_setBayParameters w ⟨rfl, rfl⟩
  | resetBay bay => cases e; exact congrArg Instr.resetBay (field_leBytes_one w)
  | resetBridge => cases e; rfl
  | coldReset | upstreamLinkReset | linkUp | commandFrame | invalidFrame | dataFrame | unknownCommand
  | presenceAsserted | presenceDropped | debounceExpiry | deviceFaultIndication | resetTimerExpiry | requestCompletion
  | abortConfirmation | abortRefusal | t1Expiry | t2Expiry | driveDataIn | driveDataOut | extentScanWord | engineGrant
  | nativeEraseIssue | passthroughGrant | holdExpiry | buildComplete | indicatorPhase | clockSecond => cases e

end Sys2Proof.Proofs
end

section
/-! The frames the bridge sends, read back: the sixteen bytes of the header field by field, and the payload behind them
(R180). -/

namespace Sys2Proof.Proofs

open Sys2Proof Sys2Proof.Machine Sys2Proof.Safety

/-! ### Headers -/

theorem leNat_leBytes_of_lt {n x : Nat} (small : x < 256 ^ n) : leNat (leBytes n x) = x :=
  (Laws.leNat_leBytes n x).trans (Nat.mod_eq_of_lt small)

/-- The bytes of a frame from an offset on for which the spec states no value (log 3). -/
def unstated (f : OutFrame) (offset size : Nat) : List Byte :=
  (List.range' offset size).map (Config.unstatedByte f)

/-- The header's fields stand at their offsets, and the payload behind them (R180). -/
theorem frameHeader_of_laidOut {bytes kind target tag key status size lba count payload : List Byte} {opcode : Byte}
    {n : Nat} (layout : LaidOut bytes [kind, target, tag, key, [opcode], status, size, lba, count, payload]
      [1, 1, 1, 1, 1, 1, 2, 6, 2, n]) :
    frameHeader bytes = some { kind := leNat kind, target := leNat target, tag := leNat tag, key := leNat key
                               opcode := opcode, status := leNat status, payloadLength := leNat size
                               lba := leNat lba, count := leNat count } ∧
      bytes.drop 16 = payload := by
  have long : ¬ bytes.length < headerBytes := by
    rw [layout.length_eq]
    simp only [List.sum_cons, List.sum_nil, headerBytes]
    omega
  exact ⟨(if_neg long).trans (congrArg some ((FrameHeader.mk.injEq ..).mpr
    ⟨layout.leNat_eq 0 rfl rfl, layout.leNat_eq 1 rfl rfl, layout.leNat_eq 2 rfl rfl, layout.leNat_eq 3 rfl rfl,
      layout.byteAt_eq 4 0 rfl rfl, layout.leNat_eq 5 rfl rfl, layout.leNat_eq 6 rfl rfl, layout.leNat_eq 7 rfl rfl,
      layout.leNat_eq 8 rfl rfl⟩)), (layout.drop_eq 9).trans (List.append_nil _)⟩

/-! ### The four kinds of frame -/

theorem laidOut_response (target : Nat) (tag : Tag) (opcode : Byte) (status : ResponseStatus) (substituted : Bool) :
    let f := OutFrame.response target tag opcode status substituted
    LaidOut f.bytes [leBytes 1 0x03, leBytes 1 target, leBytes 1 tag.val, [f.keyByte], [opcode],
      leBytes 1 (status.code + if substituted then 0x80 else 0), leBytes 2 0, unstated f 8 6, unstated f 14 2, []]
      [1, 1, 1, 1, 1, 1, 2, 6, 2, 0] := ⟨rfl, rfl⟩

theorem laidOut_reply (tag : Tag) (code : Byte) (d : Disposition) (data : ReplyData) :
    let f := OutFrame.reply tag code d data
    LaidOut f.bytes [leBytes 1 0x03, leBytes 1 managementTarget, leBytes 1 tag.val, [f.keyByte], [code],
      leBytes 1 d.code, leBytes 2 data.bytes.length, leBytes 6 0, leBytes 2 (reasonField d data), data.bytes]
      [1, 1, 1, 1, 1, 1, 2, 6, 2, data.bytes.length] where
  joined := by
    simp only [OutFrame.bytes, List.flatten_cons, List.flatten_nil, List.append_nil, List.append_assoc]
  sized := rfl

theorem laidOut_data (b : BayId) (tag : Tag) (payload : List Byte) :
    let f := OutFrame.data b tag payload
    LaidOut f.bytes [leBytes 1 0x02, leBytes 1 b.val, leBytes 1 tag.val, [f.keyByte], [Config.unstatedByte f 4],
      unstated f 5 1, leBytes 2 payload.length, unstated f 8 6, unstated f 14 2, payload]
      [1, 1, 1, 1, 1, 1, 2, 6, 2, payload.length] where
  joined := by
    simp only [OutFrame.bytes, List.flatten_cons, List.flatten_nil, List.append_nil, List.append_assoc]
    rfl
  sized := rfl

theorem laidOut_notice (b : BayId) (channel : Nat) (set : AttentionSet) :
    let f := OutFrame.notice b channel set
    LaidOut f.bytes [leBytes 1 0x04, leBytes 1 b.val, leBytes 1 0, [f.keyByte], [BitVec.ofNat 8 channel],
      unstated f 5 1, leBytes 2 2, unstated f 8 6, unstated f 14 2, leBytes 2 set.toNat]
      [1, 1, 1, 1, 1, 1, 2, 6, 2, 2] := ⟨rfl, rfl⟩

/-! ### The values in the fields -/

theorem responseStatus_code_lt (status : ResponseStatus) : status.code < 0x80 := by cases status <;> decide

theorem disposition_code_lt (d : Disposition) : d.code < 256 := by cases d <;> simp [Disposition.code]

theorem reason_code_lt (r : Reason) : r.code < 2 ^ 16 := by cases r <;> decide

theorem reasonField_lt (d : Disposition) (data : ReplyData) : reasonField d data < 2 ^ 16 := by
  cases d with
  | accepted => unfold reasonField; dsimp only; split <;> decide
  | refused r => exact reason_code_lt r
  | busy => exact Nat.two_pow_pos 16
  | absent => exact Nat.two_pow_pos 16

theorem length_clampedActionBytes (e : ClampedAction) : (clampedActionBytes e).length = 3 := rfl

/-! ### Settled: both ways of the wire -/

/-- Settles O14: a command's payload is laid out as its decoder reads it, and a frame's bytes as `frameHeader` does. -/
theorem managementCommandsRoundTrip : Obligations.ManagementCommandsRoundTrip := by
  unfold Obligations.ManagementCommandsRoundTrip
  refine ⟨fun i code payload => managementInstr_of_encodeManagement,
    fun target tag opcode status sub small => ?response, fun tag op d data short => ?reply,
    fun b tag payload short => ?data, fun b channel set low => ?notice, fun set => rfl,
    fun passes => map_toNat_flatMap_leBytes, fun before e after => ?clamped⟩
  case response =>
    obtain ⟨header, behind⟩ := frameHeader_of_laidOut (laidOut_response target tag opcode status sub)
    have code := responseStatus_code_lt status
    have value : status.code + (if sub then 0x80 else 0) < 256 ^ 1 := by split <;> omega
    refine ⟨_, header, rfl, leNat_leBytes_of_lt (by omega), leNat_leBytes_of_lt (by omega), Laws.keyByte_lt _, rfl,
      (leNat_leBytes_of_lt value).trans ?_, rfl, behind⟩
    cases sub <;> cases status <;> rfl
  case reply =>
    obtain ⟨header, behind⟩ := frameHeader_of_laidOut (laidOut_reply tag op d data)
    refine ⟨_, header, rfl, rfl, leNat_leBytes_of_lt (by omega), rfl, rfl,
      (leNat_leBytes_of_lt (disposition_code_lt d)).trans ?_, rfl,
      (leNat_leBytes_of_lt (reasonField_lt d data)).trans ?_, leNat_leBytes_of_lt short, behind⟩
    · cases d <;> rfl
    · cases d with
      | accepted => cases data <;> rfl
      | refused r => cases r <;> rfl
      | busy => rfl
      | absent => rfl
  case data =>
    obtain ⟨header, behind⟩ := frameHeader_of_laidOut (laidOut_data b tag payload)
    exact ⟨_, header, rfl, leNat_leBytes_of_lt (by omega), leNat_leBytes_of_lt (by omega), Laws.keyByte_lt _,
      leNat_leBytes_of_lt short, behind⟩
  case notice =>
    have layout := laidOut_notice b channel set
    obtain ⟨header, behind⟩ := frameHeader_of_laidOut layout
    refine ⟨_, header, rfl, leNat_leBytes_of_lt (by omega), rfl, Laws.keyByte_lt _, Nat.mod_eq_of_lt (by omega), rfl,
      layout.length_eq, ?_⟩
    rw [behind, leNat_leBytes_of_lt (by omega)]
  case clamped =>
    have note : (before ++ e :: after)[before.length]? = some e := by simp
    refine (take_eq_of_prefix (item_prefix_drop length_clampedActionBytes note) rfl).trans ?_
    obtain ⟨cls, active, action⟩ := e
    cases active <;> cases action <;> rfl

end Sys2Proof.Proofs
end

section
/-! The step function, case by case of the queue of commands. -/

namespace Sys2Proof.Proofs

open Sys2Proof.Machine

/-- With an empty queue the block idles (log 2). -/
theorem step_of_pending_nil {s : State} (queue : s.pending = []) : step s = .next s := by
  simp only [step, queue]

/-- First in, first out: the command at the front is carried out, and the queue's rest stands behind it. -/
theorem step_of_pending_cons {s : State} {c : Instr} {rest : List Instr} (queue : s.pending = c :: rest) :
    step s = exec c (s.putPending rest) := by
  simp only [step, queue]

/-- Settles O1, by the two shapes of the queue. -/
theorem stepTakesTheFrontCommand : Obligations.StepTakesTheFrontCommand := by
  unfold Obligations.StepTakesTheFrontCommand
  exact fun s => ⟨fun c rest queue => step_of_pending_cons queue, step_of_pending_nil⟩

end Sys2Proof.Proofs
end
